-- ==== Sys2Proof/Word.lean ====
section
/-! DEFINITION. The word types of the block (00_scope R7) and the sparse table that stands for numbered storage. -/
namespace Sys2Proof

/-- R7: a byte. -/
abbrev Byte := BitVec 8

/-- R7: a word; every setup register is one (R8). -/
abbrev Word := BitVec 32

/-- R7: a doubleword; a granule is a doubleword with its code. -/
abbrev DWord := BitVec 64

/-- A SHA-384 digest or a P-384 scalar (R7, R262): 48 bytes. -/
abbrev Digest := BitVec 384

/-- Numbered storage held sparsely: pairs of a number and its content. The operations of `Machine/Tab.lean` keep the
numbers strictly rising and list no entry equal to what an unlisted number holds. -/
abbrev Tab (α : Type) := List (Nat × α)

end Sys2Proof
end

