-- ==== Sys2Proof/Syntax.lean ====
section
/-! DEFINITION. The commands of the block: every row of the spec's table of operations and events, with its operands. -/
namespace Sys2Proof

/-- Who makes a setup-window access (R313, R329): the system port, the debug TAP through DBGACC, or a thread by its
global number. -/
inductive Src where
  | host
  | tap
  | thread (g : Fin 256)
  deriving DecidableEq, Repr

/-- What the flash controller reports with a read (R397, R451): clean, corrected or uncorrectable. -/
inductive Ecc where
  | clean
  | corrected
  | uncorrectable
  deriving DecidableEq, Repr

/-- How the array carried a flash operation out, as only the surroundings know it (R400): every doubleword verified, or
the number verified before the first that failed. -/
inductive FlashResult where
  | allVerified
  | failedAfter (dws : Nat)
  deriving DecidableEq, Repr

/-- What a failed host-memory access served (R301): one session, or the eight sessions of a doorbell line. -/
inductive HostUnit where
  | session (s : Fin 1024)
  | group (g : Fin 128)
  deriving DecidableEq, Repr

/-- Why a port enters LINK[n] reset (R371), in the coding of PORT_RESET (R394). -/
inductive LinkCause where
  | en
  | phy
  | frame
  | silence
  | sbAlive
  deriving DecidableEq, Repr

/-- The sender of a remote message (R383): an output end of a Span, or a node conduit. -/
inductive MsgSender where
  | chanEnd (n : Fin 16) (e : Fin 128)
  | conduit (d : Fin 4096)
  deriving DecidableEq, Repr

/-- The unit whose transaction with the surroundings timed out (R436). -/
inductive IfaceUnit where
  | systemPort (unit : HostUnit)
  | flash (bank : Fin 4)
  | setupAccess (n : Fin 16) (t : Fin 16)
  | keyPort
  deriving DecidableEq, Repr

/-- A frame of the link (R370) without its trailer: the header word and the body words. -/
structure Frame where
  header : DWord
  body : List DWord
  deriving DecidableEq, Repr

/-- The commands: one constructor per row of the spec's table of operations and events. Each carries the operands the
row's rule names; a Strand or Clove row carries the unit that executes it (its program is state), and what only the
surroundings know (a pad level, the clocks present, a frame, a host line) comes with the command. Where one that has a default is
left out, every clock is present, every bank's supply is sensed at 1, and a write is of a word. -/
inductive Instr where
  /-- R40: A write of SPAN_EN.EN[n] from 0 to 1 runs the check on Span n and, if it passes, resumes issue, engines and timed ports. -/
  | spanEnable (n : Fin 16)
  /-- R39: A write of SPAN_EN.EN[n] from 1 to 0 stops issue at the next round boundary, empties timed queues, stops engines and drops output enables, unless a Clove channel of the Span serves an enabled Guard target. -/
  | spanDisable (n : Fin 16)
  /-- R39: Once the instructions left in flight at a disable have passed WBK and the retry registers are served, the core of a disabled Span stops completing rounds. -/
  | spanCoreStop (n : Fin 16)
  /-- R41: A write to RST_CTRL with MAIN = 1 and KEY 0x4D52 asserts MAIN reset; with any other key it is recorded at WARN and has no other effect. -/
  | mainResetRequest (v : Word)
  /-- R459: MAIN reset is released: TB and ACC are loaded, pad reset values are sent, option load and Moraine genesis run, and all Spans are released with SP0.T0 starting the boot ROM. -/
  | mainResetRelease (clks : BitVec 12) (vsense : BitVec 16 := 0xFFFF)
  /-- R32: A write of 1 to SPAN_RST.PULSE bit n asserts SPAN[n] reset for 16 ticks, or asserts MAIN reset with CAUSE 0x7 when it names Span 0 before the boot is done. -/
  | spanResetPulse (mask : BitVec 16)
  /-- R32: A SPAN[n] reset is released after its 16 ticks, and Span n starts with reset threads and live state. -/
  | spanResetRelease (n : Fin 16)
  /-- R46: Reads TB into A:X as a value at most 3 ticks old and never below an earlier TBRD of the same thread. -/
  | tbrd (n : Fin 16) (t : Fin 16)
  /-- R143: Waits until TB reaches A:X, setting T when the tick had already passed at the first test. -/
  | waitt (n : Fin 16) (t : Fin 16)
  /-- R143: Waits until channel end c holds a ready word or TB reaches A:X, setting T when it ends on the tick. -/
  | waite (n : Fin 16) (t : Fin 16)
  /-- R127: At a round boundary a waiting thread's wake condition holds, and the thread issues its wait again in its next own slot. -/
  | waitWake (n : Fin 16) (t : Fin 16)
  /-- R145: Reads a 16-byte descriptor, forms the absolute stamp and hands the operation to the timed port bound to the window slot, holding while the time-ahead, entry or record limits are reached. -/
  | tq (n : Fin 16) (t : Fin 16)
  /-- R61: A TQ operation arrives through the crossing into its port's queue and receives its effective key, or is discarded at once when its guard group is squashed. -/
  | tqEntry (n : Fin 16) (t : Fin 16)
  /-- R64: At the tick of an entry's effective key, the pin-bank domain discards, squashes or performs it in eighth, window-slot and queue order. -/
  | timedEntryDue (n : Fin 16) (t : Fin 16) (guardPins : BitVec 24) (pins : BitVec 192)
  /-- R145: Moves the oldest record of a window slot into A, waiting for one, or writes A = 0 and sets T when nothing is outstanding. -/
  | tqsr (n : Fin 16) (t : Fin 16)
  /-- R68: Reopens guard group g of the issuing thread, in issue order with its TQs. -/
  | tqgc (n : Fin 16) (t : Fin 16)
  /-- R69: Copies TW_EVT of the thread into A and clears its VALID and OVF bits. -/
  | tqev (n : Fin 16) (t : Fin 16)
  /-- R68: A write of 1 to a bit of TW_GRP.SQUASHED reopens that guard group. -/
  | twGrpReopen (n : Fin 16) (t : Fin 16) (groups : BitVec 8)
  /-- R55: Setting TP_CFG.EN runs the check on the timed port and enables it with its cursor at (0, 0). -/
  | tpEnable (n : Fin 16) (p : Fin 32) (v : Word)
  /-- R70: Clearing TP_CFG.EN empties the port's queue and records without pin effect and applies the other fields of the write. -/
  | tpDisable (n : Fin 16) (p : Fin 32) (v : Word)
  /-- R97: An event or trap latches in a thread at a round boundary, squashing recent instructions and abandoning waits, holds and multi-beat instructions. -/
  | eventLatch (n : Fin 16) (t : Fin 16)
  /-- R97: In the thread's first own slots after a latch, entry beats save EPC, EFL and ECAUSE, mask events and start the handler at EVB. -/
  | eventEntry (n : Fin 16) (t : Fin 16)
  /-- R142: Once TB reaches WT with WTCTL.ARM set, a DEADLINE event fires at the next round boundary and ARM clears. -/
  | deadlineFire (n : Fin 16) (t : Fin 16)
  /-- R83: A request waiting in a thread's retry register wins phase-B arbitration and is served, after which the thread issues again. -/
  | retryService (n : Fin 16) (t : Fin 16)
  /-- R82: A store-buffer entry is drained to its bank in a free phase-B slot. -/
  | storeBufferDrain (n : Fin 16)
  /-- R108: The response to a thread's setup-window access arrives, and the load lands or an error response sets T and writes 0xFFFF_FFFF. -/
  | setupAccessResponse (n : Fin 16) (t : Fin 16) (err : Bool)
  /-- R92: A requested 256-bit flash or boot-ROM line arrives in the core's line buffer, and threads parked on it may issue. -/
  | lineFill (n : Fin 16) (line : Nat) (ecc : Ecc)
  /-- R96: A thread parked for 64 µs gets a second TRACE entry and stays parked. -/
  | parkLong (n : Fin 16) (t : Fin 16)
  /-- R25: An XIP fetch that has waited 64 µs behind higher-order flash traffic records a TRACE entry and keeps waiting. -/
  | xipWait (n : Fin 16) (t : Fin 16)
  /-- R93: A write of FETCH_CTRL.BTB_FLUSH invalidates every branch-target buffer entry. -/
  | btbFlush (n : Fin 16)
  /-- R92: A write of FETCH_CTRL.LBUF_FLUSH invalidates every line buffer line that does not hold a present PC. -/
  | lbufFlush (n : Fin 16)
  /-- R100: A write of any value to ARB_CNT clears both of its counts. -/
  | arbCntClear (n : Fin 16)
  /-- R130: Loads A from the operand, or A:X for size D. -/
  | ld (n : Fin 16) (t : Fin 16)
  /-- R130: Loads X from the operand. -/
  | ldx (n : Fin 16) (t : Fin 16)
  /-- R130: Loads Y from the operand. -/
  | ldy (n : Fin 16) (t : Fin 16)
  /-- R130: Loads A from the operand, sign-extended from byte or halfword. -/
  | lds (n : Fin 16) (t : Fin 16)
  /-- R130: Stores A, or A:X for size D, to memory or to a register. -/
  | st (n : Fin 16) (t : Fin 16)
  /-- R130: Stores X to memory or to a register. -/
  | stx (n : Fin 16) (t : Fin 16)
  /-- R130: Stores Y to memory or to a register. -/
  | sty (n : Fin 16) (t : Fin 16)
  /-- R130: Writes a register with a zero-extended 16-bit immediate. -/
  | lil (n : Fin 16) (t : Fin 16)
  /-- R130: Writes the high half of a register with a 16-bit immediate and keeps its low half. -/
  | lih (n : Fin 16) (t : Fin 16)
  /-- R132: Adds the operand to A. -/
  | add (n : Fin 16) (t : Fin 16)
  /-- R132: Adds the operand and C to A. -/
  | adc (n : Fin 16) (t : Fin 16)
  /-- R132: Subtracts the operand from A. -/
  | sub (n : Fin 16) (t : Fin 16)
  /-- R132: Subtracts the operand and the borrow from A. -/
  | sbc (n : Fin 16) (t : Fin 16)
  /-- R132: ANDs the operand into A. -/
  | andd (n : Fin 16) (t : Fin 16)
  /-- R132: ORs the operand into A. -/
  | orr (n : Fin 16) (t : Fin 16)
  /-- R132: XORs the operand into A. -/
  | xorr (n : Fin 16) (t : Fin 16)
  /-- R132: Sets the flags of A minus the operand. -/
  | cmp (n : Fin 16) (t : Fin 16)
  /-- R132: Sets the flags of X minus the operand. -/
  | cpx (n : Fin 16) (t : Fin 16)
  /-- R132: Sets the flags of Y minus the operand. -/
  | cpy (n : Fin 16) (t : Fin 16)
  /-- R132: Sets the flags of A AND the operand and leaves A unchanged. -/
  | bit (n : Fin 16) (t : Fin 16)
  /-- R132: Increments A, X or Y. -/
  | inc (n : Fin 16) (t : Fin 16)
  /-- R132: Decrements A, X or Y. -/
  | dec (n : Fin 16) (t : Fin 16)
  /-- R132: Negates A. -/
  | neg (n : Fin 16) (t : Fin 16)
  /-- R132: Inverts A. -/
  | nott (n : Fin 16) (t : Fin 16)
  /-- R132: Copies one of A, X and Y into another. -/
  | mov (n : Fin 16) (t : Fin 16)
  /-- R134: Shifts A left by n. -/
  | shl (n : Fin 16) (t : Fin 16)
  /-- R134: Shifts A right by n with zero fill. -/
  | shr (n : Fin 16) (t : Fin 16)
  /-- R134: Shifts A right by n with sign fill. -/
  | asr (n : Fin 16) (t : Fin 16)
  /-- R134: Rotates A right by n. -/
  | ror (n : Fin 16) (t : Fin 16)
  /-- R134: Writes the unsigned 64-bit product of A and the operand to A:X, in two beats. -/
  | mul (n : Fin 16) (t : Fin 16)
  /-- R135: Adds the operand and C to A in packed decimal. -/
  | dadd (n : Fin 16) (t : Fin 16)
  /-- R135: Subtracts the operand and the borrow from A in packed decimal. -/
  | dsub (n : Fin 16) (t : Fin 16)
  /-- R135: Forms the decimal magnitude of a negative one-word result and its sign in N. -/
  | dadj (n : Fin 16) (t : Fin 16)
  /-- R138: Folds the data bits of X into the CRC state in A, under CRCCFG and the mode in Y, in SERVICE only. -/
  | crcs (n : Fin 16) (t : Fin 16)
  /-- R137: Sets C to the parity of A, in SERVICE only. -/
  | par (n : Fin 16) (t : Fin 16)
  /-- R137: Reverses the bit order of A, in SERVICE only. -/
  | brev (n : Fin 16) (t : Fin 16)
  /-- R139: Branches to the PC-relative target. -/
  | br (n : Fin 16) (t : Fin 16)
  /-- R116: A BR with condition NV requests the flash line of its target for a best-effort thread and is otherwise a no-op. -/
  | nvHint (n : Fin 16) (t : Fin 16)
  /-- R139: Pushes the next PC on RSTK and branches to the PC-relative target. -/
  | call (n : Fin 16) (t : Fin 16)
  /-- R139: Decrements X and branches when the X it reads is not 1. -/
  | dbx (n : Fin 16) (t : Fin 16)
  /-- R139: Jumps to the address held in a register. -/
  | jmpr (n : Fin 16) (t : Fin 16)
  /-- R139: Pushes the next PC and jumps to the address held in a register. -/
  | callr (n : Fin 16) (t : Fin 16)
  /-- R139: Pops the return address from RSTK and branches to it. -/
  | ret (n : Fin 16) (t : Fin 16)
  /-- R100: Restores PC from EPC and FL from EFL, and unmasks the thread's events. -/
  | rete (n : Fin 16) (t : Fin 16)
  /-- R117: Sets the begin, end and count registers of a loop level and deactivates every higher level. -/
  | loop (n : Fin 16) (t : Fin 16)
  /-- R139: Deactivates a loop level by setting its count to 0. -/
  | lclr (n : Fin 16) (t : Fin 16)
  /-- R141: Copies a special register into A, X or Y. -/
  | mfs (n : Fin 16) (t : Fin 16)
  /-- R141: Copies A, X or Y into a special register. -/
  | mts (n : Fin 16) (t : Fin 16)
  /-- R141: Writes all 64 bits of WT from A:X at once. -/
  | wtld (n : Fin 16) (t : Fin 16)
  /-- R141: Adds a signed 15-bit tick count to WT. -/
  | wtadd (n : Fin 16) (t : Fin 16)
  /-- R141: Sets or clears WTCTL.ARM. -/
  | wtarm (n : Fin 16) (t : Fin 16)
  /-- R147: Reads and removes the next word of a released message at an input end, waiting for one, with C marking the last word. -/
  | cin (n : Fin 16) (t : Fin 16)
  /-- R147: Stages A as the next word of the message at an output end, holding while the store is full. -/
  | cout (n : Fin 16) (t : Fin 16)
  /-- R147: Stages A and then releases the message at an output end. -/
  | coute (n : Fin 16) (t : Fin 16)
  /-- R147: Releases the words staged at an output end, and never holds. -/
  | cend (n : Fin 16) (t : Fin 16)
  /-- R149: Does nothing for one own slot. -/
  | nop (n : Fin 16) (t : Fin 16)
  /-- R149: Sets T. -/
  | sett (n : Fin 16) (t : Fin 16)
  /-- R149: Clears T. -/
  | clrt (n : Fin 16) (t : Fin 16)
  /-- R149: Puts the thread in IDLE at WBK, wakeable by an enabled event. -/
  | idle (n : Fin 16) (t : Fin 16)
  /-- R149: Raises the BRK trap, or halts the thread when DBG_CTL.BRK_HALT is 1. -/
  | brk (n : Fin 16) (t : Fin 16)
  /-- R124: Runs customer instruction n from the decode table as beats, committing its results in the last beat. -/
  | xop (n : Fin 16) (t : Fin 16)
  /-- R400: Blank-checks the target doublewords, then programs them from BUF in address order and verifies each at M0. -/
  | flashopProgram (n : Fin 16) (t : Fin 16)
  /-- R400: Erases one 8 KiB sector and verifies it raw at M1. -/
  | flashopEraseSector (n : Fin 16) (t : Fin 16)
  /-- R400: Reads COUNT doublewords raw and compares each with the erased value. -/
  | flashopBlankCheck (n : Fin 16) (t : Fin 16)
  /-- R400: Copies COUNT doublewords, read raw at margin M0, into BUF. -/
  | flashopMarginReadM0 (n : Fin 16) (t : Fin 16)
  /-- R400: Copies COUNT doublewords, read raw at margin M1, into BUF. -/
  | flashopMarginReadM1 (n : Fin 16) (t : Fin 16)
  /-- R151: A flash operation ends; the block writes STATUS and then sends the completion word when NOTIFY.EN is 1. -/
  | flashopComplete (res : FlashResult)
  /-- R397: A flash controller request that breaks its bound fails with 0x0A08 and marks its bank FAULT. -/
  | flashTimeout (bank : Fin 4) (kind : Nat)
  /-- R155: A write of THR_CTL.GO starts an IDLE or HALTED thread at THR_PC in the requested state. -/
  | thrGo (src : Src) (n : Fin 16) (t : Fin 16) (v : Word)
  /-- R155: A write of THR_CTL.STOP puts a running thread in IDLE, not wakeable, at a round boundary. -/
  | thrStop (src : Src) (n : Fin 16) (t : Fin 16) (v : Word)
  /-- R161: Setting CHE_CFG.EN runs the check on the channel end and enables it. -/
  | cheEnable (src : Src) (n : Fin 16) (e : Fin 128) (v : Word)
  /-- R169: Clearing CHE_CFG.EN discards the end's staged or buffered words into DROPS and clears WD_EN if it was the watchdog end. -/
  | cheDisable (src : Src) (n : Fin 16) (e : Fin 128) (v : Word)
  /-- R164: Released words move from an output end's store to the input end's buffer as room allows, raising a CHANNEL event on a message's first readable word. -/
  | channelDelivery (n : Fin 16) (e : Fin 128)
  /-- R181: Setting SERAC_CTL.WD_EN checks that WD_END is an enabled Serac-notice input end of WD_THREAD. -/
  | seracWdEnable (src : Src) (n : Fin 16) (v : Word)
  /-- R190: A Clove step runs nop and does nothing. -/
  | cloveNop (n : Fin 16) (e : Fin 12) (pins : BitVec 24)
  /-- R194: A Clove step drives n group bits from the shifter and shifts it. -/
  | cloveOut (n : Fin 16) (e : Fin 12) (pins : BitVec 24)
  /-- R194: A Clove step samples n group bits into the shifter. -/
  | cloveIn (n : Fin 16) (e : Fin 12) (pins : BitVec 24)
  /-- R190: A Clove step sets the output latches of the masked group bits. -/
  | cloveSet (n : Fin 16) (e : Fin 12) (pins : BitVec 24)
  /-- R190: A Clove step sets the output enable of every pin of mask OEA or OEB. -/
  | cloveOe (n : Fin 16) (e : Fin 12) (pins : BitVec 24)
  /-- R197: A Clove step moves the oldest in FIFO word into SH, stalling while the FIFO is empty. -/
  | clovePull (n : Fin 16) (e : Fin 12) (pins : BitVec 24)
  /-- R197: A Clove step moves the oldest in FIFO word into SH, or reuses LASTIN and sets STALE when the FIFO is empty. -/
  | clovePulln (n : Fin 16) (e : Fin 12) (pins : BitVec 24)
  /-- R198: A Clove step adds SH to the out FIFO, stalling while the FIFO is full. -/
  | clovePush (n : Fin 16) (e : Fin 12) (pins : BitVec 24)
  /-- R198: A Clove step adds SH to the out FIFO, or replaces its newest word and sets STALE when it is full. -/
  | clovePushn (n : Fin 16) (e : Fin 12) (pins : BitVec 24)
  /-- R190: A Clove step copies one bit variable into another. -/
  | cloveMov (n : Fin 16) (e : Fin 12) (pins : BitVec 24)
  /-- R190: A Clove step ANDs a bit variable into another. -/
  | cloveAnd (n : Fin 16) (e : Fin 12) (pins : BitVec 24)
  /-- R190: A Clove step ORs a bit variable into another. -/
  | cloveOr (n : Fin 16) (e : Fin 12) (pins : BitVec 24)
  /-- R190: A Clove step XORs a bit variable into another. -/
  | cloveXor (n : Fin 16) (e : Fin 12) (pins : BitVec 24)
  /-- R192: A Clove step jumps to its target when its condition holds. -/
  | cloveJmp (n : Fin 16) (e : Fin 12) (pins : BitVec 24)
  /-- R190: A Clove step completes when a bit equals v and stalls otherwise. -/
  | cloveWait (n : Fin 16) (e : Fin 12) (pins : BitVec 24)
  /-- R190: A Clove step loads CNTA or CNTB with an immediate. -/
  | cloveLdc (n : Fin 16) (e : Fin 12) (pins : BitVec 24)
  /-- R190: A Clove step copies one channel register into another. -/
  | cloveMvr (n : Fin 16) (e : Fin 12) (pins : BitVec 24)
  /-- R190: A Clove step loads half of SH with an immediate and optionally sets SHCNT. -/
  | cloveLdsh (n : Fin 16) (e : Fin 12) (pins : BitVec 24)
  /-- R190: A Clove step makes the channel's next n own steps do nothing. -/
  | cloveDly (n : Fin 16) (e : Fin 12) (pins : BitVec 24)
  /-- R190: A Clove step sets the run-time wrap-begin and wrap-end. -/
  | cloveWrap (n : Fin 16) (e : Fin 12) (pins : BitVec 24)
  /-- R203: A Clove step folds n bits of the input or output end into CRCV. -/
  | cloveCrc (n : Fin 16) (e : Fin 12) (pins : BitVec 24)
  /-- R190: A Clove step clears ADDR or shifts n input-end bits into it. -/
  | cloveGadr (n : Fin 16) (e : Fin 12) (pins : BitVec 24)
  /-- R200: A Clove step posts (target, address, operation) to the Guard and sets GPEND, or sets ERR when no valid binding allows the post. -/
  | cloveGpost (n : Fin 16) (e : Fin 12) (pins : BitVec 24)
  /-- R202: A Clove step sends n input-end bytes to the hash stream port while GM is 1, dropping them when the port is full. -/
  | cloveHsh (n : Fin 16) (e : Fin 12) (pins : BitVec 24)
  /-- R204: A Clove step raises the CLOVE event when its source is enabled. -/
  | cloveIrq (n : Fin 16) (e : Fin 12) (pins : BitVec 24)
  /-- R190: A Clove step halts the channel. -/
  | cloveHalt (n : Fin 16) (e : Fin 12) (pins : BitVec 24)
  /-- R199: A word from the bound output end's store crosses into a channel's in FIFO. -/
  | cloveFifoIn (n : Fin 16) (e : Fin 12) (c : Fin 4)
  /-- R199: A word pushed into a channel's out FIFO crosses to the bound input end as a one-word message. -/
  | cloveFifoOut (n : Fin 16) (e : Fin 12) (c : Fin 4)
  /-- R205: Setting CHN_CFG.EN runs the check and starts the channel at WRAPB at its first own step after the write lands. -/
  | cloveChannelEnable (src : Src) (n : Fin 16) (e : Fin 12) (c : Fin 4) (v : Word)
  /-- R207: Clearing CHN_CFG.EN stops the channel at its next own step and empties its in FIFO into DROPS. -/
  | cloveChannelDisable (src : Src) (n : Fin 16) (e : Fin 12) (c : Fin 4) (v : Word)
  /-- R208: A write to CE_IMD_DATA writes a live instruction word of a stopped engine and advances ADDR, or is refused while the engine runs. -/
  | ceImdData (src : Src) (n : Fin 16) (e : Fin 12) (v : Word)
  /-- R245: A lookup unit of a Span's Guard slice takes a post and decides it against the table that was live at its instant. -/
  | guardLookup (n : Fin 16)
  /-- R201: A Guard answer lands in the posting and flash-side channels, setting GV, GA and GM and opening a measured transaction on allow+measure. -/
  | guardAnswer (n : Fin 16)
  /-- R256: An ended measured transaction's digest is folded into its component accumulator in the order of the transactions' instants. -/
  | transactionFold (target : Fin 256) (b : Fin 2)
  /-- R234: Setting GT_CFG.EN runs the check on the target and enables it with its counters zeroed. -/
  | guardTargetEnable (src : Src) (target : Fin 256) (v : Word)
  /-- R235: Clearing GT_CFG.EN disables the target at once, ends its transactions and releases its lane, unless the Guard is sealed. -/
  | guardTargetDisable (src : Src) (target : Fin 256) (v : Word)
  /-- R237: A write to GD_DATA0..GD_DATA2 holds a word of a region entry in the write buffer. -/
  | gdDataWrite (k : Fin 3) (v : Word)
  /-- R237: A write to GD_DATA3 writes the whole 128-bit entry to staged entry INDEX and advances INDEX when AINC is 1. -/
  | gdData3Write (src : Src) (v : Word)
  /-- R266: A write of GD_PROBE_HI.GO starts one lookup against the live bank with no bus effect. -/
  | gdProbe (v : Word)
  /-- R265: Signing of a closed record ends, and the record is written to Moraine as a pinned run and queued for the ring and the host. -/
  | signComplete (key : Option Digest)
  /-- R264: The erase and two program writes of a record's ring slot end, and CLOSING clears or RING_FAIL is recorded. -/
  | ringWriteDone (ok : Bool)
  /-- R274: A due doorbell group is read and its interval is reset or doubled by whether a SEQ changed. -/
  | doorbellPoll (g : Fin 128) (line : Option (List DWord))
  /-- R275: A write to KICK makes the session's doorbell group the next doorbell read. -/
  | kick (s : Fin 1024)
  /-- R280: A session's turn reads in one command when it is wholly posted and its worst-case response space can be reserved. -/
  | serviceTurn (s : Fin 1024) (slots : List Byte)
  /-- R286: The NOP command completes with an empty response. -/
  | nopCommand (s : Fin 1024)
  /-- R285: Negotiates the VHI version and features, opens the session and attaches its conduits. -/
  | sessionOpen (s : Fin 1024)
  /-- R284: Moves the session to CLOSING, cancels idle receives and returns it to READY once every other command is answered. -/
  | sessionClose (s : Fin 1024)
  /-- R287: Completes every matching posted CDT_RECV that has taken no message with 0x0706. -/
  | cancel (s : Fin 1024)
  /-- R295: Cuts the payload into messages and sends them on the conduit until delivered or stopped. -/
  | cdtSend (s : Fin 1024)
  /-- R296: Posts a receive that takes items from the conduit until MAXB, LINGER, a CANCEL or an unbind ends it. -/
  | cdtRecv (s : Fin 1024)
  /-- R297: A released message or Clove word enters the oldest posted receive of its conduit. -/
  | conduitItem (d : Fin 4096)
  /-- R296: LINGER ticks after its first item, a receive completes with the items it has taken. -/
  | recvLinger (d : Fin 4096)
  /-- R292: Binds a conduit to a session and a unit after the check. -/
  | cdtBind (s : Fin 1024)
  /-- R294: Waits for sends in progress, cancels posted receives, raises the HOST event and unbinds the conduit. -/
  | cdtUnbind (s : Fin 1024)
  /-- R288: Requests a record close and completes at the close tick. -/
  | recClose (s : Fin 1024)
  /-- R288: Returns one fragment of the record in a ring slot. -/
  | recRead (s : Fin 1024)
  /-- R366: Returns held Moraine entries from a SEQ, optionally acknowledging first. -/
  | morRead (s : Fin 1024)
  /-- R290: Writes the payload granule by granule into the Span memory of each named Span. -/
  | memWrite (s : Fin 1024)
  /-- R289: Returns bytes of one Span's memory as the response payload. -/
  | memRead (s : Fin 1024)
  /-- R301: A host-memory access fails or exceeds 64 µs and faults the session or sessions it served. -/
  | hostAccessFail (unit : HostUnit) (timeout : Bool)
  /-- R305: Setting SES_CTL.EN runs the check and moves the session to READY. -/
  | sessionEnable (s : Fin 1024) (v : Word)
  /-- R283: Clearing SES_CTL.EN moves the session to QUIESCING. -/
  | sessionDisable (s : Fin 1024) (v : Word)
  /-- R284: Once no access of a quiescing session is outstanding, it becomes FREE with QUIESCED set. -/
  | sessionQuiesced (s : Fin 1024)
  /-- R304: A write of HI_CTL.EN enables polling after checking the table bases, or clears it when every session is FREE. -/
  | hiCtl (v : Word)
  /-- R466: A write to a register without behaviour of its own is taken field by field under each field's access code, staging RWF fields in Firn. -/
  | registerWrite (src : Src) (off : Nat) (v : Word) (width : Nat := 4)
  /-- R314: A write of FRZ_CTL.CHECK runs the consistency check on the state the commit would make live. -/
  | freezeCheck (src : Src) (v : Word)
  /-- R319: A write of FRZ_CTL.COMMIT starts the commit sequence: check, persist, choice of F and arming. -/
  | freezeCommit (src : Src) (v : Word)
  /-- R325: The charge records of a permafrost change have been written, and the commit chooses F or aborts. -/
  | persistDone (ok : Bool)
  /-- R312: A write of FRZ_CTL.DISCARD starts setting every staged copy to its live value. -/
  | freezeDiscard (src : Src) (v : Word)
  /-- R313: A write of FRZ_LOCK.CLAIM takes the Firn lock when it is free. -/
  | firnClaim (src : Src)
  /-- R313: A write of FRZ_LOCK.RELEASE frees the lock when the writer holds it. -/
  | firnRelease (src : Src)
  /-- R343: Setting TM_CFG.EN checks the capture source and enables the timer channel. -/
  | timerEnable (src : Src) (n : Fin 16) (k : Fin 8) (v : Word)
  /-- R343: Clearing TM_CFG.EN stops counting, drops the pin's output enable and releases the capture source. -/
  | timerDisable (src : Src) (n : Fin 16) (k : Fin 8) (v : Word)
  /-- R333: A running timer channel increments COUNT at its prescaled tick and applies wrap and compare. -/
  | timerIncrement (n : Fin 16) (k : Fin 8)
  /-- R336: A write to TM_CMP lands at a TMDn edge and sets the compare value. -/
  | tmCmp (n : Fin 16) (k : Fin 8) (v : Word)
  /-- R336: A write to TM_CMP_NOW sets CMP and matches at once if COUNT already equals it. -/
  | tmCmpNow (n : Fin 16) (k : Fin 8) (v : Word)
  /-- R336: A write to TM_COUNT lands at a TMDn edge and replaces COUNT and any increment due there. -/
  | tmCountWrite (n : Fin 16) (k : Fin 8) (v : Word)
  /-- R340: A read of a linked low TM_COUNT copies the high count into the pair's HI_SNAP. -/
  | tmCountRead (n : Fin 16) (k : Fin 8)
  /-- R341: A capture block samples its source pin, filters it and counts accepted edges toward a capture event. -/
  | captureSample (n : Fin 16) (k : Fin 8) (level : Bool)
  /-- R329: A read of TB_LO returns TB[31:0] and latches TB[63:32] into the requester's TB_HI_SNAP. -/
  | tbLoRead (src : Src)
  /-- R329: A read of LF_LO returns LF[31:0] and latches LF[47:32] into the requester's LF_HI_SNAP. -/
  | lfLoRead (src : Src)
  /-- R217: A write of GPIO_OUT sets the GPIO value bits of the bank after the crossing. -/
  | gpioOut (n : Fin 16) (v : Word)
  /-- R217: A write of GPIO_OUT_SET sets the GPIO value bits written as 1. -/
  | gpioOutSet (n : Fin 16) (v : Word)
  /-- R217: A write of GPIO_OUT_CLR clears the GPIO value bits written as 1. -/
  | gpioOutClr (n : Fin 16) (v : Word)
  /-- R217: A write of GPIO_OUT_TGL inverts the GPIO value bits written as 1. -/
  | gpioOutTgl (n : Fin 16) (v : Word)
  /-- R217: A write of GPIO_OE sets the GPIO enable bits of the bank after the crossing. -/
  | gpioOe (n : Fin 16) (v : Word)
  /-- R217: A write of GPIO_OE_SET sets the GPIO enable bits written as 1. -/
  | gpioOeSet (n : Fin 16) (v : Word)
  /-- R217: A write of GPIO_OE_CLR clears the GPIO enable bits written as 1. -/
  | gpioOeClr (n : Fin 16) (v : Word)
  /-- R217: A write of GPIO_OE_TGL inverts the GPIO enable bits written as 1. -/
  | gpioOeTgl (n : Fin 16) (v : Word)
  /-- R224: A write of PIN_DIRECT with APPLY = 1 checks and sets a pin's live function without a Freeze. -/
  | pinDirect (src : Src) (n : Fin 16) (pin : Fin 24) (v : Word)
  /-- R224: A taken direct function write lands at the bank 3 or 4 cycles after it enters the crossing and switches the pin. -/
  | directSwitch (n : Fin 16)
  /-- R223: 64 bank cycles after a switch or stop, a keeper lets go and the configured pull applies. -/
  | keeperRelease (n : Fin 16) (pin : Fin 24)
  /-- R226: A write of RIME_KEY advances or fails the Rime lock sequence. -/
  | rimeKey (n : Fin 16) (v : Word)
  /-- R226: A matching third write locks the masked pins, copying their live setup into the staged copies. -/
  | rimeSet (n : Fin 16) (v : Word)
  /-- R226: 4,096 ticks after a key write with no next write, the Rime sequence fails. -/
  | rimeTimeout (n : Fin 16)
  /-- R357: At each tick that is a multiple of 2^RLOG2, a code's bucket gains one token. -/
  | tokenRefill (code : Fin 4096)
  /-- R365: A write to MOR_ACK raises ACK_SEQ, freeing space and unpinning record runs. -/
  | morAck (v : Word)
  /-- R373: Setting LP_CTL.EN checks the offered link versions and starts bring-up of the port. -/
  | linkPortEnable (p : Fin 4) (v : Word)
  /-- R372: A change of phy_up_i moves the port between WAIT_PHY and HELLO or resets it. -/
  | phyUp (p : Fin 4) (up : Bool)
  /-- R371: A port enters LINK[n] reset, pulls SB_ALIVE low, discards its queues and credits and marks its routes down. -/
  | linkReset (p : Fin 4) (cause : LinkCause)
  /-- R371: No frame is received on a port for 32,768 ticks, and the port resets. -/
  | linkSilence (p : Fin 4)
  /-- R371: The far side holds SB_ALIVE low for 32 ticks, and the port resets. -/
  | sbAliveLow (p : Fin 4)
  /-- R371: A port that has sent nothing for 4,096 ticks sends a CREDIT frame. -/
  | linkKeepalive (p : Fin 4)
  /-- R372: A port in HELLO sends a HELLO frame every 1,024 ticks. -/
  | helloSend (p : Fin 4)
  /-- R374: A received HELLO settles the port's version and its rooted and tag relation to the far side. -/
  | hello (p : Fin 4) (f : Frame)
  /-- R381: A received CREDIT frame returns words of credit per traffic class. -/
  | credit (p : Fin 4) (f : Frame)
  /-- R381: A receiver returns credits once 8 words of a class are free or 64 ticks after a word was freed. -/
  | creditReturn (p : Fin 4)
  /-- R386: A received SYNC frame reports the pulse ticks from which the child computes its offset and delay. -/
  | sync (p : Fin 4) (f : Frame)
  /-- R386: At its own multiples of 65,536 ticks a link end pulls SB_SYNC low for 16 ticks. -/
  | syncPulse (p : Fin 4)
  /-- R386: A falling edge of the far side's SB_SYNC pulse is captured in the node's TB. -/
  | syncCapture (p : Fin 4)
  /-- R383: A received MSG frame is routed on, or accepted whole into a landing store, or refused. -/
  | msg (p : Fin 4) (f : Frame)
  /-- R383: A received ACK or NAK returns a message's credits, and a NAK acts as a refusal at the sender. -/
  | ack (p : Fin 4) (f : Frame)
  /-- R383: A message with no reply 1,048,576 ticks after it was sent counts as lost and its credits return. -/
  | msgLost (sender : MsgSender)
  /-- R412: A write of RDP_CTL with the key and a higher level appends an OA2 record and asserts MAIN reset. -/
  | rdpRaise (v : Word)
  /-- R413: A write of RDP_CTL with the key and a lower level erases the flash, wipes Span memory and asserts MAIN reset. -/
  | rdpLower (v : Word)
  /-- R410: A write of OPT_CTL with the key and WRITE checks and replaces the option block in OA0. -/
  | optionWrite (v : Word)
  /-- R416: The ALM domain samples each alarm input and runs its windowed filter. -/
  | alarmSample (levels : BitVec 8)
  /-- R416: Clearing ALM_STS.LATCHED closes the filter window and resets its count. -/
  | alarmClear (k : Fin 8)
  /-- R424: A write of ALM_TEST.GO raises alm_test_o for an alarm and counts its answers. -/
  | alarmTest (v : Word)
  /-- R429: With main_pok_i low, each backup-watched alarm is sampled at every LF edge and latches on two samples at 1. -/
  | backupAlarmSample (levels : BitVec 8)
  /-- R428: A write to BK_ACK raises the backup-ring acknowledgement and zeroes BK_LOST. -/
  | bkAck (v : Word)
  /-- R436: A transaction with the surroundings is still incomplete after 64 µs and fails with its unit's result. -/
  | ifaceTimeout (unit : IfaceUnit)
  /-- R439: An Update-DR of DBGACC makes one setup-window access, subject to readout protection. -/
  | dbgacc (dr : BitVec 52)
  /-- R441: The HALT debug command puts a thread in HALTED with cause debugger. -/
  | halt (n : Fin 16) (t : Fin 16)
  /-- R441: The RESUME debug command returns a debugger-halted thread to its state before the halt. -/
  | resume (n : Fin 16) (t : Fin 16)
  /-- R442: The STEP debug command issues a halted thread's next instruction and halts it again. -/
  | step (n : Fin 16) (t : Fin 16)
  /-- R180: The ABORT_MSG debug command discards the staged words of a halted thread's output end and sets ABORTED. -/
  | abortMsg (n : Fin 16) (e : Fin 128)
  /-- R441: The CE_HALT debug command halts a Clove channel at its next own step. -/
  | ceHalt (n : Fin 16) (e : Fin 12) (c : Fin 4)
  /-- R441: The CE_RESUME debug command lets a halted Clove channel run from its PC. -/
  | ceResume (n : Fin 16) (e : Fin 12) (c : Fin 4)
  /-- R441: The CE_STEP debug command runs one instruction of a halted Clove channel and halts it again. -/
  | ceStep (n : Fin 16) (e : Fin 12) (c : Fin 4)
  /-- R446: An access to DBG_TREG_DATA reads or writes the selected register of a debugger-halted thread. -/
  | dbgTregData (src : Src) (write : Option Word)
  /-- R446: A read of DBG_MEM_LO reads a whole granule of Span memory, and a write holds its low word. -/
  | dbgMemLo (src : Src) (write : Option Word)
  /-- R446: A write of DBG_MEM_HI writes the whole granule, and a read returns the held high word, advancing the address when AINC is 1. -/
  | dbgMemHi (src : Src) (write : Option Word)
  /-- R446: A write of DBG_RESET with the key and MAIN = 1 asserts MAIN reset with cause 0x5. -/
  | dbgReset (v : Word)
  /-- R371: 64 ticks after the cause of a LINK[n] reset ends, the port releases SB_ALIVE and bring-up starts again. -/
  | linkResetRelease (p : Fin 4)
  /-- R410: The erase, program and verify of OA0 end, and OPT_STS and an OPT_WRITE entry are written. -/
  | optionWriteDone (ok : Bool)
  /-- R184: An engine step falls to a channel that is disabled, halted or in dly, so nothing executes while the step count, schedule position and dly count advance. -/
  | cloveIdleStep (n : Fin 16) (e : Fin 12) (pins : BitVec 24)
  /-- R73: A round completes in which a slot is idle because its thread cannot issue, advancing ROUND_CNT and the row count and serving the thread's fetch. -/
  | idleRound (n : Fin 16)
  /-- R29: The rst_main_n_i input is asserted and holds every device unit except the backup domain in MAIN reset. -/
  | rstMainN
  /-- R458: vbat rising through 1.5 V asserts BACKUP reset, which is released at the second lf_clk_i edge and asserts MAIN reset. -/
  | backupReset
  /-- R458: A fall of main_pok_i asserts MAIN reset and puts the block in BACKUP mode with only the backup domain running. -/
  | mainPokFall
  /-- R34: A write of PWR_CTRL.SLEEP_REQ requests SLEEP, which is granted when every enabled Span is quiet and refused with SLEEP_DENY otherwise. -/
  | sleepReq
  /-- R331: At the first LF edge after SLEEP or a whole-device halt is requested, TB enters LF mode, and for SLEEP sleep_ack_o rises. -/
  | lfModeEntry (clks : BitVec 12 := 0xFFF)
  /-- R331: At each LF edge in LF mode, ACC steps and TB advances by 30,517 or 30,518 ticks, applying every compare and timer increment that falls inside the step. -/
  | lfModeStep (clks : BitVec 12 := 0xFFF)
  /-- R331: At the first LF edge at which the TB clock is present and the cause has ended, TB leaves LF mode and issue resumes once the stopped clocks show present. -/
  | lfModeExit (clks : BitVec 12 := 0xFFF)
  /-- R34: The wake_i input from the host bridge ends SLEEP. -/
  | wake
  /-- R387: A scheduled time-alignment correction repeats or skips one TB value on every copy of TB at one edge. -/
  | timeCorrection
  /-- R171: Every 1,024 ticks Serac scans all threads for blocked channel cycles and confirms those found unchanged in two consecutive scans. -/
  | seracScan
  /-- R237: A read of GD_DATA3 with AINC = 1 advances INDEX. -/
  | gdData3Read
  /-- R238: The copy of the new live region bank into the staged bank ends and SYNC_BUSY clears. -/
  | regionSyncDone
  /-- R240: A write of GD_CTL.SEAL seals the Guard until MAIN reset. -/
  | guardSeal
  /-- R266: A probe ends and its result is written to GD_PROBE_RES with DONE set. -/
  | probeDone
  /-- R260: A write of GM_CTL.CLOSE requests a record close, refused with 0x0B03 while a close is under way. -/
  | gmClose
  /-- R260: At close tick C the accumulators become the record's content, the next record opens, and Moraine writes DROPS and CLOSE entries. -/
  | recordClose
  /-- R300: A queued notice is written to the admin session's response ring once the free space holds it. -/
  | noticeWrite
  /-- R319: The check of a CHECK or COMMIT ends, setting LAST or moving the commit on to PERSIST or ARMED. -/
  | checkDone
  /-- R316: At commit tick F every staged field becomes live in its domain, or draining begins when DRAIN is set. -/
  | freezeApply
  /-- R211: Every waited channel reaches a boundary, and the commit applies at F′. -/
  | freezeDrainDone
  /-- R318: F + FREEZE_DRAIN_LIMIT passes without F′, and the commit is aborted with 0x0507. -/
  | drainLimit
  /-- R320: After an apply, the staged copies equal the live ones, dirty bits clear and the state returns to IDLE. -/
  | freezeSyncDone
  /-- R312: The DISCARD ends and the state returns to IDLE. -/
  | discardDone
  /-- R361: The recorder takes the entry at the head of its queue, assigns SEQ, writes it and chains a full block. -/
  | moraineEntry
  /-- R377: A write of CASC_CTL.SWEEP on the master starts numbering the tree in preorder. -/
  | sweep
  /-- R389: A vote or DRAINED is still missing at its limit, and the master aborts with 0x0911. -/
  | cfrzVoteLimit
  /-- R389: A node that voted yes reaches its limit with no decision, aborts locally and records CFRZ_ORPHAN. -/
  | cfrzOrphan
  /-- R421: The last page wipe ends and AVALANCHE_DONE is written, with MAIN reset following for WIPE_ALL_RESET. -/
  | wipeDone
  /-- R421: key_erase_o falls after 4 LF periods. -/
  | keyEraseEnd
  /-- R427: An alarm or RDP change is written to the backup ring within 3 LF periods. -/
  | backupRingWrite
  /-- R424: 1,280 ticks after it started, an alarm test ends with its PASS result and a cleared filter. -/
  | alarmTestEnd
  /-- R438: The IDCODE TAP instruction returns the 32-bit identification code. -/
  | idcode
  /-- R438: The BYPASS TAP instruction selects the 1-bit bypass register. -/
  | bypass
  /-- R446: Asserting trst_n_i resets the TAP only and leaves halts in place. -/
  | tapReset
  /-- R443: The DEV_HALT debug command stops issue and Clove steps in every Span and puts TB in LF mode. -/
  | devHalt
  /-- R443: The DEV_RESUME debug command resumes issue and engines once TB has left LF mode. -/
  | devResume
  /-- R445: A rising edge on DBG_XTRIG_IN acts as DEV_HALT while XT_IN is 1. -/
  | dbgXtrigIn
  /-- R330: At each lf_clk_i edge outside LF mode, the LF count advances and ACC steps by 37 modulo 64. -/
  | lfEdge (clks : BitVec 12 := 0xFFF)
  /-- R429: A rise of main_pok_i ends backup-mode alarm watch, after which rst_main_n_i may be released. -/
  | mainPokRise
  /-- R413: The OA2 record, erases, wipes and mark of a readout-protection change end, and MAIN reset is asserted with CAUSE 0x6. -/
  | rdpChangeDone
  /-- R377: A received ASSIGN numbers the node, discards its routes and assigns its own subtree. -/
  | assign (p : Fin 4) (f : Frame)
  /-- R377: A received DONE sets a port's range during a sweep, or with BCAST carries the node count down the tree. -/
  | done (p : Fin 4) (f : Frame)
  /-- R377: A received REFUSE puts the port in DEPTH_FAIL, CONFLICT or VERSION_FAIL by its code. -/
  | refuse (p : Fin 4) (f : Frame)
  /-- R388: A received PREPARE makes the node vote, hold VOTED and pass PREPARE down. -/
  | cfrzPrepare (p : Fin 4) (f : Frame)
  /-- R388: A received VOTE is gathered, and the merged vote goes up once every vote below is known. -/
  | cfrzVote (p : Fin 4) (f : Frame)
  /-- R390: A received DRAIN makes the node hold each waited channel at a boundary from F0. -/
  | cfrzDrain (p : Fin 4) (f : Frame)
  /-- R390: A received DRAINED or drain failure is gathered upward, and the master commits or aborts. -/
  | cfrzDrained (p : Fin 4) (f : Frame)
  /-- R389: A received COMMIT(F) arms the node to apply at F on its own TB. -/
  | cfrzCommit (p : Fin 4) (f : Frame)
  /-- R389: A received ABORT aborts the node's part of the cascade Freeze. -/
  | cfrzAbort (p : Fin 4) (f : Frame)
  /-- R392: A received RCLOSE makes the node close its record at the named tick. -/
  | rclose (p : Fin 4) (f : Frame)
  /-- R393: A received RFWD frame requests a record forward or carries 64 bytes of a forwarded record. -/
  | rfwd (p : Fin 4) (f : Frame)
  /-- R393: A received RACK grants a record forward or confirms its delivery. -/
  | rack (p : Fin 4) (f : Frame)
  deriving DecidableEq, Repr

end Sys2Proof
end

