-- ==== Sys2Proof/Config.lean ====
section
/-! DEFINITION. What an implementation fixes and the spec leaves open: constants without a body, of which nothing can be
proved. -/
namespace Sys2Proof.Config

/-- R154: the byte at an offset of the 32 KiB boot ROM. Its contents are not part of the architecture. -/
opaque bootRom : Nat → Byte

/-- A value the spec leaves open, one for each count of `State.freeCtr`. -/
opaque freeValue : Nat → Word

/-- R218: the levels that the input buffers of a bank deliver at an edge where no command carries them. -/
opaque padLevels : Nat → Nat → BitVec 24

/-- R215: the values and enables that the surroundings give the pins of a bank, pt_do_i and pt_oe_i. -/
opaque passThrough : Nat → Nat → BitVec 24 × BitVec 24

end Sys2Proof.Config
end

