-- ==== Sys2Proof/Machine/Tab.lean ====
section
/-! DEFINITION. Numbered storage: reading and writing one entry of a sparse table in its canonical form, and the bit
fields of a word. -/
namespace Sys2Proof.Machine

/-- The content of number `k`, `d` where none is listed. -/
def tabGet {α : Type} (d : α) : Tab α → Nat → α
  | [], _ => d
  | (j, v) :: r, k => if j = k then v else tabGet d r k

/-- Puts an entry at its place among rising numbers. -/
def tabIns {α : Type} (k : Nat) (v : α) : Tab α → Tab α
  | [] => [(k, v)]
  | (j, w) :: r => if k < j then (k, v) :: (j, w) :: r else (j, w) :: tabIns k v r

/-- The table without number `k`. -/
def tabDel {α : Type} (k : Nat) : Tab α → Tab α
  | [] => []
  | (j, w) :: r => if j = k then tabDel k r else (j, w) :: tabDel k r

/-- Number `k` takes the content `v`; the content `d` is never listed. -/
def tabSet {α : Type} [DecidableEq α] (d : α) (t : Tab α) (k : Nat) (v : α) : Tab α :=
  if v = d then tabDel k t else tabIns k v (tabDel k t)

/-- The table without the numbers that satisfy `p`. -/
def tabDrop {α : Type} (p : Nat → Bool) : Tab α → Tab α
  | [] => []
  | (j, w) :: r => if p j then tabDrop p r else (j, w) :: tabDrop p r

/-- The entries of a table with `f` applied to those that `p` names; entries that become `d` go. -/
def tabMap {α : Type} [DecidableEq α] (d : α) (p : Nat → Bool) (f : α → α) : Tab α → Tab α
  | [] => []
  | (k, v) :: r =>
    if p k then (if f v = d then tabMap d p f r else (k, f v) :: tabMap d p f r) else (k, v) :: tabMap d p f r

/-- The canonical form: numbers strictly rising, all above `lo`, and no entry equal to `d`. -/
def tabWfFrom {α : Type} [DecidableEq α] (d : α) : Nat → Tab α → Bool
  | _, [] => true
  | lo, (j, v) :: r => decide (lo ≤ j) && decide (v ≠ d) && tabWfFrom d (j + 1) r

/-- The canonical form of a table whose unlisted content is `d`. -/
def tabWf {α : Type} [DecidableEq α] (d : α) (t : Tab α) : Bool := tabWfFrom d 0 t

/-- Bits `lo .. lo + len - 1` of a word, as a number. -/
def bits {w : Nat} (v : BitVec w) (lo len : Nat) : Nat := (v.toNat >>> lo) % 2 ^ len

/-- The word with bits `lo .. lo + len - 1` replaced by the low bits of `x`. -/
def setBits {w : Nat} (v : BitVec w) (lo len x : Nat) : BitVec w :=
  let m := BitVec.ofNat w ((2 ^ len - 1) <<< lo)
  (v &&& ~~~m) ||| (BitVec.ofNat w (x <<< lo) &&& m)

/-- 1 or 0. -/
def b2n (b : Bool) : Nat := if b then 1 else 0

/-- Little-endian assembly of bytes (R7). -/
def leNat : List Byte → Nat
  | [] => 0
  | b :: r => b.toNat + 256 * leNat r

/-- The `k` low bytes of a number, lowest first (R7). -/
def leBytes : Nat → Nat → List Byte
  | 0, _ => []
  | k + 1, x => BitVec.ofNat 8 x :: leBytes k (x / 256)

/-- A count that stops at `top`. -/
def satInc (top x : Nat) : Nat := if x < top then x + 1 else top

/-- A count that adds `k` and stops at `top`. -/
def satAdd (top x k : Nat) : Nat := min top (x + k)

/-- The element at an index of a list, `d` past its end. -/
def nth {α : Type} (d : α) : List α → Nat → α
  | [], _ => d
  | a :: _, 0 => a
  | _ :: r, k + 1 => nth d r k

/-- The first number below `k` at or above `i` that satisfies `p`. -/
def findFrom (p : Nat → Bool) : Nat → Nat → Option Nat
  | 0, _ => none
  | f + 1, i => if p i then some i else findFrom p f (i + 1)

/-- The first number below `k` that satisfies `p`. -/
def findBelow (k : Nat) (p : Nat → Bool) : Option Nat := findFrom p k 0

/-- `f` applied for `i = 0 .. k - 1` in rising order. -/
def iter {σ : Type} (f : Nat → σ → σ) : Nat → σ → σ
  | 0, s => s
  | k + 1, s => f k (iter f k s)

/-- How many numbers below `k` satisfy `p`. -/
def countBelow (p : Nat → Bool) : Nat → Nat
  | 0 => 0
  | k + 1 => countBelow p k + b2n (p k)

end Sys2Proof.Machine
end

