-- ==== Sys2Proof/Machine/Regs.lean ====
section
/-! DEFINITION. The register map of the setup window (R36 to R38 and the register tables of every chapter): each register's
offsets and the bits, access code and reset value of its fields. -/
namespace Sys2Proof.Machine

/-- R9: the access code of a field. `rwfl` is RWF with RWL, `rwfp` is RWF with RWP (R10). -/
inductive Acc where
  | ro | rw | w1c | w1s | wo | rwf | rwfl | rwfp
  deriving DecidableEq, Repr

/-- One field of a register: its bits, its access code and its reset value. -/
structure Fld where
  hi : Nat
  lo : Nat
  acc : Acc
  rst : Nat
  deriving DecidableEq, Repr

/-- The registers of the window, by the names of the spec's tables. -/
inductive Reg where
  | slot | thrCwin | thrDwin | thrCtl | cheCfg | chePeer | tpCfg | ceCtl | ceDiv | ceSched | ceSts
  | ceImdAddr | ceImdData | chnCfg | chnWrap | chnOea | chnOeb | chnGuard | chnCrc | chnSts | chnSh | chnCnt
  | chnRwrap | chnFifo | chnCrcv | ceImem | tmCfg | tmPre | tmTop | tmCmp | tmCmpNow | tmCount | tmCap
  | tmSts | pinMux | pinPad | pinDirect | pinSts | coreSts | roundCnt | arbCnt | gpioOut | gpioOutSet
  | gpioOutClr | gpioOutTgl | gpioOe | gpioOeSet | gpioOeClr | gpioOeTgl | gpioIn | padBank | rimeKey
  | rimeSts | rimeSet | rimeLock | secretMapLo | secretMapHi | tpSts | twGrp | twEvt | seracCtl | seracSts
  | thrSts | thrPc | fetchCtrl | fetchSts | fetchPark | cheSts | cheCnt | ownPin | ownWslot | vxId | vxVer
  | vxCap | spanEn | reason | reasonDetail | rstCtrl | spanRst | rstSts | clkSts0 | clkSts1 | pwrCtrl
  | pwrSts | bootSts | bootEntry | frzCtl | frzSts | frzTickLo | frzTickHi | frzDrainLimit | frzLastLo
  | frzLastHi | frzDirty | frzLock | frzCnt | firnPeekAddr | firnPeekData | pfCnt | pfSet | decodeLo
  | decodeHi | tbLo | tbHi | tbHiSnap | lfLo | lfHi | lfHiSnap | tbmSts | hiCtl | hiSts | dbBaseLo | dbBaseHi
  | stBaseLo | stBaseHi | pollCfg | kick | vhiVer | vhiFeatLo | vhiFeatHi | cdtIdx | cdtData0 | cdtData1
  | sesCtl | sesSts | sesCmdLo | sesCmdHi | sesRspLo | sesRspHi | sesFault | sesInfl | gdCtl | gdSts | gdIdx
  | gdData | gdProbeLo | gdProbeHi | gdProbeRes | gtCfg | gtPol | gtBind | gtCnt0 | gtCnt1 | gmLane | gmComp0
  | gmComp1 | gmCtl | gmSts | gmSeq | morCfg | morSts | morNext | morOldest | morAck | morDrop | morRidx
  | morRsts | morRdata | morSnap | morTrg | cascCfg | cascSts | cascNodes | cascTag | cascCtl | cascTime
  | cascTcnt | cfLead | cfVlim | cfSts | lpCtl | lpVer | lpSts | lpRange | lpCnt | lpDrop | fpSts | fpEcc
  | rdpCtl | rdpSts | optCtl | optSrc | optSts | optView0 | optView1 | almCfg | almWin | almResp | almSts
  | almCtl | almTest | bkSts | bkAck | bkAlmen | bkLatch | bkEntry | dbgCtl | dbgSts | dbgCmd | dbgCmdSts
  | dbgTregSel | dbgTregData | dbgMemAddr | dbgMemLo | dbgMemHi | dbgReset | eccCnt | eccLast0 | eccLast1
  deriving DecidableEq, Repr

/-- One row of the map: a register, its lowest offset, the strides and counts of its indices (largest stride first) and its
fields. -/
structure RegDef where
  reg : Reg
  base : Nat
  dims : List (Nat × Nat)
  fields : List Fld
  deriving DecidableEq, Repr

/-- The register map, part 1. -/
def regMap1 : List RegDef := [
  ⟨.slot, 0x100800, [(0x4, 64)],
    [⟨31, 31, .rwf, 0⟩, ⟨27, 24, .rwf, 0⟩, ⟨23, 23, .rwf, 0⟩, ⟨19, 16, .rwf, 0⟩, ⟨15, 15, .rwf, 0⟩,
     ⟨11, 8, .rwf, 0⟩, ⟨7, 7, .rwf, 1⟩, ⟨3, 0, .rwf, 0⟩]⟩,
  ⟨.slot, 0x110800, [(0x10000, 15), (0x4, 64)],
    [⟨31, 31, .rwf, 0⟩, ⟨27, 24, .rwf, 0⟩, ⟨23, 23, .rwf, 0⟩, ⟨19, 16, .rwf, 0⟩, ⟨15, 15, .rwf, 0⟩,
     ⟨11, 8, .rwf, 0⟩, ⟨7, 7, .rwf, 0⟩, ⟨3, 0, .rwf, 0⟩]⟩,
  ⟨.thrCwin, 0x100040, [(0x10000, 16), (0x4, 16)], [⟨31, 31, .rwf, 0⟩, ⟨25, 16, .rwf, 0⟩, ⟨9, 0, .rwf, 0⟩]⟩,
  ⟨.thrDwin, 0x100080, [(0x10000, 16), (0x4, 16)], [⟨31, 31, .rwf, 0⟩, ⟨2, 0, .rwf, 0⟩]⟩,
  ⟨.thrCtl, 0x100400, [(0x10000, 16), (0x40, 16)],
    [⟨31, 31, .w1s, 0⟩, ⟨30, 30, .w1s, 0⟩, ⟨29, 28, .rw, 1⟩, ⟨27, 27, .rwf, 0⟩]⟩,
  ⟨.cheCfg, 0x101000, [(0x10000, 16), (0x20, 128)],
    [⟨31, 31, .rw, 0⟩, ⟨30, 30, .rw, 0⟩, ⟨29, 27, .rw, 0⟩, ⟨26, 26, .rw, 0⟩, ⟨23, 20, .rw, 0⟩]⟩,
  ⟨.chePeer, 0x101004, [(0x10000, 16), (0x20, 128)],
    [⟨31, 31, .rw, 0⟩, ⟨30, 19, .rw, 0⟩, ⟨18, 15, .rw, 0⟩, ⟨11, 0, .rw, 0⟩]⟩,
  ⟨.tpCfg, 0x100200, [(0x10000, 16), (0x8, 32)],
    [⟨31, 31, .rw, 0⟩, ⟨30, 29, .rw, 0⟩, ⟨23, 20, .rw, 0⟩, ⟨18, 16, .rw, 0⟩, ⟨10, 8, .rw, 0⟩, ⟨4, 0, .rw, 0⟩]⟩,
  ⟨.ceCtl, 0x103000, [(0x10000, 16), (0x100, 12)], [⟨31, 31, .rwf, 0⟩, ⟨19, 16, .rwf, 0⟩]⟩,
  ⟨.ceDiv, 0x103004, [(0x10000, 16), (0x100, 12)], [⟨23, 0, .rwf, 0x100⟩]⟩,
  ⟨.ceSched, 0x103008, [(0x10000, 16), (0x100, 12)], [⟨31, 0, .rwf, 0⟩]⟩,
  ⟨.ceSts, 0x10300c, [(0x10000, 16), (0x100, 12)],
    [⟨31, 31, .ro, 0⟩, ⟨30, 30, .ro, 0⟩, ⟨23, 20, .ro, 0⟩, ⟨15, 0, .ro, 0⟩]⟩,
  ⟨.ceImdAddr, 0x103010, [(0x10000, 16), (0x100, 12)], [⟨7, 0, .rw, 0⟩]⟩,
  ⟨.ceImdData, 0x103014, [(0x10000, 16), (0x100, 12)], [⟨31, 0, .wo, 0⟩]⟩,
  ⟨.chnCfg, 0x103040, [(0x10000, 16), (0x100, 12), (0x30, 4)],
    [⟨31, 31, .rw, 0⟩, ⟨30, 30, .rwf, 0⟩, ⟨29, 28, .rwf, 1⟩, ⟨27, 27, .rwf, 0⟩, ⟨23, 20, .rwf, 0⟩,
     ⟨19, 16, .rwf, 0⟩, ⟨12, 8, .rwf, 0⟩, ⟨2, 0, .rwf, 0⟩]⟩,
  ⟨.chnWrap, 0x103044, [(0x10000, 16), (0x100, 12), (0x30, 4)], [⟨15, 8, .rwf, 0⟩, ⟨7, 0, .rwf, 0xff⟩]⟩,
  ⟨.chnOea, 0x103048, [(0x10000, 16), (0x100, 12), (0x30, 4)], [⟨23, 0, .rwf, 0⟩]⟩,
  ⟨.chnOeb, 0x10304c, [(0x10000, 16), (0x100, 12), (0x30, 4)], [⟨23, 0, .rwf, 0⟩]⟩,
  ⟨.chnGuard, 0x103050, [(0x10000, 16), (0x100, 12), (0x30, 4)], [⟨31, 31, .rwf, 0⟩, ⟨7, 0, .rwf, 0⟩]⟩,
  ⟨.chnCrc, 0x103054, [(0x10000, 16), (0x100, 12), (0x30, 4)], [⟨31, 0, .rwf, 0⟩]⟩,
  ⟨.chnSts, 0x103058, [(0x10000, 16), (0x100, 12), (0x30, 4)],
    [⟨31, 24, .ro, 0⟩, ⟨21, 16, .ro, 0⟩, ⟨15, 11, .ro, 0⟩, ⟨10, 10, .w1c, 0⟩, ⟨9, 4, .ro, 1⟩, ⟨3, 3, .w1c, 0⟩,
     ⟨2, 2, .w1c, 0⟩, ⟨1, 0, .ro, 0⟩]⟩,
  ⟨.chnSh, 0x10305c, [(0x10000, 16), (0x100, 12), (0x30, 4)], [⟨31, 0, .ro, 0⟩]⟩,
  ⟨.chnCnt, 0x103060, [(0x10000, 16), (0x100, 12), (0x30, 4)], [⟨31, 16, .ro, 0⟩, ⟨15, 0, .ro, 0⟩]⟩,
  ⟨.chnRwrap, 0x103064, [(0x10000, 16), (0x100, 12), (0x30, 4)], [⟨15, 8, .ro, 0⟩, ⟨7, 0, .ro, 0xff⟩]⟩,
  ⟨.chnFifo, 0x103068, [(0x10000, 16), (0x100, 12), (0x30, 4)], [⟨27, 24, .ro, 0⟩, ⟨19, 16, .ro, 0⟩, ⟨15, 0, .ro, 0⟩]⟩]

/-- The register map, part 2. -/
def regMap2 : List RegDef := [
  ⟨.chnCrcv, 0x10306c, [(0x10000, 16), (0x100, 12), (0x30, 4)], [⟨31, 0, .ro, 0⟩]⟩,
  ⟨.ceImem, 0x104000, [(0x10000, 16), (0x400, 12), (0x4, 256)], [⟨31, 0, .rwf, 0⟩]⟩,
  ⟨.tmCfg, 0x107000, [(0x10000, 16), (0x20, 8)],
    [⟨31, 31, .rw, 0⟩, ⟨30, 30, .rwf, 0⟩, ⟨29, 29, .rw, 0⟩, ⟨28, 28, .rwf, 0⟩, ⟨27, 26, .rwf, 0⟩,
     ⟨25, 24, .rwf, 0⟩, ⟨23, 23, .rwf, 0⟩, ⟨22, 20, .rwf, 0⟩, ⟨19, 16, .rwf, 0⟩, ⟨15, 13, .rw, 0⟩,
     ⟨12, 11, .rw, 3⟩, ⟨10, 9, .rw, 0⟩, ⟨8, 5, .rwf, 0⟩, ⟨4, 3, .rwf, 0⟩, ⟨2, 1, .rwf, 0⟩, ⟨0, 0, .rwf, 0⟩]⟩,
  ⟨.tmPre, 0x107004, [(0x10000, 16), (0x20, 8)], [⟨31, 16, .rwf, 0⟩, ⟨15, 0, .rwf, 0⟩]⟩,
  ⟨.tmTop, 0x107008, [(0x10000, 16), (0x20, 8)], [⟨31, 0, .rwf, 0⟩]⟩,
  ⟨.tmCmp, 0x10700c, [(0x10000, 16), (0x20, 8)], [⟨31, 0, .rw, 0⟩]⟩,
  ⟨.tmCmpNow, 0x107010, [(0x10000, 16), (0x20, 8)], [⟨31, 0, .wo, 0⟩]⟩,
  ⟨.tmCount, 0x107014, [(0x10000, 16), (0x20, 8)], [⟨31, 0, .rw, 0⟩]⟩,
  ⟨.tmCap, 0x107018, [(0x10000, 16), (0x20, 8)], [⟨31, 0, .ro, 0⟩]⟩,
  ⟨.tmSts, 0x10701c, [(0x10000, 16), (0x20, 8)],
    [⟨31, 31, .w1c, 0⟩, ⟨30, 30, .w1c, 0⟩, ⟨29, 29, .w1c, 0⟩, ⟨28, 28, .w1c, 0⟩, ⟨27, 27, .ro, 0⟩,
     ⟨26, 26, .ro, 0⟩, ⟨25, 25, .ro, 0⟩, ⟨24, 24, .ro, 0⟩, ⟨15, 0, .ro, 0⟩]⟩,
  ⟨.pinMux, 0x107400, [(0x10000, 16), (0x10, 24)], [⟨3, 0, .rwfl, 0⟩]⟩,
  ⟨.pinPad, 0x107404, [(0x10000, 16), (0x10, 24)],
    [⟨9, 9, .rwfl, 0⟩, ⟨8, 8, .rwfl, 1⟩, ⟨7, 7, .rwfl, 1⟩, ⟨6, 6, .rwfl, 0⟩, ⟨5, 4, .rwfl, 1⟩, ⟨2, 1, .rwfl, 0⟩,
     ⟨0, 0, .rwfl, 0⟩]⟩,
  ⟨.pinDirect, 0x107408, [(0x10000, 16), (0x10, 24)], [⟨31, 31, .wo, 0⟩, ⟨3, 0, .wo, 0⟩]⟩,
  ⟨.pinSts, 0x10740c, [(0x10000, 16), (0x10, 24)], [⟨7, 7, .ro, 0⟩, ⟨6, 6, .ro, 0⟩, ⟨5, 5, .ro, 0⟩, ⟨0, 0, .ro, 0⟩]⟩,
  ⟨.coreSts, 0x100000, [(0x10000, 16)], [⟨31, 26, .ro, 0⟩, ⟨16, 16, .ro, 0⟩, ⟨15, 0, .ro, 0⟩]⟩,
  ⟨.roundCnt, 0x100008, [(0x10000, 16)], [⟨31, 0, .ro, 0⟩]⟩,
  ⟨.arbCnt, 0x10000c, [(0x10000, 16)], [⟨31, 16, .ro, 0⟩, ⟨15, 0, .ro, 0⟩]⟩,
  ⟨.gpioOut, 0x100100, [(0x10000, 16)], [⟨23, 0, .rw, 0⟩]⟩,
  ⟨.gpioOutSet, 0x100104, [(0x10000, 16)], [⟨23, 0, .w1s, 0⟩]⟩,
  ⟨.gpioOutClr, 0x100108, [(0x10000, 16)], [⟨23, 0, .w1c, 0⟩]⟩,
  ⟨.gpioOutTgl, 0x10010c, [(0x10000, 16)], [⟨23, 0, .wo, 0⟩]⟩,
  ⟨.gpioOe, 0x100110, [(0x10000, 16)], [⟨23, 0, .rw, 0⟩]⟩,
  ⟨.gpioOeSet, 0x100114, [(0x10000, 16)], [⟨23, 0, .w1s, 0⟩]⟩,
  ⟨.gpioOeClr, 0x100118, [(0x10000, 16)], [⟨23, 0, .w1c, 0⟩]⟩,
  ⟨.gpioOeTgl, 0x10011c, [(0x10000, 16)], [⟨23, 0, .wo, 0⟩]⟩]

/-- The register map, part 3. -/
def regMap3 : List RegDef := [
  ⟨.gpioIn, 0x100120, [(0x10000, 16)], [⟨23, 0, .ro, 0⟩]⟩,
  ⟨.padBank, 0x100124, [(0x10000, 16)], [⟨1, 1, .ro, 1⟩, ⟨0, 0, .rwfl, 1⟩]⟩,
  ⟨.rimeKey, 0x100128, [(0x10000, 16)], [⟨31, 0, .wo, 0⟩]⟩,
  ⟨.rimeSts, 0x10012c, [(0x10000, 16)], [⟨15, 8, .ro, 0⟩, ⟨1, 0, .ro, 0⟩]⟩,
  ⟨.rimeSet, 0x100130, [(0x10000, 16)], [⟨31, 24, .wo, 0⟩, ⟨23, 0, .wo, 0⟩]⟩,
  ⟨.rimeLock, 0x100134, [(0x10000, 16)], [⟨23, 0, .ro, 0⟩]⟩,
  ⟨.secretMapLo, 0x100140, [(0x10000, 16)], [⟨31, 0, .w1s, 0⟩]⟩,
  ⟨.secretMapHi, 0x100144, [(0x10000, 16)], [⟨31, 0, .w1s, 0⟩]⟩,
  ⟨.tpSts, 0x100204, [(0x10000, 16), (0x8, 32)],
    [⟨31, 24, .ro, 0⟩, ⟨23, 16, .ro, 0⟩, ⟨12, 8, .ro, 0⟩, ⟨2, 0, .ro, 0⟩]⟩,
  ⟨.twGrp, 0x100300, [(0x10000, 16), (0x4, 16)], [⟨7, 0, .w1c, 0⟩]⟩,
  ⟨.twEvt, 0x100340, [(0x10000, 16), (0x4, 16)],
    [⟨31, 16, .ro, 0⟩, ⟨15, 15, .ro, 0⟩, ⟨14, 14, .ro, 0⟩, ⟨13, 13, .ro, 0⟩, ⟨12, 10, .ro, 0⟩, ⟨7, 5, .ro, 0⟩,
     ⟨4, 0, .ro, 0⟩]⟩,
  ⟨.seracCtl, 0x100380, [(0x10000, 16)],
    [⟨31, 31, .rw, 0⟩, ⟨30, 30, .rw, 0⟩, ⟨29, 29, .rw, 0⟩, ⟨23, 20, .rw, 0⟩, ⟨6, 0, .rw, 0⟩]⟩,
  ⟨.seracSts, 0x100384, [(0x10000, 16)], [⟨31, 16, .ro, 0⟩, ⟨15, 0, .ro, 0⟩]⟩,
  ⟨.thrSts, 0x100404, [(0x10000, 16), (0x40, 16)],
    [⟨31, 30, .ro, 0⟩, ⟨29, 27, .ro, 0⟩, ⟨26, 26, .ro, 0⟩, ⟨25, 25, .ro, 0⟩, ⟨24, 24, .ro, 0⟩, ⟨23, 16, .ro, 0⟩,
     ⟨15, 13, .ro, 0⟩, ⟨6, 0, .ro, 0⟩]⟩,
  ⟨.thrPc, 0x100408, [(0x10000, 16), (0x40, 16)], [⟨31, 1, .rw, 0⟩]⟩,
  ⟨.fetchCtrl, 0x100c00, [(0x10000, 16)], [⟨8, 8, .rw, 1⟩, ⟨1, 1, .w1s, 0⟩, ⟨0, 0, .w1s, 0⟩]⟩,
  ⟨.fetchSts, 0x100c04, [(0x10000, 16)], [⟨31, 16, .w1c, 0⟩, ⟨15, 0, .w1c, 0⟩]⟩,
  ⟨.fetchPark, 0x100c08, [(0x10000, 16)], [⟨15, 0, .ro, 0⟩]⟩,
  ⟨.cheSts, 0x101008, [(0x10000, 16), (0x20, 128)],
    [⟨31, 31, .ro, 0⟩, ⟨30, 30, .ro, 0⟩, ⟨29, 29, .w1c, 0⟩, ⟨28, 24, .ro, 0⟩, ⟨23, 19, .ro, 0⟩, ⟨18, 15, .ro, 0⟩]⟩,
  ⟨.cheCnt, 0x10100c, [(0x10000, 16), (0x20, 128)], [⟨31, 16, .ro, 0⟩, ⟨15, 0, .ro, 0⟩]⟩,
  ⟨.ownPin, 0x107800, [(0x10000, 16), (0x4, 24)],
    [⟨31, 28, .ro, 0⟩, ⟨27, 27, .ro, 0⟩, ⟨26, 26, .ro, 0⟩, ⟨19, 16, .ro, 0⟩, ⟨15, 0, .ro, 0⟩]⟩,
  ⟨.ownWslot, 0x107860, [(0x10000, 16), (0x8, 16), (0x4, 2)],
    [⟨31, 31, .ro, 0⟩, ⟨28, 24, .ro, 0⟩, ⟨23, 23, .ro, 0⟩, ⟨20, 16, .ro, 0⟩, ⟨15, 15, .ro, 0⟩, ⟨12, 8, .ro, 0⟩,
     ⟨7, 7, .ro, 0⟩, ⟨4, 0, .ro, 0⟩]⟩,
  ⟨.vxId, 0x0, [], [⟨31, 0, .ro, 0x56581602⟩]⟩,
  ⟨.vxVer, 0x4, [], [⟨31, 16, .ro, 2⟩, ⟨15, 0, .ro, 1⟩]⟩,
  ⟨.vxCap, 0x8, [], [⟨31, 24, .ro, 0x10⟩, ⟨23, 20, .ro, 4⟩, ⟨19, 16, .ro, 4⟩, ⟨15, 8, .ro, 0xc⟩, ⟨7, 0, .ro, 0x10⟩]⟩]

/-- The register map, part 4. -/
def regMap4 : List RegDef := [
  ⟨.spanEn, 0x10, [], [⟨15, 0, .rw, 0⟩]⟩,
  ⟨.reason, 0x20, [], [⟨31, 25, .ro, 0⟩, ⟨24, 24, .ro, 0⟩, ⟨23, 16, .ro, 0⟩, ⟨15, 8, .ro, 0⟩, ⟨7, 0, .ro, 0⟩]⟩,
  ⟨.reasonDetail, 0x24, [], [⟨31, 28, .ro, 0⟩, ⟨19, 16, .ro, 0⟩, ⟨15, 0, .ro, 0⟩]⟩,
  ⟨.rstCtrl, 0x40, [], [⟨31, 16, .wo, 0⟩, ⟨0, 0, .wo, 0⟩]⟩,
  ⟨.spanRst, 0x44, [], [⟨31, 16, .ro, 0xffff⟩, ⟨15, 0, .wo, 0⟩]⟩,
  ⟨.rstSts, 0x48, [], [⟨3, 0, .ro, 0⟩]⟩,
  ⟨.clkSts0, 0x60, [],
    [⟨11, 11, .ro, 0⟩, ⟨10, 7, .ro, 0⟩, ⟨6, 6, .ro, 0⟩, ⟨5, 5, .ro, 0⟩, ⟨4, 4, .ro, 0⟩, ⟨3, 3, .ro, 0⟩,
     ⟨2, 2, .ro, 0⟩, ⟨1, 1, .ro, 0⟩, ⟨0, 0, .ro, 0⟩]⟩,
  ⟨.clkSts1, 0x64, [], [⟨31, 16, .ro, 0⟩, ⟨15, 0, .ro, 0⟩]⟩,
  ⟨.pwrCtrl, 0x70, [], [⟨0, 0, .w1s, 0⟩]⟩,
  ⟨.pwrSts, 0x74, [], [⟨2, 2, .w1c, 0⟩, ⟨1, 0, .ro, 0⟩]⟩,
  ⟨.bootSts, 0x80, [],
    [⟨31, 31, .ro, 0⟩, ⟨30, 30, .ro, 0⟩, ⟨29, 27, .ro, 0⟩, ⟨26, 24, .ro, 0⟩, ⟨23, 16, .ro, 0⟩, ⟨15, 0, .ro, 0⟩]⟩,
  ⟨.bootEntry, 0x84, [], [⟨31, 1, .ro, 0⟩]⟩,
  ⟨.frzCtl, 0x100, [],
    [⟨31, 31, .w1s, 0⟩, ⟨30, 30, .w1s, 0⟩, ⟨29, 29, .w1s, 0⟩, ⟨2, 2, .rw, 0⟩, ⟨1, 1, .rw, 0⟩, ⟨0, 0, .rw, 0⟩]⟩,
  ⟨.frzSts, 0x104, [], [⟨31, 29, .ro, 0⟩, ⟨28, 26, .ro, 0⟩, ⟨15, 0, .ro, 0⟩]⟩,
  ⟨.frzTickLo, 0x108, [], [⟨31, 0, .rw, 0⟩]⟩,
  ⟨.frzTickHi, 0x10c, [], [⟨31, 0, .rw, 0⟩]⟩,
  ⟨.frzDrainLimit, 0x110, [], [⟨23, 0, .rw, 0x1000⟩]⟩,
  ⟨.frzLastLo, 0x114, [], [⟨31, 0, .ro, 0⟩]⟩,
  ⟨.frzLastHi, 0x118, [], [⟨31, 0, .ro, 0⟩]⟩,
  ⟨.frzDirty, 0x11c, [], [⟨18, 18, .ro, 0⟩, ⟨17, 17, .ro, 0⟩, ⟨16, 16, .ro, 0⟩, ⟨15, 0, .ro, 0⟩]⟩,
  ⟨.frzLock, 0x120, [], [⟨31, 31, .w1s, 0⟩, ⟨30, 30, .w1s, 0⟩, ⟨9, 0, .ro, 0⟩]⟩,
  ⟨.frzCnt, 0x124, [], [⟨31, 16, .ro, 0⟩, ⟨15, 0, .ro, 0⟩]⟩,
  ⟨.firnPeekAddr, 0x130, [], [⟨31, 31, .ro, 0⟩, ⟨20, 2, .rw, 0⟩]⟩,
  ⟨.firnPeekData, 0x134, [], [⟨31, 0, .ro, 0⟩]⟩,
  ⟨.pfCnt, 0x400, [(0x4, 5)], [⟨31, 16, .ro, 0⟩, ⟨15, 0, .ro, 0⟩]⟩]

/-- The register map, part 5. -/
def regMap5 : List RegDef := [
  ⟨.pfSet, 0x420, [], [⟨3, 2, .rwfp, 0⟩, ⟨1, 1, .rwfp, 0⟩, ⟨0, 0, .rwfp, 0⟩]⟩,
  ⟨.decodeLo, 0x4000, [(0x100, 16), (0x8, 32)], [⟨31, 0, .rwfp, 0⟩]⟩,
  ⟨.decodeHi, 0x4004, [(0x100, 16), (0x8, 32)],
    [⟨31, 31, .rwfp, 0⟩, ⟨30, 30, .rwfp, 0⟩, ⟨29, 25, .rwfp, 0⟩, ⟨24, 22, .rwfp, 0⟩, ⟨21, 19, .rwfp, 0⟩,
     ⟨18, 16, .rwfp, 0⟩, ⟨15, 15, .rwfp, 0⟩, ⟨14, 14, .rwfp, 0⟩, ⟨9, 8, .rwfp, 0⟩, ⟨7, 0, .rwfp, 0⟩]⟩,
  ⟨.tbLo, 0x10000, [], [⟨31, 0, .ro, 0⟩]⟩,
  ⟨.tbHi, 0x10004, [], [⟨31, 0, .ro, 0⟩]⟩,
  ⟨.tbHiSnap, 0x10008, [], [⟨31, 0, .ro, 0⟩]⟩,
  ⟨.lfLo, 0x10010, [], [⟨31, 0, .ro, 0⟩]⟩,
  ⟨.lfHi, 0x10014, [], [⟨15, 0, .ro, 0⟩]⟩,
  ⟨.lfHiSnap, 0x10018, [], [⟨15, 0, .ro, 0⟩]⟩,
  ⟨.tbmSts, 0x10020, [], [⟨31, 31, .ro, 0⟩, ⟨30, 30, .ro, 0⟩, ⟨21, 16, .ro, 0⟩, ⟨15, 0, .ro, 0⟩]⟩,
  ⟨.hiCtl, 0x20000, [], [⟨31, 31, .rw, 0⟩]⟩,
  ⟨.hiSts, 0x20004, [], [⟨31, 31, .w1c, 0⟩, ⟨15, 0, .ro, 0⟩]⟩,
  ⟨.dbBaseLo, 0x20008, [], [⟨31, 13, .rw, 0⟩]⟩,
  ⟨.dbBaseHi, 0x2000c, [], [⟨31, 0, .rw, 0⟩]⟩,
  ⟨.stBaseLo, 0x20010, [], [⟨31, 14, .rw, 0⟩]⟩,
  ⟨.stBaseHi, 0x20014, [], [⟨31, 0, .rw, 0⟩]⟩,
  ⟨.pollCfg, 0x20018, [], [⟨20, 16, .rw, 0x10⟩, ⟨15, 0, .rw, 0x100⟩]⟩,
  ⟨.kick, 0x2001c, [], [⟨9, 0, .wo, 0⟩]⟩,
  ⟨.vhiVer, 0x20020, [], [⟨31, 16, .ro, 0x304⟩, ⟨15, 0, .ro, 0x200⟩]⟩,
  ⟨.vhiFeatLo, 0x20024, [], [⟨31, 0, .ro, 0x7ff⟩]⟩,
  ⟨.vhiFeatHi, 0x20028, [], [⟨31, 0, .ro, 0⟩]⟩,
  ⟨.cdtIdx, 0x20100, [], [⟨11, 0, .rw, 0⟩]⟩,
  ⟨.cdtData0, 0x20104, [],
    [⟨31, 31, .ro, 0⟩, ⟨30, 30, .ro, 0⟩, ⟨29, 28, .ro, 0⟩, ⟨27, 27, .ro, 0⟩, ⟨25, 16, .ro, 0⟩, ⟨15, 0, .ro, 0⟩]⟩,
  ⟨.cdtData1, 0x20108, [], [⟨31, 20, .ro, 0⟩, ⟨19, 16, .ro, 0⟩, ⟨15, 8, .ro, 0⟩, ⟨7, 0, .ro, 0⟩]⟩,
  ⟨.sesCtl, 0x28000, [(0x20, 1024)], [⟨31, 31, .rw, 0⟩, ⟨30, 30, .rw, 0⟩, ⟨20, 16, .rw, 6⟩, ⟨12, 8, .rw, 6⟩]⟩]

/-- The register map, part 6. -/
def regMap6 : List RegDef := [
  ⟨.sesSts, 0x28004, [(0x20, 1024)], [⟨31, 29, .ro, 0⟩, ⟨28, 28, .ro, 1⟩, ⟨15, 0, .ro, 0⟩]⟩,
  ⟨.sesCmdLo, 0x28008, [(0x20, 1024)], [⟨31, 12, .rw, 0⟩]⟩,
  ⟨.sesCmdHi, 0x2800c, [(0x20, 1024)], [⟨31, 0, .rw, 0⟩]⟩,
  ⟨.sesRspLo, 0x28010, [(0x20, 1024)], [⟨31, 12, .rw, 0⟩]⟩,
  ⟨.sesRspHi, 0x28014, [(0x20, 1024)], [⟨31, 0, .rw, 0⟩]⟩,
  ⟨.sesFault, 0x28018, [(0x20, 1024)], [⟨15, 0, .ro, 0⟩]⟩,
  ⟨.sesInfl, 0x2801c, [(0x20, 1024)], [⟨31, 16, .ro, 0⟩, ⟨15, 0, .ro, 0⟩]⟩,
  ⟨.gdCtl, 0x30000, [], [⟨0, 0, .w1s, 0⟩]⟩,
  ⟨.gdSts, 0x30004, [], [⟨31, 31, .ro, 0⟩, ⟨30, 30, .ro, 0⟩, ⟨29, 29, .ro, 0⟩, ⟨28, 28, .ro, 0⟩, ⟨15, 0, .ro, 0⟩]⟩,
  ⟨.gdIdx, 0x30010, [], [⟨31, 31, .rw, 0⟩, ⟨30, 30, .rw, 0⟩, ⟨14, 0, .rw, 0⟩]⟩,
  ⟨.gdData, 0x30020, [(0x4, 4)], [⟨31, 0, .rwf, 0⟩]⟩,
  ⟨.gdProbeLo, 0x30040, [], [⟨31, 0, .rw, 0⟩]⟩,
  ⟨.gdProbeHi, 0x30044, [], [⟨31, 31, .w1s, 0⟩, ⟨30, 29, .rw, 0⟩, ⟨28, 21, .rw, 0⟩, ⟨9, 0, .rw, 0⟩]⟩,
  ⟨.gdProbeRes, 0x30048, [],
    [⟨31, 31, .ro, 0⟩, ⟨30, 29, .ro, 0⟩, ⟨28, 23, .ro, 0⟩, ⟨22, 22, .ro, 0⟩, ⟨14, 0, .ro, 0⟩]⟩,
  ⟨.gtCfg, 0x31000, [(0x10, 256)],
    [⟨31, 31, .rw, 0⟩, ⟨30, 30, .rwf, 0⟩, ⟨29, 27, .rwf, 0⟩, ⟨26, 21, .rwf, 0x18⟩, ⟨20, 16, .rwf, 0xc⟩,
     ⟨15, 12, .rwf, 8⟩, ⟨11, 7, .rwf, 0x10⟩]⟩,
  ⟨.gtPol, 0x31004, [(0x10, 256)],
    [⟨31, 30, .rwf, 2⟩, ⟨29, 28, .rwf, 2⟩, ⟨27, 26, .rwf, 2⟩, ⟨25, 20, .rwf, 0⟩, ⟨19, 19, .rwf, 0⟩,
     ⟨18, 15, .rwf, 0⟩, ⟨14, 14, .rwf, 0⟩]⟩,
  ⟨.gtBind, 0x31008, [(0x10, 256), (0x4, 2)],
    [⟨31, 31, .rwf, 0⟩, ⟨30, 27, .rwf, 0⟩, ⟨26, 23, .rwf, 0⟩, ⟨22, 21, .rwf, 0⟩, ⟨19, 16, .rwf, 0⟩,
     ⟨15, 14, .rwf, 0⟩]⟩,
  ⟨.gtCnt0, 0x32000, [(0x8, 256)], [⟨31, 0, .ro, 0⟩]⟩,
  ⟨.gtCnt1, 0x32004, [(0x8, 256)], [⟨31, 16, .ro, 0⟩, ⟨15, 0, .ro, 0⟩]⟩,
  ⟨.gmLane, 0x33000, [(0x4, 16)], [⟨31, 31, .ro, 0⟩, ⟨30, 23, .ro, 0⟩, ⟨22, 22, .ro, 0⟩]⟩,
  ⟨.gmComp0, 0x33100, [(0x8, 64)], [⟨31, 0, .rw, 0⟩]⟩,
  ⟨.gmComp1, 0x33104, [(0x8, 64)], [⟨31, 31, .rw, 0⟩, ⟨15, 0, .ro, 0⟩]⟩,
  ⟨.gmCtl, 0x33400, [], [⟨0, 0, .w1s, 0⟩]⟩,
  ⟨.gmSts, 0x33404, [], [⟨31, 31, .ro, 0⟩, ⟨30, 28, .ro, 0⟩, ⟨27, 27, .ro, 0⟩]⟩,
  ⟨.gmSeq, 0x33408, [], [⟨31, 0, .ro, 0⟩]⟩]

/-- The register map, part 7. -/
def regMap7 : List RegDef := [
  ⟨.morCfg, 0x40000, [], [⟨2, 0, .rw, 3⟩]⟩,
  ⟨.morSts, 0x40004, [], [⟨31, 31, .ro, 0⟩, ⟨30, 30, .ro, 0⟩, ⟨15, 8, .ro, 0⟩, ⟨7, 0, .ro, 0⟩]⟩,
  ⟨.morNext, 0x40008, [], [⟨31, 0, .ro, 0⟩]⟩,
  ⟨.morOldest, 0x4000c, [], [⟨31, 0, .ro, 0⟩]⟩,
  ⟨.morAck, 0x40010, [], [⟨31, 0, .rw, 0⟩]⟩,
  ⟨.morDrop, 0x40020, [(0x4, 6)], [⟨31, 0, .ro, 0⟩]⟩,
  ⟨.morRidx, 0x40040, [], [⟨31, 0, .rw, 0⟩]⟩,
  ⟨.morRsts, 0x40044, [], [⟨31, 31, .ro, 0⟩]⟩,
  ⟨.morRdata, 0x40080, [(0x4, 16)], [⟨31, 0, .ro, 0⟩]⟩,
  ⟨.morSnap, 0x41000, [(0x20, 64), (0x4, 8)], [⟨31, 31, .rw, 0⟩, ⟨20, 2, .rw, 0⟩]⟩,
  ⟨.morTrg, 0x44000, [(0x4, 4096)],
    [⟨31, 31, .rw, 1⟩, ⟨30, 30, .rw, 0⟩, ⟨29, 24, .rw, 0⟩, ⟨23, 16, .rw, 0x10⟩, ⟨13, 8, .rw, 0x14⟩,
     ⟨7, 0, .ro, 0⟩]⟩,
  ⟨.cascCfg, 0x50000, [], [⟨31, 30, .ro, 0⟩, ⟨29, 29, .rw, 1⟩]⟩,
  ⟨.cascSts, 0x50004, [],
    [⟨31, 31, .ro, 0⟩, ⟨30, 30, .ro, 0⟩, ⟨29, 29, .ro, 0⟩, ⟨28, 28, .ro, 0⟩, ⟨27, 26, .ro, 0⟩, ⟨19, 16, .ro, 0⟩,
     ⟨11, 0, .ro, 0⟩]⟩,
  ⟨.cascNodes, 0x50008, [], [⟨31, 16, .ro, 0⟩, ⟨12, 0, .ro, 1⟩]⟩,
  ⟨.cascTag, 0x5000c, [], [⟨31, 0, .ro, 0⟩]⟩,
  ⟨.cascCtl, 0x50010, [], [⟨31, 31, .w1s, 0⟩, ⟨0, 0, .rw, 0⟩]⟩,
  ⟨.cascTime, 0x50020, [], [⟨31, 16, .ro, 0⟩, ⟨2, 0, .ro, 1⟩]⟩,
  ⟨.cascTcnt, 0x50024, [], [⟨31, 16, .ro, 0⟩, ⟨15, 0, .ro, 0⟩]⟩,
  ⟨.cfLead, 0x50030, [], [⟨31, 31, .rw, 0⟩, ⟨23, 0, .rw, 0x10000⟩]⟩,
  ⟨.cfVlim, 0x50034, [], [⟨23, 0, .rw, 0x100000⟩]⟩,
  ⟨.cfSts, 0x50038, [], [⟨31, 16, .ro, 0⟩, ⟨11, 0, .ro, 0⟩]⟩,
  ⟨.lpCtl, 0x50100, [(0x20, 4)], [⟨31, 31, .rw, 0⟩]⟩,
  ⟨.lpVer, 0x50104, [(0x20, 4)], [⟨31, 16, .rw, 0x101⟩, ⟨15, 0, .rw, 0x100⟩]⟩,
  ⟨.lpSts, 0x50108, [(0x20, 4)], [⟨31, 28, .ro, 0⟩, ⟨27, 16, .ro, 0⟩, ⟨15, 0, .ro, 0⟩]⟩,
  ⟨.lpRange, 0x5010c, [(0x20, 4)], [⟨27, 16, .ro, 0⟩, ⟨11, 0, .ro, 0⟩]⟩]

/-- The register map, part 8. -/
def regMap8 : List RegDef := [
  ⟨.lpCnt, 0x50110, [(0x20, 4)], [⟨31, 16, .ro, 0⟩, ⟨15, 0, .ro, 0⟩]⟩,
  ⟨.lpDrop, 0x50114, [(0x20, 4)], [⟨31, 0, .ro, 0⟩]⟩,
  ⟨.fpSts, 0x60000, [], [⟨31, 28, .ro, 0⟩, ⟨27, 24, .ro, 0⟩, ⟨23, 23, .ro, 0⟩, ⟨22, 22, .ro, 0⟩, ⟨8, 0, .ro, 0⟩]⟩,
  ⟨.fpEcc, 0x60004, [], [⟨31, 16, .w1c, 0⟩, ⟨15, 0, .w1c, 0⟩]⟩,
  ⟨.rdpCtl, 0x60010, [], [⟨31, 16, .wo, 0⟩, ⟨1, 0, .wo, 0⟩]⟩,
  ⟨.rdpSts, 0x60014, [], [⟨31, 31, .ro, 0⟩, ⟨1, 0, .ro, 0⟩]⟩,
  ⟨.optCtl, 0x60020, [], [⟨31, 16, .wo, 0⟩, ⟨0, 0, .wo, 0⟩]⟩,
  ⟨.optSrc, 0x60024, [], [⟨23, 20, .rw, 0⟩, ⟨19, 3, .rw, 0⟩]⟩,
  ⟨.optSts, 0x60028, [], [⟨31, 31, .ro, 0⟩, ⟨30, 30, .ro, 0⟩, ⟨15, 0, .ro, 0⟩]⟩,
  ⟨.optView0, 0x60030, [], [⟨31, 20, .ro, 0⟩, ⟨19, 7, .ro, 0⟩]⟩,
  ⟨.optView1, 0x60034, [], [⟨31, 30, .ro, 0⟩, ⟨11, 0, .ro, 0⟩]⟩,
  ⟨.almCfg, 0x70000, [(0x10, 8)], [⟨31, 31, .rw, 0⟩, ⟨23, 16, .rw, 1⟩]⟩,
  ⟨.almWin, 0x70004, [(0x10, 8)], [⟨23, 0, .rw, 0x400⟩]⟩,
  ⟨.almResp, 0x70008, [(0x10, 8)], [⟨3, 0, .rw, 0⟩]⟩,
  ⟨.almSts, 0x7000c, [(0x10, 8)],
    [⟨31, 31, .w1c, 0⟩, ⟨30, 30, .ro, 0⟩, ⟨29, 29, .ro, 0⟩, ⟨23, 16, .ro, 0⟩, ⟨15, 0, .ro, 0⟩]⟩,
  ⟨.almCtl, 0x70100, [], [⟨31, 31, .w1s, 0⟩]⟩,
  ⟨.almTest, 0x70104, [], [⟨31, 31, .w1s, 0⟩, ⟨30, 30, .ro, 0⟩, ⟨2, 0, .rw, 0⟩]⟩,
  ⟨.bkSts, 0x70200, [], [⟨31, 31, .ro, 0⟩, ⟨15, 0, .ro, 0⟩]⟩,
  ⟨.bkAck, 0x70204, [], [⟨31, 16, .ro, 0⟩, ⟨15, 0, .rw, 0⟩]⟩,
  ⟨.bkAlmen, 0x70208, [], [⟨7, 0, .w1s, 0⟩]⟩,
  ⟨.bkLatch, 0x7020c, [], [⟨7, 0, .w1c, 0⟩]⟩,
  ⟨.bkEntry, 0x70300, [(0x10, 32), (0x4, 4)], [⟨31, 0, .ro, 0⟩]⟩,
  ⟨.dbgCtl, 0x80000, [], [⟨31, 31, .rw, 0⟩, ⟨30, 30, .rw, 0⟩, ⟨29, 29, .rw, 0⟩]⟩,
  ⟨.dbgSts, 0x80004, [], [⟨31, 31, .ro, 0⟩, ⟨8, 0, .ro, 0⟩]⟩,
  ⟨.dbgCmd, 0x80010, [], [⟨31, 28, .wo, 0⟩, ⟨27, 24, .wo, 0⟩, ⟨23, 20, .wo, 0⟩, ⟨19, 18, .wo, 0⟩, ⟨17, 11, .wo, 0⟩]⟩]

/-- The register map, part 9. -/
def regMap9 : List RegDef := [
  ⟨.dbgCmdSts, 0x80014, [], [⟨31, 31, .ro, 0⟩, ⟨30, 30, .ro, 0⟩, ⟨2, 0, .ro, 0⟩]⟩,
  ⟨.dbgTregSel, 0x80020, [], [⟨31, 31, .ro, 0⟩, ⟨15, 12, .rw, 0⟩, ⟨11, 8, .rw, 0⟩, ⟨7, 0, .rw, 0⟩]⟩,
  ⟨.dbgTregData, 0x80024, [], [⟨31, 0, .rw, 0⟩]⟩,
  ⟨.dbgMemAddr, 0x80030, [], [⟨31, 31, .rw, 0⟩, ⟨30, 30, .ro, 0⟩, ⟨23, 20, .rw, 0⟩, ⟨19, 3, .rw, 0⟩]⟩,
  ⟨.dbgMemLo, 0x80034, [], [⟨31, 0, .rw, 0⟩]⟩,
  ⟨.dbgMemHi, 0x80038, [], [⟨31, 0, .rw, 0⟩]⟩,
  ⟨.dbgReset, 0x80040, [], [⟨31, 16, .wo, 0⟩, ⟨0, 0, .wo, 0⟩]⟩,
  ⟨.eccCnt, 0x80100, [(0x4, 8)], [⟨31, 16, .w1c, 0⟩, ⟨15, 0, .w1c, 0⟩]⟩,
  ⟨.eccLast0, 0x80120, [], [⟨31, 31, .w1c, 0⟩, ⟨30, 28, .ro, 0⟩, ⟨27, 24, .ro, 0⟩, ⟨7, 0, .ro, 0⟩]⟩,
  ⟨.eccLast1, 0x80124, [], [⟨31, 0, .ro, 0⟩]⟩]

/-- The whole register map (R36). Offsets outside it read as 0 and ignore writes (R11). -/
def regMap : List RegDef :=
  regMap1 ++ regMap2 ++ regMap3 ++ regMap4 ++ regMap5 ++ regMap6 ++ regMap7 ++ regMap8 ++ regMap9

/-- The indices that an offset above a register's base spells, if it is one of the register's. -/
def dimIdx : List (Nat × Nat) → Nat → Option (List Nat)
  | [], r => if r = 0 then some [] else none
  | (st, k) :: ds, r => if r / st < k then (dimIdx ds (r % st)).map (r / st :: ·) else none

/-- The row and indices of a window offset. -/
def regFind : List RegDef → Nat → Option (RegDef × List Nat)
  | [], _ => none
  | d :: ds, off =>
    if d.base ≤ off then
      match dimIdx d.dims (off - d.base) with
      | some ix => some (d, ix)
      | none => regFind ds off
    else regFind ds off

/-- The row and indices of a window offset, `none` where no chapter defines one (R11). -/
def regAt (off : Nat) : Option (RegDef × List Nat) := regFind regMap off

/-- The offset of entry `ix` of a register whose row is `d`. -/
def dimOff : List (Nat × Nat) → List Nat → Nat
  | (st, _) :: ds, i :: is => st * i + dimOff ds is
  | _, _ => 0

/-- The word the fields of a register hold at reset. -/
def fieldsReset : List Fld → Nat
  | [] => 0
  | f :: r => f.rst <<< f.lo + fieldsReset r

/-- The bits of the fields whose access code satisfies `p`. -/
def fieldsMask (p : Acc → Bool) : List Fld → Nat
  | [] => 0
  | f :: r => (if p f.acc then (2 ^ (f.hi - f.lo + 1) - 1) <<< f.lo else 0) + fieldsMask p r

/-- The reset value of the register at a window offset; 0 where none is defined (R11). -/
def regReset (off : Nat) : Word :=
  match regAt off with
  | some (d, _) => BitVec.ofNat 32 (fieldsReset d.fields)
  | none => 0

end Sys2Proof.Machine
end

