-- ==== Sys2Proof/Machine/StrandSyntax.lean ====
section
/-! DEFINITION. The types of a decoded Strand instruction (R109 to R113). -/
namespace Sys2Proof.Machine

/-- The Strand mnemonics, one for each Strand row of the table of operations (R125 to R152). -/
inductive Mn where
  | tbrd | waitt | waite | tq | tqsr | tqgc | tqev
  | ld | ldx | ldy | lds | st | stx | sty | lil | lih
  | add | adc | sub | sbc | andd | orr | xorr | cmp | cpx | cpy | bit | inc | dec | neg | nott | mov
  | shl | shr | asr | ror | mul | dadd | dsub | dadj | crcs | par | brev
  | br | nvHint | call | dbx | jmpr | callr | ret | rete | loop | lclr
  | mfs | mts | wtld | wtadd | wtarm
  | cin | cout | coute | cend
  | nop | sett | clrt | idle | brk | xop
  | flashProgram | flashErase | flashBlank | flashM0 | flashM1
  /-- A reserved group, op, major opcode, function or sub value: no mnemonic (R114). -/
  | reserved
  deriving DecidableEq, Repr

/-- R109: the operand modes; `none` for an instruction without a memory-format operand. -/
inductive Mode where
  | none | imm | win | xd | yd | xp | yp | xy | reg
  deriving DecidableEq, Repr

/-- A decoded Strand instruction. -/
structure SDec where
  mn : Mn
  /-- Length in bytes, 2 or 4 (R111). -/
  len : Nat
  /-- Condition code 0..15 (R115). -/
  cond : Nat
  /-- An encoding that traps ILLEGAL in FET or DEC whatever the thread's state (R110, R114, R126, R131, R132, R140, R142, R150). -/
  ill : Bool
  mode : Mode
  /-- Access size in bytes: 1, 2, 4 or 8 (R110). -/
  size : Nat
  /-- Immediate, displacement or branch offset in bytes, sign-extended where the format says so. -/
  d : Word
  /-- First small field: register selector, loop level, window slot, channel end, group or XOP number. -/
  f : Nat
  /-- Second small field: source selector, SR number, loop count or OFF. -/
  g : Nat
  /-- The first halfword, the detail of an ILLEGAL trap (R120). -/
  h0 : BitVec 16
  deriving DecidableEq, Repr

end Sys2Proof.Machine
end

