-- ==== Sys2Proof/Machine/State.lean ====
section
/-! DEFINITION. The state of the block as plain data: every register, memory, queue, counter and mode the spec names, its
reset value as the default of its field, and the reasons a command can stop. -/
namespace Sys2Proof.Machine

/-! ## Clocks, resets and power (01, 02, 12, 17) -/

/-- Timebase, LF counter, clocks, resets and power modes. -/
structure Clk where
  /-- R43: TB, in ticks. -/
  tb : Nat := 0
  /-- R330: the 48-bit LF count (BACKUP domain). -/
  lf : Nat := 0
  /-- R330: the 6-bit accumulator. -/
  acc : Nat := 0
  /-- R331: TB is in LF mode. -/
  lfMode : Bool := false
  /-- TBM_STS.CAUSE: 1 debug halt. -/
  lfDebug : Bool := false
  /-- TBM_STS.ENTRIES. -/
  lfEntries : Nat := 0
  /-- R34: SLEEP has been granted and not ended. -/
  sleeping : Bool := false
  /-- PWR_STS.SLEEP_DENY. -/
  sleepDeny : Bool := false
  /-- The output sleep_ack_o. -/
  sleepAck : Bool := false
  /-- R29: MAIN reset is asserted. -/
  mainRst : Bool := true
  /-- R458: BACKUP reset is asserted. -/
  backupRst : Bool := true
  /-- R458: LF edges since BACKUP reset was asserted. -/
  backupEdges : Nat := 0
  /-- R458: main_pok_i is high. -/
  pok : Bool := true
  /-- The input rst_main_n_i is asserted. -/
  rstPin : Bool := false
  /-- R30: the TB value held when MAIN reset was asserted. -/
  vHeld : Nat := 0
  /-- RST_STS.CAUSE. -/
  cause : Nat := 0
  /-- CLK_STS0. -/
  clks : BitVec 12 := 0
  /-- R42: TB at the last LF edge outside LF mode. -/
  tbEdge : Nat := 0
  /-- R34: the clocked domains that SLEEP stopped and that have not shown present since, as bits of CLK_STS0. -/
  awaits : BitVec 12 := 0
  /-- R329: TB_HI_SNAP by requester: 0 system port, 1 debug TAP, 2 + n Span n. -/
  tbSnap : Tab Word := []
  /-- R329: LF_HI_SNAP by requester. -/
  lfSnap : Tab Word := []
  /-- PAD_BANK.SENSED of each bank, a level of the pad ring. -/
  sensed : BitVec 16 := BitVec.allOnes 16
  /-- R40: Span 0 runs with EN[0] = 0 until EN[0] has been 1. -/
  bootExc : Bool := true
  deriving DecidableEq, Repr

/-! ## Strand cores (02 to 06) -/

/-- R119: the four thread states. -/
inductive TState where
  | idle | operate | service | halted
  deriving DecidableEq, Repr

/-- A register write on its way to its landing round (R86, R87). -/
inductive LandW where
  | a (v : Word)
  | x (v : Word)
  | y (v : Word)
  /-- The flags of `mask` take the bits of `val`; layout of R103. -/
  | fl (mask val : BitVec 6)
  | wt (v : DWord)
  | arm (v : Bool)
  /-- LB, LE and LC of a level. -/
  | loopReg (level : Nat) (b e c : Word)
  /-- A special register of R105, by number. -/
  | sr (k : Nat) (v : Word)
  deriving DecidableEq, Repr

/-- R124, R129: what is left of a multi-beat instruction whose first beat has issued. -/
inductive Beats where
  /-- Beats of an instruction whose condition was false. -/
  | noop (left : Nat)
  /-- The last beat of MUL, with the writes that land in its WBK. -/
  | mul (ws : List LandW)
  /-- R124: the micro-operations of an XOP whose beats are to come, its temporaries and its micro-flags. -/
  | xop (ops : List DWord) (u : Tab Word) (fl : BitVec 6)
  deriving DecidableEq, Repr

/-- A multi-beat instruction between its beats. -/
structure Multi where
  dec : SDec
  beats : Beats
  deriving DecidableEq, Repr

/-- An instruction in flight whose memory access has not been served: it waits in the retry register (R83), for a setup-window
response (R108) or for a flash line (R131). The operands are those read in DEC. -/
structure Pend where
  dec : SDec
  pc : Word
  a : Word
  x : Word
  y : Word
  fl : BitVec 6
  /-- The issue round and lane of the instruction. -/
  r : Nat
  lane : Nat
  addr : Nat
  len : Nat
  /-- A store and its bytes as a number, or a load or descriptor read. -/
  store : Option Nat
  /-- R79: the bytes of the first bank of an access that lies in two, where that part has been made. -/
  part : Option Nat := none
  /-- R82, R85: the round in which the bank has a turn for the request. -/
  q : Nat := 0
  /-- R98, R108: the instruction has been abandoned while its setup access was under way. -/
  dead : Bool := false
  deriving DecidableEq, Repr

/-- R61, R62: an operation of a timed port, on its way or in the queue. -/
structure TqEnt where
  port : Nat
  wslot : Nat
  tick : Int
  eighth : Nat
  opw : Word
  guard : Word
  /-- The effective key (T′, e′), meaningful once in the queue. -/
  ktick : Nat := 0
  keighth : Nat := 0
  late : Bool := false
  /-- The record the entry will fill, and the entry's own number in its port. -/
  recNo : Option Nat := none
  seq : Nat := 0
  deriving DecidableEq, Repr

/-- What a thread hands to the crossing into PBn, in issue order (R146). -/
inductive CrossItem where
  | op (e : TqEnt)
  | reopen (group : Nat)
  deriving DecidableEq, Repr

/-- R102 and THR_STS: one thread. -/
structure Thread where
  a : Word := 0
  x : Word := 0
  y : Word := 0
  pc : Word := 0
  fl : BitVec 6 := 0
  lb : Tab Word := []
  le : Tab Word := []
  lc : Tab Word := []
  /-- R118: the entries, the number of the next entry to push, and the depth. -/
  rstk : Tab Word := []
  rptr : Nat := 0
  depth : Nat := 0
  wt : DWord := 0
  arm : Bool := false
  evb : Word := 0
  epc : Word := 0
  efl : BitVec 6 := 0
  ecause : Word := 0
  rstkTrap : Bool := false
  masked : Bool := false
  even : BitVec 8 := 0
  crccfg : Word := 0
  st : TState := .idle
  /-- The state before IDLE, and the state before HALTED. -/
  prev : TState := .idle
  before : TState := .idle
  /-- R442: the debugger steps the thread: it halts after its next instruction. -/
  stepping : Bool := false
  wakeable : Bool := false
  haltCause : Nat := 0
  /-- THR_STS.WAIT: 0 none, 1 CIN, 2 WAITE, 3 WAITT, 4 TQSR, 5 held. A park shows as 6. -/
  wait : Nat := 0
  waitOpnd : Nat := 0
  waitSeq : Nat := 0
  waitTick : Nat := 0
  /-- The wait has been woken and is issued again (R143). -/
  waited : Bool := false
  serac : Bool := false
  seracDep : Bool := false
  /-- Pending events: vector and detail, lowest first. -/
  pend : List (Nat × Nat) := []
  /-- R97, R121: a latched entry: the boundary L, the EPC and the ECAUSE to be saved. -/
  entry : Option (Nat × Word × Word) := none
  land : List (Nat × LandW) := []
  nextRound : Nat := 0
  lastIssue : Nat := 0
  /-- R129: the multi-beat instruction at PC, once its first beat has issued. -/
  multi : Option Multi := none
  /-- R93: the top of RSTK before a recent push or pop, with the DEC round of that instruction, newest first. -/
  rhist : List (Nat × Word) := []
  /-- R91, R99: the addresses whose 16 bytes the loop-head copy and the entry copy hold; a store refreshes both, so that their
  content is that of the memory. -/
  head : Option Nat := none
  ecopy : Option Nat := none
  /-- R100: the last instruction was a RETE. -/
  reted : Bool := false
  /-- R89: the fetch buffer: address of a doubleword, first round in which it is usable, its content. -/
  fbuf : List (Nat × Nat × DWord) := []
  retry : Option Pend := none
  setup : Option Pend := none
  /-- R92: parked on a line, since a tick, with the load that waits for it; then whether PARK_LONG and XIP_WAIT were recorded. -/
  park : Option (Nat × Nat × Option Pend) := none
  parkLong : Bool := false
  xipWait : Bool := false
  tbrd : Nat := 0
  cross : List CrossItem := []
  /-- TW_GRP.SQUASHED. -/
  squashed : BitVec 8 := 0
  /-- TW_EVT. -/
  twEvt : Word := 0
  deriving DecidableEq, Repr

/-- R80: what the port access of an own slot carries. -/
inductive PortUse where
  /-- The data access of the instruction itself. -/
  | data
  /-- The fetch of the thread, when it needs one. -/
  | seq
  /-- R83: a fetch that lost and waits in the retry register; the bank has a turn for it. -/
  | late (a : Nat)
  /-- R90: a fetch whose content a taken branch discards. -/
  | spent (a : Nat)
  deriving DecidableEq, Repr

/-- R80: an own slot whose port round has not come: its round and lane, its thread, and what its port carries. -/
structure Slot where
  r : Nat
  lane : Nat
  t : Nat
  use : PortUse
  deriving DecidableEq, Repr

/-- R92: a line that a thread has asked for, since a tick. -/
structure LineReq where
  line : Nat
  t : Nat
  since : Nat
  deriving DecidableEq, Repr

/-- R84: a store-buffer entry: its lane, its granule address, the bytes it holds and their content. -/
structure SbEntry where
  lane : Nat
  /-- The MEM round of the store that made the entry. -/
  round : Nat
  gran : Nat
  mask : BitVec 8
  data : DWord
  deriving DecidableEq, Repr

/-- R93: a branch-target buffer entry. -/
structure BtbEntry where
  pc : Word
  target : Word
  cnt : Nat
  deriving DecidableEq, Repr

/-- A Strand core and what its Span holds once. -/
structure Core where
  /-- R71: rounds since SPAN[n] reset; ROUND_CNT and the row are taken from it. The own slots of earlier rounds have been used. -/
  round : Nat := 0
  /-- R80: the own slots whose port round has not come, in the order of their ports. -/
  slots : List Slot := []
  /-- R84: bytes of Span memory as they were before a recent store, newest first: twice the store's MEM round, and 1 for phase B; the
  address; the byte. -/
  hist : List (Nat × Nat × Byte) := []
  /-- R78, R101: the register words that rounds before a given one go by, since a Freeze. -/
  before : List (Nat × Tab Word) := []
  /-- R85: the round of the fabric port's last access. -/
  fabricAt : Nat := 0
  liveBank : Bool := false
  sb : List SbEntry := []
  /-- R82: phase-B slots already granted: bank and round. -/
  busyB : List (Nat × Nat) := []
  sbEntries : Nat := 0
  retries : Nat := 0
  /-- R92: the line buffer, most recently used first, and the lines requested. -/
  lbuf : List Nat := []
  lreq : List LineReq := []
  /-- R93: the branch-target buffer, most recently used first. -/
  btb : List BtbEntry := []
  mispredict : Nat := 0
  lineMiss : Nat := 0
  /-- R39: the core finishes the rounds of a disable. -/
  stopping : Bool := false
  /-- R32: the tick at which SPAN[n] reset is released; `none` while MAIN holds it. -/
  rstEnd : Option Nat := none
  inRst : Bool := true
  /-- R421: the banks under wipe, and the first round in which a request of a deterministic thread has waited for one. -/
  wiping : BitVec 8 := 0
  detFrom : Option Nat := none
  /-- R170: SPAN[n] resets since MAIN reset. -/
  epoch : Nat := 0
  /-- R346: the highest value the core's TB copy has shown. -/
  tbSeen : Nat := 0
  /-- SERAC_STS. -/
  cycles : Nat := 0
  members : BitVec 16 := 0
  /-- SECRET_MAP. -/
  secret : BitVec 64 := 0
  deriving DecidableEq, Repr

/-- R53: a timed port. -/
structure TPort where
  queue : List TqEnt := []
  /-- Records in queue order: its number, and its content once it is ready for TQSR. -/
  recs : List (Nat × Option Word) := []
  /-- The number of the next entry to reach the queue. -/
  next : Nat := 0
  /-- R58: records outstanding: SMP and MARK issued and not read. -/
  recOut : Nat := 0
  /-- R52: the cursor the core holds. -/
  ctick : Int := 0
  ceighth : Nat := 0
  /-- R61: the effective key of the last entry. -/
  ktick : Nat := 0
  keighth : Nat := 0
  lateCnt : Nat := 0
  sqCnt : Nat := 0
  deriving DecidableEq, Repr

/-- R164: a released word in the store of an output end: the last-of-message mark, the first round in which it can be read
(R165), and KIND and CHE_PEER of the end at its release (R169). -/
structure StoreWord where
  w : Word
  last : Bool
  round : Nat
  kind : Nat
  peer : Word
  deriving DecidableEq, Repr

/-- R164: a channel end. -/
structure End where
  /-- Staged words, oldest first. -/
  staged : List Word := []
  /-- Released words not delivered. -/
  store : List StoreWord := []
  /-- The input buffer: the word, the last-of-message mark and the first round in which it is readable (R165). -/
  buf : List (Word × Bool × Nat) := []
  /-- R168: the last word that entered the buffer was not the last of its message. -/
  mid : Bool := false
  /-- R168: the rounds from which the first words of messages in the buffer can be read, as far as no event has been judged for them. -/
  evq : List Nat := []
  /-- R165: the round from which room freed by a CIN serves the next word. -/
  freed : Nat := 0
  aborted : Bool := false
  peerErr : Bool := false
  msgs : Nat := 0
  drops : Nat := 0
  /-- R170: FLASHOP completion words that wait for the claim to clear. -/
  compl : List Word := []
  /-- R383: the landing store of an input end: messages, each with its words, those still to be moved, and the kind, node and
  number of its sender. -/
  landing : List (Nat × List Word × Nat × Nat × Nat) := []
  /-- R383: credits for the far peer, and messages sent and not answered: words and tick. -/
  credits : Nat := 16
  sent : List (Nat × Nat) := []
  deriving DecidableEq, Repr

/-! ## Clove engines, pins, timers (07, 08, 12) -/

/-- R182: an engine. -/
structure Engine where
  running : Bool := false
  origin : Nat := 0
  k : Nat := 0
  ibank : Bool := false
  drej : Nat := 0
  deriving DecidableEq, Repr

/-- R185: a Clove channel. -/
structure Chan where
  pc : Nat := 0
  rwb : Nat := 0
  rwe : Nat := 255
  sh : Word := 0
  shcnt : Nat := 0
  cntA : BitVec 16 := 0
  cntB : BitVec 16 := 0
  crcv : Word := 0
  addr : BitVec 42 := 0
  lastIn : Word := 0
  /-- R199: the in FIFO, each word with the tick at which it entered, and the out FIFO. -/
  inF : List (Word × Nat) := []
  outF : List Word := []
  gen : BitVec 256 := 0
  /-- R188: flags 1..15 as CHN_STS[15:0]; EN, IEMPTY and OFULL are taken from their own state. -/
  flags : BitVec 16 := 0
  dly : Nat := 0
  evPend : Bool := false
  staleCnt : Nat := 0
  /-- R207: EN was cleared and the channel's next own step has not come. -/
  stopping : Bool := false
  /-- R441: CE_HALT waits for the channel's next own step; CE_STEP runs one instruction. -/
  dbgHalt : Bool := false
  dbgStep : Bool := false
  /-- R188: the pad levels the channel captured at its last step. -/
  pins : BitVec 24 := 0
  /-- R201: answers that steps in later ticks see, oldest first: the tick, the flags it sets and their values. -/
  answers : List (Nat × BitVec 16 × BitVec 16) := []
  deriving DecidableEq, Repr

/-- R216: the pin logic of a bank. -/
structure Bank where
  gv : BitVec 24 := 0
  ge : BitVec 24 := 0
  cv : BitVec 24 := 0
  ce : BitVec 24 := 0
  /-- R223: the tick at which a pin's keeper lets go; 0 for none. -/
  keep : Tab Nat := []
  /-- The levels the keepers hold. -/
  keepLvl : BitVec 24 := 0
  /-- R224: direct writes in the crossing, oldest first: pin, function and the tick at which it applies. -/
  direct : List (Nat × Nat × Nat) := []
  /-- R223: the samples at which function paths are frozen. -/
  held : BitVec 24 := 0
  /-- R454: what the pad-control bus has carried and will, oldest first: tick, selector and data. -/
  pcb : List (Nat × Nat × Nat) := []
  /-- R225: pins whose function a direct write has set while a commit runs that changes them. -/
  directOver : BitVec 24 := 0
  rimeSeq : Nat := 0
  rimeFails : Nat := 0
  rimeLock : BitVec 24 := 0
  rimeTick : Nat := 0
  deriving DecidableEq, Repr

/-- A timer channel (R333 to R345). -/
structure Timer where
  cmp : Word := 0
  count : Word := 0
  cap : Word := 0
  out : Bool := false
  level : Bool := false
  hist : List Bool := []
  presc : Nat := 0
  edges : Nat := 0
  matchF : Bool := false
  topF : Bool := false
  capV : Bool := false
  ovr : Bool := false
  pend : Bool := false
  /-- R340: a high write held for the low one, and the pair's HI_SNAP. -/
  heldCmp : Option Word := none
  heldCount : Option Word := none
  hiSnap : Word := 0
  /-- R341: the first sample after EN sets L without an edge. -/
  fresh : Bool := true
  /-- The tick of the last increment or sample taken, so that none is applied twice. -/
  lastInc : Nat := 0
  lastSmp : Nat := 0
  deriving DecidableEq, Repr

/-! ## Firn and the Freeze controller (11) -/

/-- FRZ_STS.STATE. -/
inductive FrzState where
  | idle | checking | persist | armed | draining | sync | voted
  deriving DecidableEq, Repr

/-- FRZ_STS.LAST. -/
inductive FrzLast where
  | none | checkOk | checkFail | applied | aborted
  deriving DecidableEq, Repr

/-- The Freeze controller, REASON and the Firn lock. -/
structure Frz where
  st : FrzState := .idle
  last : FrzLast := .none
  lastCode : Nat := 0
  /-- FRZ_CTL[2:0]: CASCADE, DRAIN and AT as they were last written. -/
  ctl : BitVec 3 := 0
  /-- R327: CASCADE, DRAIN and AT as the last COMMIT took them. -/
  cascade : Bool := false
  drain : Bool := false
  atF : Bool := false
  /-- The check in progress is that of a COMMIT. -/
  commit : Bool := false
  /-- The SYNC in progress is that of a DISCARD. -/
  discard : Bool := false
  tick : Nat := 0
  lastTick : Nat := 0
  /-- FRZ_LOCK.HOLDER. -/
  holder : Nat := 0
  /-- The source of the CHECK or COMMIT that runs (R310). -/
  who : Src := .host
  applied : Nat := 0
  aborted : Nat := 0
  /-- R211: no tick before this one ends the drain. -/
  drainLow : Nat := 0
  /-- R325: the settings charged by the running commit. -/
  charged : List Nat := []
  /-- The run is the boot ROM's first load, which charges nothing (R324). -/
  boot : Bool := false
  /-- REASON: SEQ, THR and GTHR, CLASS and DETAIL; REASON_DETAIL. -/
  reason : Word := 0
  reasonDetail : Word := 0
  /-- R323: PF_CNT[k].USED. -/
  used : Tab Nat := []
  deriving DecidableEq, Repr

/-! ## Moraine (13) -/

/-- R350: an entry; SEQ is given when it is written. -/
structure MorEntry where
  tb : Nat := 0
  seq : Nat := 0
  code : Nat := 0
  sev : Nat := 0
  pin : Bool := false
  replay : Bool := false
  snapErr : Bool := false
  supp : Nat := 0
  /-- Bytes 16..63, byte 16 in the low eight bits. -/
  payload : Digest := 0
  deriving DecidableEq, Repr

/-- R361, R362: the recorder. -/
structure Mor where
  /-- The input queue, oldest first, of at most 32 entries. -/
  queue : List MorEntry := []
  /-- Privileged entries that wait at their sources. -/
  waiting : List MorEntry := []
  /-- The log store, by SEQ. -/
  log : Tab MorEntry := []
  next : Nat := 0
  ack : Nat := 0
  /-- R358: the chain value of the last full block. -/
  chain : Digest := 0
  /-- The logical blocks that hold a slot, rising; the open block is among them. -/
  blocks : List Nat := []
  /-- R360: pinned runs: first and last SEQ. -/
  runs : List (Nat × Nat) := []
  /-- R357: tokens spent of each code's bucket, and entries suppressed since the last admitted one. -/
  spent : Tab Nat := []
  supp : Tab Nat := []
  /-- The tick of each code's last refill. -/
  refill : Tab Nat := []
  /-- MOR_DROP. -/
  drop : Tab Nat := []
  /-- R363: counts since the last DROPS entry: 0..3 dropped by severity, 4 overwritten, 5 suppressed; lowest and highest SEQ
  overwritten. -/
  since : Tab Nat := []
  lowOver : Nat := 0
  highOver : Nat := 0
  /-- R361: the tick of the last entry written. -/
  lastWrite : Option Nat := none
  /-- R367: the SEQ last written to MOR_RIDX whose MOR_RDATA[15] has not been read, and the tick of that write. -/
  hold : Option (Nat × Nat) := none
  deriving DecidableEq, Repr

/-! ## Serac (06) -/

/-- R174: a cycle as a scan found it: members with their WAIT_SEQ and end counts, dependants, and what has been done. -/
structure SeracCycle where
  members : List Nat
  marks : List Nat
  deps : List Nat
  /-- R176: its SEQ, once it is confirmed. -/
  no : Nat := 0
  deriving DecidableEq, Repr

/-- Serac's own state. -/
structure Serac where
  /-- Cycles found at the last scan. -/
  found : List SeracCycle := []
  /-- Cycles confirmed and reported, with the Spans whose reset is deferred to the next scan. -/
  reported : List SeracCycle := []
  deferred : List (SeracCycle × List Nat) := []
  /-- R176: confirmed cycles since MAIN reset. -/
  count : Nat := 0
  lastScan : Option Nat := none
  deriving DecidableEq, Repr


/-! ## Region Guard and measurement (09) -/

/-- R245, R246: a post with the decision that the table live at its instant gives it. -/
structure Post where
  e : Nat
  c : Nat
  target : Nat
  b : Nat
  addr : Nat
  op : Nat
  /-- The address-complete instant in eighths of a tick. -/
  p8 : Nat
  /-- 0 allow, 1 allow+measure or allow+log, 2 deny or deny-abort. -/
  code : Nat
  comp : Nat
  /-- Bytes 24..25 of R299: the deciding entry, or bit 15 for a default. -/
  ent : Nat
  oor : Bool
  /-- R247: the flash-side channel of an interposed binding. -/
  fside : Option (Nat × Nat)
  monitored : Bool
  notify : Bool
  deriving DecidableEq, Repr

/-- R245: the Guard slice of a Span: posts that wait, and those in its two lookup units. -/
structure Slice where
  queue : List Post := []
  units : List Post := []
  deriving DecidableEq, Repr

/-- GT_CNT0 and GT_CNT1 of a target. -/
structure Target where
  lookups : Nat := 0
  denies : Nat := 0
  oor : Nat := 0
  deriving DecidableEq, Repr

/-- The Region Guard. -/
structure Guard where
  slices : Tab Slice := []
  tgts : Tab Target := []
  /-- R237: the write buffer of GD_DATA0..2. -/
  buf : Tab Word := []
  sync : Bool := false
  sealed : Bool := false
  liveBank : Bool := false
  /-- R266: the result of the probe that runs, and GD_PROBE_RES. -/
  probe : Option Word := none
  probeRes : Word := 0
  deriving DecidableEq, Repr

/-- R255: a measured transaction, open or waiting for its fold. -/
structure Txn where
  id : Nat
  n : Nat
  e : Nat
  c : Nat
  target : Nat
  b : Nat
  addr : Nat
  comp : Nat
  p8 : Nat
  lane : Nat
  data : List Byte := []
  gap : Nat := 0
  gapped : Bool := false
  ended : Bool := false
  splitIn : Bool := false
  splitOut : Bool := false
  deriving DecidableEq, Repr

/-- R256: a component accumulator; `m` holds its 48 bytes, byte 0 lowest. -/
structure Comp where
  m : Digest := 0
  bytes : Nat := 0
  txns : Nat := 0
  gap : Nat := 0
  flags : Nat := 0
  target : Nat := 0
  deriving DecidableEq, Repr

/-- R258, R259: an image the boot ROM measured. -/
structure Image where
  version : Nat
  length : Nat
  digest : Digest
  rejected : Bool
  deriving DecidableEq, Repr

/-- R261: a closed record that is not signed: its entries as bytes, and the header fields fixed at C. -/
structure Rec where
  seq : Nat
  tb : Nat
  node : Nat
  count : Nat
  entries : List Byte
  flags : Nat
  head : Digest
  /-- Transactions were folded into it (R263). -/
  folded : Bool
  deriving DecidableEq, Repr

/-- R257: bytes of a Span's hash stream port on their way to a lane, which absorbs one a tick from `start` on. -/
structure HashSeg where
  lane : Nat
  span : Nat
  start : Nat
  count : Nat
  txn : Nat
  deriving DecidableEq, Repr

/-- The measurement unit and the boot record. -/
structure Meas where
  txns : List Txn := []
  nextId : Nat := 0
  segs : List HashSeg := []
  /-- The tick from which each lane is free. -/
  freeAt : Tab Nat := []
  comps : Tab Comp := []
  images : Tab (Option Image) := []
  /-- A monitored deny was recorded in the open record's period. -/
  unenf : Bool := false
  /-- GM_SEQ. -/
  seq : Nat := 0
  prev : Digest := 0
  /-- Header flags of the next record signed. -/
  chainStart : Bool := false
  priorLost : Bool := false
  priorRing : Bool := false
  /-- GM_CTL.CLOSE reads 1, and the tick C that a cascade close fixes. -/
  closePend : Bool := false
  closeAt : Option Nat := none
  closing : Bool := false
  last : Nat := 0
  /-- Closed records that are not signed, oldest first. -/
  queue : List Rec := []
  /-- The signed record whose ring write has not ended. -/
  ring : Option (Nat × List Byte) := none
  /-- The latest signed record that has not been delivered. -/
  held : Option (List Byte) := none
  /-- R263: BR_OPEN, in the backup domain. -/
  brOpen : Bool := false
  deriving DecidableEq, Repr

/-! ## Flash port and option area (15) -/

/-- R150, R400: a FLASHOP handed off; `kind` is 0 PROGRAM, 1 ERASE_SECTOR, 2 BLANK_CHECK, 3 and 4 MARGIN_READ M0 and M1. -/
structure FlashOp where
  n : Nat
  t : Nat
  kind : Nat
  faddr : Nat
  count : Nat
  notify : Nat
  buf : Nat
  desc : Nat
  /-- R170: the Span's resets at hand-off. -/
  epoch : Nat
  deriving DecidableEq, Repr

/-- The flash port and what option load gave. -/
structure FlashPort where
  /-- R398: the running operation first, then those queued behind it. -/
  q : List FlashOp := []
  /-- R25: the write of a boot record runs, and every operation of `q` waits behind it. -/
  ringRuns : Bool := false
  /-- R397: banks marked FAULT. -/
  fault : BitVec 4 := 0
  /-- FP_ECC. -/
  corrected : Nat := 0
  uncorrectable : Nat := 0
  /-- R400, R405: doublewords, by their number in the array, some of whose cells may be neither programmed nor erased with margin. -/
  weak : List Nat := []
  deriving DecidableEq, Repr

/-! ## Debug (16) -/

/-- R438 to R446: the TAP and the debug registers that are not plain storage. -/
structure Dbg where
  /-- R438: the TAP instruction register; IDCODE after a TAP reset, as IEEE 1149.1 has it. -/
  ir : Nat := 1
  /-- R439: the result of the last access: error, word offset and data. -/
  accErr : Bool := false
  accOff : Nat := 0
  accData : Word := 0
  /-- The last value shifted out of the data register: IDCODE, the bypass bit, or what DBGACC captured. -/
  dr : BitVec 52 := 0
  devHalt : Bool := false
  /-- R443: DEV_RESUME has been requested and TB has not left LF mode. -/
  resuming : Bool := false
  /-- R441: the DBG_CMD word of the command that runs, and DBG_CMD_STS. -/
  busy : Option Word := none
  done : Bool := false
  result : Nat := 0
  tregErr : Bool := false
  memErr : Bool := false
  memLo : Word := 0
  memHi : Word := 0
  /-- R445: DBG_XTRIG_OUT is high until this tick. -/
  xtOut : Nat := 0
  deriving DecidableEq, Repr

/-! ## Host interface (10) -/

/-- R283: the six states of a session. -/
inductive SesState where
  | free | ready | opened | closing | faulted | quiescing
  deriving DecidableEq, Repr

/-- R277, R281: a command read in and not answered. -/
structure Cmd where
  opcode : Nat
  slots : Nat := 1
  flags : Nat := 0
  tag : Nat := 0
  plen : Nat := 0
  conduit : Nat := 0
  /-- R279: the header is malformed. -/
  bad : Bool := false
  /-- Bytes 16..63 of the header. -/
  args : List Byte := []
  payload : List Byte := []
  /-- R280: the slots reserved for its response. -/
  need : Nat := 1
  /-- R281: it has started. -/
  started : Bool := false
  /-- R295: words of a CDT_SEND not delivered, each with the last-of-message mark, and the number delivered. -/
  out : List (Word × Bool) := []
  done : Nat := 0
  /-- R383: messages of a node conduit on their way: their words and the ticks they were sent. -/
  sent : List (Nat × Nat) := []
  /-- R296: what a CDT_RECV has taken: bytes, items, the tick of the first, and LOST. -/
  data : List Byte := []
  items : Nat := 0
  first : Nat := 0
  lost : Bool := false
  deriving DecidableEq, Repr

/-- R271, R283: a session. -/
structure Ses where
  st : SesState := .free
  ver : Nat := 0
  feat : Nat := 0
  chead : Nat := 0
  ctail : Nat := 0
  rtail : Nat := 0
  rhead : Nat := 0
  /-- SEQ of its doorbell entry at the last read. -/
  seq : Nat := 0
  /-- R280: slots reserved. -/
  rsv : Nat := 0
  cmds : List Cmd := []
  fault : Nat := 0
  quiesced : Bool := true
  deriving DecidableEq, Repr

/-- R274: a doorbell group. -/
structure Group where
  interval : Nat := 0
  /-- The tick from which the interval counts. -/
  since : Nat := 0
  deriving DecidableEq, Repr

/-- R291: a conduit. -/
structure Conduit where
  bound : Bool := false
  kind : Nat := 0
  dir : Nat := 0
  session : Nat := 0
  node : Nat := 0
  span : Nat := 0
  /-- END, or ENGINE and CH, as CDT_DATA1.UNIT. -/
  unit : Nat := 0
  target : Nat := 0
  /-- R298: decision records that wait, and those dropped since the last one taken. -/
  recs : List (List Byte) := []
  lost : Nat := 0
  /-- R384: the landing store of a node conduit of DIR 1: messages, oldest first. -/
  landing : List (List Word) := []
  /-- R383: credits of a node conduit of DIR 0. -/
  credits : Nat := 16
  deriving DecidableEq, Repr

/-- R300: a notice that waits: its code, RESULT bytes 28..63, and its payload. -/
structure Notice where
  code : Nat
  result : List Byte
  payload : List Byte
  deriving DecidableEq, Repr

/-- The host interface. -/
structure HostIf where
  sess : Tab Ses := []
  groups : Tab Group := []
  cdts : Tab Conduit := []
  notices : List Notice := []
  drops : Nat := 0
  /-- R300: a notice was dropped since the last one written. -/
  noticeLost : Bool := false
  /-- HI_STS.ADMIN_FAULT. -/
  adminFault : Bool := false
  /-- R304: DB_BASE and ST_BASE have been written. -/
  dbSet : Bool := false
  stSet : Bool := false
  /-- R275: groups to be read next, oldest first. -/
  kicks : List Nat := []
  /-- R274: the tick of the last doorbell read. -/
  lastRead : Option Nat := none
  /-- R281: the session last served, and whether the last turn was session 0's. -/
  lastTurn : Nat := 1023
  adminTurn : Bool := false
  /-- R268: the bytes the block has written to host memory, by 64-bit address. -/
  mem : List Host.Cell := []
  /-- R273: interrupt messages sent, by session number, oldest first. -/
  irqs : List Nat := []
  deriving DecidableEq, Repr

/-! ## Cascade (14) -/

/-- R372, R381, R386: a port. -/
structure LPort where
  /-- LP_STS.STATE. -/
  st : Nat := 0
  far : Nat := 0
  lver : Nat := 0
  lo : Nat := 0
  hi : Nat := 0
  crcErr : Nat := 0
  resets : Nat := 0
  drop : Nat := 0
  phy : Bool := false
  /-- R371: LINK[n] reset is in force; SB_ALIVE is released from this tick on. -/
  rstEnd : Option Nat := none
  /-- Ticks of the last frame received and sent, and of the last HELLO sent. -/
  lastRx : Nat := 0
  lastTx : Nat := 0
  lastHello : Option Nat := none
  /-- R374: flags ROOTED and ASSIGNED and the tag of the far side's HELLO. -/
  farHello : Option (Bool × Bool × Nat) := none
  /-- R381: words sent whose credits are out, by class, and words freed and not returned, with the tick of the first. -/
  cred : Tab Nat := []
  freed : Tab Nat := []
  freedAt : Nat := 0
  /-- R382: frames that wait for credits, oldest first, each with the tick it was queued. -/
  tx : List (Frame × Nat) := []
  /-- Frames presented to the PHY, oldest first. -/
  out : List Frame := []
  /-- R386: the tick of the own last pulse and of the far side's last captured one. -/
  pulse : Option Nat := none
  capt : Option Nat := none
  deriving DecidableEq, Repr

/-- R377: a numbering in progress: the port whose answer is awaited, and the next free number. -/
structure Sweep where
  /-- The port that ASSIGN came by, or none on the master. -/
  up : Option Nat
  wait : Nat
  next : Nat
  deriving DecidableEq, Repr

/-- R388 to R390: a cascade Freeze in progress on this node. -/
structure CFrz where
  id : Nat
  drain : Bool
  limitD : Nat
  vlim : Nat
  lead : Nat
  /-- The tick of PREPARE, sent or received. -/
  at0 : Nat
  /-- The port it came by; none on the master. -/
  up : Option Nat
  /-- The own vote: `none` while the check runs. -/
  own : Option Bool := none
  /-- The lowest node that voted no, with its code. -/
  no : Option (Nat × Nat) := none
  /-- Ports whose vote, then whose DRAINED, is missing. -/
  miss : List Nat := []
  /-- R389: the last vote's tick on the master. -/
  lastVote : Nat := 0
  /-- R390: F0, once DRAIN is sent or received. -/
  f0 : Option Nat := none
  /-- The node voted and sent its vote up. -/
  voted : Bool := false
  /-- R390: the own channels are all held. -/
  drained : Bool := false
  failed : Option (Nat × Nat) := none
  lastDrain : Nat := 0
  deriving DecidableEq, Repr

/-- R393: a record that is forwarded through this node's master. -/
structure Fwd where
  node : Nat
  data : List Byte := []
  granted : Bool := false
  deriving DecidableEq, Repr

/-- The cascade node. -/
structure Casc where
  ports : Tab LPort := []
  /-- VXOPT CASCADE_ROLE as loaded. -/
  role : Nat := 0
  master : Bool := false
  rooted : Bool := false
  assigned : Bool := false
  timeOk : Bool := false
  up : Nat := 0
  depth : Nat := 0
  node : Nat := 0
  nodes : Nat := 1
  sweepSeq : Nat := 0
  tag : Nat := 0
  sweeping : Bool := false
  sweepPend : Bool := false
  sweep : Option Sweep := none
  /-- R387: δ of the last two measurements, corrections of the interval left, and ticks between them. -/
  delta : Int := 0
  deltaPrev : Option Int := none
  /-- R387: corrections made since the last measurement: repeats less skips. -/
  corrDone : Int := 0
  repeats : Nat := 0
  skips : Nat := 0
  corrLeft : Int := 0
  corrStep : Nat := 0
  lastCorr : Option Nat := none
  lastMeas : Option Nat := none
  drift : Int := 0
  frz : Option CFrz := none
  cfId : Nat := 0
  cfNode : Nat := 0
  /-- R391: an orphan abort is reported again at the next sweep: the Freeze ID. -/
  orphan : Option Nat := none
  /-- R393: the record that a member holds until the master has taken it. -/
  fwdRec : Option (List Byte) := none
  /-- R393: on the master, the nodes that asked to forward a record. -/
  fwds : List Fwd := []
  deriving DecidableEq, Repr

/-! ## Alarms, backup domain, options and boot (15, 17) -/

/-- R416, R424: an alarm input's filter and status. -/
structure Alarm where
  opened : Bool := false
  start : Nat := 0
  count : Nat := 0
  latched : Bool := false
  pass : Bool := false
  latches : Nat := 0
  /-- R419: the mask that its last latch applied. -/
  mask : BitVec 4 := 0
  deriving DecidableEq, Repr

/-- R421, R422: a wipe in progress: the tick L it counts from, whether it wipes every page, and how many pages. -/
structure Wipe where
  l : Nat
  all : Bool
  pages : Nat
  deriving DecidableEq, Repr

/-- The alarm unit and the key path. -/
structure Alm where
  alarms : Tab Alarm := []
  /-- R424: the alarm under test and the tick at which it started. -/
  test : Option (Nat × Nat) := none
  /-- The last tick, or in SLEEP the LF count, that was sampled. -/
  lastSmp : Option Nat := none
  /-- R421: the wipe that runs. -/
  wipe : Option Wipe := none
  /-- R421: the key registers are zero and the key port accepts no key. -/
  keysOff : Bool := false
  /-- R421, R429: key_erase_o is high until this LF count. -/
  keyErase : Option Nat := none
  deriving DecidableEq, Repr

/-- R425: the backup domain but for the LF counter, the accumulator and BR_OPEN. -/
structure Bkup where
  head : Nat := 0
  ack : Nat := 0
  lost : Nat := 0
  latch : BitVec 8 := 0
  almen : BitVec 8 := 0
  /-- R426: the ring, by position; byte 0 of an entry lowest. -/
  ring : Tab (BitVec 128) := []
  /-- R427: entries on their way into the ring: LF, byte 6, byte 7 and ARG. -/
  queue : List (Nat × Nat × Nat × Nat) := []
  /-- R429: the samples at the last LF edge, and that edge's LF count. -/
  prev : BitVec 8 := 0
  smpAt : Option Nat := none
  deriving DecidableEq, Repr

/-- R408: the option block taken at option load, by its defaults. -/
structure OptBlock where
  role : Nat := 0
  bootImg : Nat := 0
  imgSectors : Nat := 0
  ringBase : Nat := 4032
  rime : BitVec 384 := 0
  digests : Tab Digest := []
  /-- R409: a digest can be right: the block is valid. -/
  valid : Bool := false
  deriving DecidableEq, Repr

/-- The option area's procedures, readout protection and the boot flow. -/
structure OptSt where
  blk : OptBlock := {}
  bad : Bool := false
  blank : Bool := false
  level : Nat := 0
  /-- R412, R413: the change that runs: the new level, and whether it lowers. -/
  changing : Option (Nat × Bool) := none
  /-- R410: the block that an option write programs. -/
  writing : Option (List Byte) := none
  /-- Who asked for it. -/
  writer : Src := .host
  done : Bool := false
  code : Nat := 0
  deriving DecidableEq, Repr

/-- R462, R463: the boot flow. -/
structure Boot where
  hostRdy : Bool := false
  done : Bool := false
  result : Nat := 0
  restarts : Nat := 0
  enfail : Nat := 0
  accepted : BitVec 16 := 0
  entry : Word := 0
  /-- The boot ROM has not run since SPAN[0] was released. -/
  toRun : Bool := false
  /-- R462: the tick of that release, from which the boot ROM counts its 1 ms. -/
  since : Nat := 0
  deriving DecidableEq, Repr

/-! ## The whole machine -/

/-- The state of the block. -/
structure State where
  clk : Clk := {}
  /-- Register words of the setup window that are storage, as the difference from their reset value (Regs.lean). -/
  regs : Tab Word := []
  /-- R311: staged words, in the same form. -/
  staged : Tab Word := []
  /-- R311: dirty units, by the offset of the word or of the banked memory. -/
  dirty : List Nat := []
  /-- R236: the live and the staged bank of the region table. -/
  regionLive : Tab (BitVec 128) := []
  regionStaged : Tab (BitVec 128) := []
  cores : Tab Core := []
  threads : Tab Thread := []
  ports : Tab TPort := []
  ends : Tab End := []
  /-- R18: by target port of the fabric, here a Span, one more than the source Span granted last. -/
  fab : Tab Nat := []
  engines : Tab Engine := []
  chans : Tab Chan := []
  banks : Tab Bank := []
  /-- R369: the tick until which the block pulls a sideband pin of bank 0 low, by pin. -/
  sideband : Tab Nat := []
  timers : Tab Timer := []
  /-- R79: Span memory, address n * 2^20 + a for address a of Span n. -/
  mem : List Host.Cell := []
  /-- R395: the flash array by byte offset, and the option area with pages OA0, OA1, OA2 at 0, 0x2000 and 0x4000. -/
  flash : List Host.Cell := []
  opt : List Host.Cell := []
  fp : FlashPort := {}
  gd : Guard := {}
  meas : Meas := {}
  dbg : Dbg := {}
  host : HostIf := {}
  casc : Casc := {}
  alm : Alm := {}
  bk : Bkup := {}
  optn : OptSt := {}
  boot : Boot := {}
  /-- R433: granules of a memory whose check bits are wrong, by memory ID * 2^32 + granule number: 1 correctable, 2 not. -/
  upset : Tab Nat := []
  frz : Frz := {}
  mor : Mor := {}
  src : Serac := {}
  /-- The answer to the last setup-window read: data, and whether it was an error response. -/
  spRdata : Word := 0
  spErr : Bool := false
  /-- The model's own: how many free values have been drawn. -/
  freeCtr : Nat := 0
  /-- The commands that wait, first in first out. -/
  pending : List Instr := []
  deriving DecidableEq, Repr

/-- Why a command stops with a fault. No meaning of this model raises one: every command of the table has an effect in the
spec, and a command whose event cannot happen leaves the state as it is. -/
inductive Fault where
  /-- Raised by no meaning; stands for a fault of the model's own. Safe: it stops the machine. -/
  | model
  deriving DecidableEq, Repr

/-- Why a command is refused. -/
inductive Refusal where
  /-- Raised by `exec` for a command that has no meaning yet. Safe: it stops the machine. -/
  | notModelled (mnemonic : String)
  deriving DecidableEq, Repr

/-- The block after power-on: BACKUP and MAIN reset asserted and every field at its reset value (R29, R30, R32). -/
def State.reset : State := {}

end Sys2Proof.Machine
end

