-- ==== Sys2Proof/Machine/Ops.lean ====
section
/-! DEFINITION. The named operations every meaning is written in: reading and writing registers, units and memory, the state of
a Span, refusals (R310), Moraine offers (R357) and raising events (R120). -/
namespace Sys2Proof.Machine

/-! ## Register words -/

/-- The live register word at a window offset. -/
def State.reg (s : State) (off : Nat) : Word := tabGet 0 s.regs off ^^^ regReset off

/-- The live register word at `off` becomes `v`. -/
def State.setReg (s : State) (off : Nat) (v : Word) : State :=
  { s with regs := tabSet 0 s.regs off (v ^^^ regReset off) }

/-- R311: the staged word at a window offset. -/
def State.stg (s : State) (off : Nat) : Word := tabGet 0 s.staged off ^^^ regReset off

/-- The staged word at `off` becomes `v`. -/
def State.setStg (s : State) (off : Nat) (v : Word) : State :=
  { s with staged := tabSet 0 s.staged off (v ^^^ regReset off) }

/-- R36, R37: the window offset of a Span register. -/
def spanOff (n off : Nat) : Nat := 0x100000 + n * 0x10000 + off

/-- The window offset of a channel's registers. -/
def chnOff (n e c : Nat) : Nat := spanOff n (0x3000 + e * 0x100 + 0x40 + c * 0x30)

/-- A field of the live word at `off`. -/
def State.fld (s : State) (off lo len : Nat) : Nat := bits (s.reg off) lo len

/-- One bit of the live word at `off`. -/
def State.bit (s : State) (off i : Nat) : Bool := (s.reg off).getLsbD i

/-! ## Units -/

def State.core (s : State) (n : Nat) : Core := tabGet {} s.cores n
def State.setCore (s : State) (n : Nat) (c : Core) : State := { s with cores := tabSet {} s.cores n c }
def State.thr (s : State) (g : Nat) : Thread := tabGet {} s.threads g
def State.setThr (s : State) (g : Nat) (t : Thread) : State := { s with threads := tabSet {} s.threads g t }
/-- The timed port p of Span n is number n * 32 + p. -/
def State.port (s : State) (k : Nat) : TPort := tabGet {} s.ports k
def State.setPort (s : State) (k : Nat) (p : TPort) : State := { s with ports := tabSet {} s.ports k p }
/-- The channel end e of Span n is number n * 128 + e. -/
def State.chEnd (s : State) (k : Nat) : End := tabGet {} s.ends k
def State.setEnd (s : State) (k : Nat) (e : End) : State := { s with ends := tabSet {} s.ends k e }
/-- The engine e of Span n is number n * 12 + e. -/
def State.engine (s : State) (k : Nat) : Engine := tabGet {} s.engines k
def State.setEngine (s : State) (k : Nat) (e : Engine) : State := { s with engines := tabSet {} s.engines k e }
/-- The channel c of engine number k is number k * 4 + c. -/
def State.chan (s : State) (k : Nat) : Chan := tabGet {} s.chans k
def State.setChan (s : State) (k : Nat) (c : Chan) : State := { s with chans := tabSet {} s.chans k c }
def State.bank (s : State) (n : Nat) : Bank := tabGet {} s.banks n
def State.setBank (s : State) (n : Nat) (b : Bank) : State := { s with banks := tabSet {} s.banks n b }
/-- The timer channel k of Span n is number n * 8 + k. -/
def State.timer (s : State) (k : Nat) : Timer := tabGet {} s.timers k
def State.setTimer (s : State) (k : Nat) (t : Timer) : State := { s with timers := tabSet {} s.timers k t }

/-- SPAN_EN.EN[n]. -/
def State.spanEn (s : State) (n : Nat) : Bool := s.bit 0x10 n

/-- R29: SPAN[n] reset is asserted, by itself or by MAIN. -/
def State.inRst (s : State) (n : Nat) : Bool := s.clk.mainRst || (s.core n).inRst

/-- R33, R34, R443: the block is in RUN: MAIN is out of reset, no SLEEP is granted, TB is not in LF mode and no whole-device halt is
in force. -/
def State.running (s : State) : Bool := !s.clk.mainRst && !s.clk.lfMode && !s.clk.sleeping && !s.dbg.devHalt

/-- R40, R34, R443: the core of Span n completes rounds. -/
def State.coreRuns (s : State) (n : Nat) : Bool :=
  s.running && s.clk.awaits == 0 && !(s.core n).inRst && (s.spanEn n || (n == 0 && s.clk.bootExc) || (s.core n).stopping)

/-- R34, R40: instructions issue in Span n; while SP0.T0, the only thread that can, runs the boot flow, what it issues is that flow (R462). -/
def State.issues (s : State) (n : Nat) : Bool :=
  s.running && s.clk.awaits == 0 && !(n == 0 && s.boot.toRun) && !(s.core n).inRst && (s.spanEn n || (n == 0 && s.clk.bootExc)) && !(s.core n).stopping

/-- R35, R39: the Clove engines and timed queues of Span n are clocked. -/
def State.pinLogic (s : State) (n : Nat) : Bool := s.running && !(s.core n).inRst && s.spanEn n

/-- R327: an object as REASON_DETAIL and ORIGIN code it. -/
def objWord (kind span index : Nat) : Word := BitVec.ofNat 32 (kind * 2 ^ 28 + span % 16 * 2 ^ 16 + index % 2 ^ 16)

/-- A free value, a new one each time (the spec leaves it open). -/
def State.free (s : State) : Word := Config.freeValue s.freeCtr

/-- The free value has been drawn. -/
def State.drawn (s : State) : State := { s with freeCtr := s.freeCtr + 1 }

/-- R46, R347: the TB copy of a core lags TB by at most 3 ticks and never goes back; by how much is free. Gives the copy and the
state after it was read. -/
def State.seeTb (s : State) (n : Nat) : Nat × State :=
  let c := s.core n
  let v := min s.clk.tb (max (s.clk.tb - bits s.free 0 2) c.tbSeen)
  (v, (s.setCore n { c with tbSeen := v }).drawn)

/-- R463, R413: the system port answers every target access with an error until HOST_RDY, and while readout protection is lowered. -/
def State.portShut (s : State) (src : Src) : Bool :=
  src == .host && (!s.boot.hostRdy || (match s.optn.changing with
    | some (_, lower) => lower
    | none => false))

/-- An access to the setup window by a requester: in MAIN reset, and at a shut system port, it gets an error response (R41, R463). -/
def State.via (s : State) (src : Src) (k : State → State) : State :=
  if s.clk.mainRst || s.portShut src then { s with spErr := true } else k s

/-- R31: a setup access to a Span whose reset is asserted gets an error response and changes nothing. -/
def State.gate (s : State) (n : Nat) (k : State → State) : State := if s.inRst n then { s with spErr := true } else k s

/-! ## Moraine offers -/

/-- R354 and the tables of R355: the severity of a trigger code; INFO where none of the others lists it. -/
def morSev (code : Nat) : Nat :=
  if code ∈ [0x0201, 0x0202, 0x0203, 0x0901] then 0
  else if code ∈ [0x0103, 0x0105, 0x0107, 0x0108, 0x0109, 0x010A, 0x010B, 0x0205, 0x0206, 0x0207, 0x0208, 0x0209, 0x020C,
    0x0301, 0x0402, 0x0405, 0x0602, 0x0704, 0x0705, 0x0806, 0x0809, 0x080C, 0x080E, 0x0904] then 2
  else if code ∈ [0x0007, 0x0204, 0x020A, 0x020B, 0x020D, 0x0403, 0x0404, 0x0406, 0x0409, 0x0502, 0x0601, 0x0603, 0x0802,
    0x0803, 0x0804, 0x0805, 0x080A, 0x080B, 0x0902, 0x0905, 0x0906] then 3
  else if code ∈ [0x0006, 0x0407, 0x0408, 0x0605, 0x0606, 0x0607, 0x0701, 0x0703] then 4
  else 1

/-- R353: an entry that is never suppressed and never dropped. -/
def morPrivileged (code : Nat) : Bool := morSev code == 4 || code / 256 == 0

/-- R175, R353: an entry that is always written: a privileged one, SERAC_CYCLE or SERAC_DEP. -/
def morSure (code : Nat) : Bool := morPrivileged code || code == 0x020A || code == 0x020B

/-- R355: a code that some unit raises; every other code is reserved. -/
def morKnown (code : Nat) : Bool :=
  decide (0 < code % 256) &&
    match code / 256 with
    | 0 => decide (code % 256 ≤ 7)
    | 1 => decide (code % 256 ≤ 11)
    | 2 => decide (code % 256 ≤ 13)
    | 3 => decide (code % 256 ≤ 1)
    | 4 => decide (code % 256 ≤ 9)
    | 5 => decide (code % 256 ≤ 2)
    | 6 => decide (code % 256 ≤ 7)
    | 7 => decide (code % 256 ≤ 5)
    | 8 => decide (code % 256 ≤ 14)
    | 9 => decide (code % 256 ≤ 6)
    | _ => false

/-- R352: the payload of a code not marked fixed, without its snapshot. -/
def morPayload (origin a0 a1 a2 : Word) : Digest :=
  BitVec.ofNat 384 (origin.toNat + a0.toNat * 2 ^ 32 + a1.toNat * 2 ^ 64 + a2.toNat * 2 ^ 96)

/-- R363: a count since MAIN reset and since the last DROPS entry. -/
def morCount (m : Mor) (k : Nat) : Mor :=
  { m with
    drop := tabSet 0 m.drop k (satInc 0xFFFFFFFF (tabGet 0 m.drop k))
    since := tabSet 0 m.since k (satInc 0xFFFFFFFF (tabGet 0 m.since k)) }

/-- R357: the tokens spent of a code's bucket at tick `tb`, after the refills since the last one taken into account. -/
def morSpent (m : Mor) (trg : Word) (code tb : Nat) : Nat :=
  let p := 2 ^ bits trg 8 6
  tabGet 0 m.spent code - (tb / p - tabGet 0 m.refill code / p)

/-- R361: an entry is refused by a full queue: one that is always written waits at its source, another is dropped and counted. -/
def morFull (m : Mor) (e : MorEntry) : Mor :=
  if morSure e.code then { m with waiting := m.waiting ++ [e] } else morCount m e.sev

/-- R357, R361: a unit offers an entry at tick `tb`; `trg` is MOR_TRG of its code. -/
def morAdmit (m : Mor) (trg : Word) (tb : Nat) (e : MorEntry) : Mor :=
  if 32 ≤ m.queue.length then morFull m e
  else if morSure e.code then { m with queue := m.queue ++ [e] }
  else
    let burst := bits trg 16 8
    let spent := morSpent m trg e.code tb
    let supp := tabGet 0 m.supp e.code
    let m1 := { m with spent := tabSet 0 m.spent e.code spent, refill := tabSet 0 m.refill e.code tb }
    if trg.getLsbD 31 = false || (burst ≠ 0 && burst ≤ spent) then
      morCount { m1 with supp := tabSet 0 m.supp e.code (satInc 255 supp) } 5
    else
      { m1 with
        queue := m.queue ++ [{ e with supp := supp }]
        spent := if burst = 0 then m1.spent else tabSet 0 m1.spent e.code (spent + 1)
        supp := tabSet 0 m.supp e.code 0 }

/-- The offset of MOR_TRG[c]. -/
def morTrgOff (code : Nat) : Nat := 0x44000 + code % 4096 * 4

/-- R357: offers an entry to the recorder. Nothing is recorded while MAIN reset is asserted (R364). -/
def State.offerEntry (s : State) (e : MorEntry) : State :=
  if s.clk.mainRst then s
  else { s with mor := morAdmit s.mor (s.reg (morTrgOff e.code)) s.clk.tb { e with sev := morSev e.code } }

/-- R352: offers an entry of a code not marked fixed, triggered now. -/
def State.offer (s : State) (code : Nat) (origin a0 a1 a2 : Word) : State :=
  s.offerEntry { tb := s.clk.tb, code := code, payload := morPayload origin a0 a1 a2 }

/-- R352: offers an entry triggered at a tick of its own. -/
def State.offerAt (s : State) (tb code : Nat) (origin a0 a1 a2 : Word) : State :=
  s.offerEntry { tb := tb, code := code, payload := morPayload origin a0 a1 a2 }

/-! ## Debug commands (R441) -/

/-- The unit that a DBG_CMD word names, as ORIGIN codes it (R327). -/
def dbgUnit (v : Word) : Word :=
  let op := bits v 28 4
  let n := bits v 24 4
  if op ∈ [1, 2, 3] then objWord 1 n (bits v 20 4)
  else if op = 4 then objWord 4 n (bits v 11 7)
  else if op ∈ [5, 6, 7] then objWord 3 n (bits v 20 4 * 4 + bits v 18 2)
  else 0

/-- R441: the command that runs ends with a RESULT. -/
def State.dbgEnd (s : State) (result : Nat) : State := match s.dbg.busy with
  | none => s
  | some v => ({ s with dbg := { s.dbg with busy := none, done := true, result := result } }).offer 0x0903 (dbgUnit v) v
      (BitVec.ofNat 32 result) 0

/-- R442: a thread's STEP ends where one runs. -/
def State.endStep (s : State) (g : Nat) : State :=
  if (s.thr g).stepping then (s.setThr g { s.thr g with stepping := false }).dbgEnd 0 else s

/-! ## Refusals -/

/-- R313: a source as FRZ_LOCK.HOLDER codes it. -/
def srcCode : Src → Nat
  | .host => 0x200
  | .tap => 0x300
  | .thread g => 0x100 + g.val

/-- R329: the requester whose snapshot registers a source reads. -/
def srcReq : Src → Nat
  | .host => 0
  | .tap => 1
  | .thread g => 2 + g.val / 16

/-- REASON after one more refusal (R310). -/
def reasonWord (src : Src) (old : Word) (code : Nat) : Word :=
  let thr := match src with
    | .thread g => 2 ^ 24 + g.val * 2 ^ 16
    | _ => 0
  BitVec.ofNat 32 ((bits old 25 7 + 1) % 128 * 2 ^ 25 + thr + code % 65536)

/-- R310: a refusal writes REASON and REASON_DETAIL in one update, adds 1 to SEQ and records both at INFO. -/
def State.refuse (s : State) (src : Src) (off code : Nat) (detail : Word) : State :=
  let r := reasonWord src s.frz.reason code
  let s1 := { s with frz := { s.frz with reason := r, reasonDetail := detail } }
  s1.offer 0x0101 detail r (BitVec.ofNat 32 off) 0

/-- A check result: `none` passes; a code and the object it names refuse. -/
abbrev Check := Option (Nat × Word)

/-- The first failure of a list of checks in their order (R309). -/
def firstFail : List Check → Check
  | [] => none
  | some f :: _ => some f
  | none :: r => firstFail r

/-- A check of one condition: the code and detail where `bad` holds. -/
def failIf (bad : Bool) (code : Nat) (detail : Word) : Check := if bad then some (code, detail) else none

/-! ## Memory -/

/-- The bytes from `a` on as a little-endian number. -/
def readNat (rd : Nat → Byte) : Nat → Nat → Nat
  | 0, _ => 0
  | k + 1, a => (rd a).toNat + 256 * readNat rd k (a + 1)

/-- Writes the `k` low bytes of a number from `a` on. -/
def writeNat (d : Byte) : Nat → Nat → Nat → List Host.Cell → List Host.Cell
  | 0, _, _, m => m
  | k + 1, a, v, m => writeNat d k (a + 1) (v / 256) (tabSet d m a (BitVec.ofNat 8 v))

/-- The number of a Span-memory byte. -/
def memKey (n a : Nat) : Nat := n * 2 ^ 20 + a % 2 ^ 20

/-- The store-buffer entry that holds granule `g`, if any (R84). -/
def sbFind : List SbEntry → Nat → Option SbEntry
  | [], _ => none
  | e :: r, g => if e.gran = g then some e else sbFind r g

/-- The byte a load of Span n sees: the store buffers first, then the bank (R84). -/
def State.memByte (s : State) (n a : Nat) : Byte :=
  match sbFind (s.core n).sb (a % 2 ^ 20 / 8) with
  | some e => if e.mask.getLsbD (a % 8) then BitVec.ofNat 8 (e.data.toNat >>> (8 * (a % 8)))
    else tabGet 0 s.mem (memKey n a)
  | none => tabGet 0 s.mem (memKey n a)

/-- `len` bytes of the memory of Span n. -/
def State.memRead (s : State) (n a len : Nat) : Nat := readNat (s.memByte n) len a

/-- The mask of bytes `a .. a + len - 1` in their granule. -/
def byteMask (a len : Nat) : BitVec 8 := BitVec.ofNat 8 ((2 ^ len - 1) <<< (a % 8))

/-- A list without its elements that satisfy `p`. -/
def dropIf {α : Type} (p : α → Bool) : List α → List α
  | [] => []
  | a :: r => if p a then dropIf p r else a :: dropIf p r

/-- An entry without the bytes that a younger store has written; gone once it holds none. -/
def sbTrim (g : Nat) (mask : BitVec 8) : List SbEntry → List SbEntry
  | [] => []
  | e :: r =>
    if e.gran = g then
      let m := e.mask &&& ~~~mask
      if m = 0 then dropIf (fun q => q.gran == g) r else { e with mask := m } :: r
    else e :: sbTrim g mask r

/-- The address a byte-run write of memory starts at, within its Span's memory. -/
def State.memWriteBytes (s : State) (n : Nat) : Nat → Nat → Nat → State
  | 0, _, _ => s
  | k + 1, a, v =>
    let s1 := { s with mem := tabSet 0 s.mem (memKey n a) (BitVec.ofNat 8 v) }
    let c := s1.core n
    State.memWriteBytes (s1.setCore n { c with sb := sbTrim (a % 2 ^ 20 / 8) (byteMask a 1) c.sb }) n k (a + 1) (v / 256)

/-! ### Granule errors (R432 to R435) -/

/-- The number of granule `g` of memory `id` in the table of upset granules. -/
def upKey (id g : Nat) : Nat := id * 2 ^ 32 + g

/-- The granule number, within memory 0, of an address of Span n. -/
def spanGran (n a : Nat) : Nat := n * 2 ^ 17 + a % 2 ^ 20 / 8

/-- R435: a count of ECC_CNT goes up; `ue` names the field. -/
def eccCount (ue : Bool) (w : Word) : Word :=
  if ue then setBits w 16 16 (satInc 0xFFFF (bits w 16 16)) else setBits w 0 16 (satInc 0xFFFF (bits w 0 16))

/-- R435: an error met by a read of memory `id` is counted and recorded; the first uncorrectable one is captured. The syndrome is a
free value. -/
def State.eccNote (s : State) (ue : Bool) (id span addr : Nat) : State :=
  let off := 0x80100 + id * 4
  let syn := bits s.free 0 8
  let s1 := s.drawn.setReg off (eccCount ue (s.reg off))
  let s2 := if ue && !s1.bit 0x80120 31 then
    (s1.setReg 0x80120 (BitVec.ofNat 32 (2 ^ 31 + id * 2 ^ 28 + span * 2 ^ 24 + syn))).setReg 0x80124 (BitVec.ofNat 32 addr)
    else s1
  s2.offer (if ue then 0x0902 else 0x0901) (objWord 0 span 0) (BitVec.ofNat 32 id) (BitVec.ofNat 32 addr) (BitVec.ofNat 32 syn)

/-- R433: granule `g` of memory `id` is read: a corrected error is mended, an uncorrectable one stays. Gives whether the read is
good. -/
def State.readGran (s : State) (id g span addr : Nat) : Bool × State :=
  match tabGet 0 s.upset (upKey id g) with
  | 0 => (true, s)
  | 1 => (true, ({ s with upset := tabSet 0 s.upset (upKey id g) 0 }).eccNote false id span addr)
  | _ => (false, s.eccNote true id span addr)

/-- R433: the granules of `k` bytes at `a` of Span n are read. -/
def State.readGrans (s : State) (n a k : Nat) : Bool × State :=
  let (g1, s1) := s.readGran 0 (spanGran n a) n (a / 8 * 8)
  if 8 < a % 8 + k then
    let (g2, s2) := s1.readGran 0 (spanGran n (a + 8)) n (a / 8 * 8 + 8)
    (g1 && g2, s2)
  else (g1, s1)

/-- R433: `k` bytes at `a` of Span n hold an uncorrectable granule. -/
def State.badGrans (s : State) (n a k : Nat) : Bool :=
  tabGet 0 s.upset (upKey 0 (spanGran n a)) == 2 || (decide (8 < a % 8 + k) && tabGet 0 s.upset (upKey 0 (spanGran n (a + 8))) == 2)

/-- R434: a granule of Span n is written: whole, it takes a fresh code; in part, it is read first, and an uncorrectable one stays
poisoned. -/
def State.wroteGran (s : State) (n a k : Nat) : State :=
  if 8 ≤ k then { s with upset := tabSet 0 s.upset (upKey 0 (spanGran n a)) 0 }
  else (s.readGran 0 (spanGran n a) n (a / 8 * 8)).2

/-- The upset granules of memory `id` whose numbers `p` selects, with their marks. -/
def State.upsetsOf (s : State) (id : Nat) (p : Nat → Bool) : Tab Nat :=
  (s.upset.filter fun x => x.1 / 2 ^ 32 == id && p (x.1 % 2 ^ 32)).map fun x => (x.1 % 2 ^ 32, x.2)

/-- R434: the granules of memory `id` whose numbers `p` selects are written whole. -/
def State.freshGrans (s : State) (id : Nat) (p : Nat → Bool) : State :=
  { s with upset := tabDrop (fun k => k / 2 ^ 32 == id && p (k % 2 ^ 32)) s.upset }

/-- A write of Span memory with its granule code (R434). -/
def State.memWrite (s : State) (n k a v : Nat) : State :=
  let s1 := (s.memWriteBytes n k a v).wroteGran n a k
  if k = 16 then s1.wroteGran n (a + 8) 8 else s1

/-- The data of a store-buffer entry with some bytes replaced. -/
def sbMerge (e : SbEntry) (a len v : Nat) : SbEntry :=
  { e with mask := e.mask ||| byteMask a len, data := setBits e.data (8 * (a % 8)) (8 * len) v }

/-- Merges a store into the entry that holds its granule (R83). -/
def sbPut (g a len v : Nat) : List SbEntry → List SbEntry
  | [] => []
  | e :: r => if e.gran = g then sbMerge e a len v :: r else e :: sbPut g a len v r

/-- The entries of one lane. -/
def sbLane (lane : Nat) : List SbEntry → Nat
  | [] => 0
  | e :: r => b2n (e.lane == lane) + sbLane lane r

/-- R395, R106: the flash byte at an offset of the 32 MiB array. -/
def State.flashByte (s : State) (a : Nat) : Byte := tabGet 0xFF s.flash (a % 2 ^ 25)

/-- The option-area byte at an offset: OA0, OA1 and OA2 in turn, 8 KiB each. -/
def State.optByte (s : State) (a : Nat) : Byte := tabGet 0xFF s.opt a

/-- R92: the line of a flash or boot-ROM address. -/
def lineOf (a : Nat) : Nat := a / 32

/-- R398: the banks an operation names. -/
def FlashOp.touches (o : FlashOp) (b : Nat) : Bool :=
  let last := o.faddr + (if o.kind = 1 then 8192 else 8 * o.count) - 1
  decide (o.faddr / 2 ^ 23 ≤ b) && decide (b ≤ last / 2 ^ 23)

/-- R264: the flash offset of a ring slot. -/
def State.ringSlot (s : State) (k : Nat) : Nat := (s.optn.blk.ringBase + k % 64) * 8192

/-- R264: the bank that the signed record's ring write names. -/
def State.ringBank (s : State) : Option Nat := s.meas.ring.map fun x => s.ringSlot x.1 / 2 ^ 23

/-- R25, R398: the FLASHOP that the port runs. -/
def State.flashRuns (s : State) : Option FlashOp := if s.fp.ringRuns then none else s.fp.q.head?

/-- R398: bank `b` is held busy by the running operation. -/
def State.bankBusy (s : State) (b : Nat) : Bool :=
  if s.fp.ringRuns then s.ringBank == some b
  else match s.flashRuns with
    | some o => o.touches b
    | none => false

/-- R106: what an address is. -/
inductive Area where
  | span | flash | rom | window | device | none
  deriving DecidableEq, Repr

/-- R106: the range an address lies in. -/
def areaOf (a : Nat) : Area :=
  if a < 0x100000 then .span
  else if 0x10000000 ≤ a ∧ a < 0x12000000 then .flash
  else if 0x1F000000 ≤ a ∧ a < 0x1F008000 then .rom
  else if 0x20000000 ≤ a ∧ a < 0x20010000 then .window
  else if 0x30000000 ≤ a ∧ a < 0x30200000 then .device
  else .none

/-- The byte that a load or fetch of Span n finds in Span memory, flash or the boot ROM. -/
def State.codeByte (s : State) (n a : Nat) : Byte :=
  match areaOf a with
  | .span => s.memByte n a
  | .flash => s.flashByte (a - 0x10000000)
  | .rom => Config.bootRom (a - 0x1F000000)
  | _ => 0

/-- The window offset that a setup-window address of Span n names (R106). -/
def windowOff (n a : Nat) : Nat := if areaOf a = .window then spanOff n (a - 0x20000000) else a - 0x30000000

/-- The flash bank of a 32-byte line, if it lies in flash. -/
def lineBank (l : Nat) : Option Nat := if areaOf (l * 32) = .flash then some ((l * 32 - 0x10000000) / 2 ^ 23) else none

/-- R397: the line lies in a bank marked FAULT. -/
def State.lineFault (s : State) (l : Nat) : Bool := match lineBank l with
  | some b => s.fp.fault.getLsbD b
  | none => false

/-- R96: the line lies in a bank that a FLASHOP holds busy. -/
def State.lineBusy (s : State) (l : Nat) : Bool := match lineBank l with
  | some b => s.bankBusy b
  | none => false

/-! ## Events of a thread -/

/-- Adds a pending event, keeping the list in order of vector and detail (R100, R204, R344). -/
def pendAdd (v d : Nat) : List (Nat × Nat) → List (Nat × Nat)
  | [] => [(v, d)]
  | (v', d') :: r =>
    if v = v' ∧ d = d' then (v', d') :: r
    else if v < v' ∨ (v = v' ∧ d < d') then (v, d) :: (v', d') :: r
    else (v', d') :: pendAdd v d r

/-- R120: the vector is enabled in EVEN. -/
def Thread.enabled (t : Thread) (v : Nat) : Bool := t.even.getLsbD (v - 0x10)

/-- R120, R155: an event becomes pending in a thread; an enabled one wakes a wakeable IDLE. A squash or late event sets T at
once (R67, R104). -/
def Thread.raise (t : Thread) (v d : Nat) : Thread :=
  let t := { t with pend := pendAdd v d t.pend, fl := if v = 0x16 ∨ v = 0x17 then t.fl ||| 0x20 else t.fl }
  if t.st = .idle ∧ t.wakeable ∧ t.enabled v then { t with st := t.prev, wakeable := false } else t

/-- Raises an event in global thread `g`. -/
def State.raiseEv (s : State) (g v d : Nat) : State := s.setThr g ((s.thr g).raise v d)

/-- A list without its first element equal to `a`. -/
def dropFirst {α : Type} [DecidableEq α] (a : α) : List α → List α
  | [] => []
  | b :: r => if b = a then r else b :: dropFirst a r

end Sys2Proof.Machine
end

