-- ==== Sys2Proof/Machine/ChanBase.lean ====
section
/-! DEFINITION. Channel ends: their setup words, release (R162), the movement of words between ends of one node (R163 to R169) and
the CHANNEL event (R168). -/
namespace Sys2Proof.Machine

/-- The offset of CHE_CFG of an end; CHE_PEER follows it. -/
def cheOff (n e : Nat) : Nat := spanOff n (0x1000 + e * 0x20)

/-- The ORIGIN of a channel end (R327). -/
def endObj (n e : Nat) : Word := objWord 4 n e

/-- KIND of a CHE_CFG word (R160). -/
def cheKind (cfg : Word) : Nat := bits cfg 27 3

/-- An end enabled in a direction, `out` for output. -/
def State.endOn (s : State) (n e : Nat) (out : Bool) : Bool := s.bit (cheOff n e) 31 && s.bit (cheOff n e) 30 == out

/-- R148: an end is an enabled end of thread t in a direction. -/
def State.endMine (s : State) (n t e : Nat) (out : Bool) : Bool := s.endOn n e out && s.fld (cheOff n e) 20 4 == t

/-- R166, R169: an input end takes words from output end e of Span n of this node. -/
def State.accepts (s : State) (ps pe n e : Nat) : Bool :=
  let cfg := s.reg (cheOff ps pe)
  let peer := s.reg (cheOff ps pe + 4)
  s.endOn ps pe false && cheKind cfg == 0 && !peer.getLsbD 31 && bits peer 15 4 == n && bits peer 0 12 == e

/-- R168: the CHANNEL event of an end whose EVT is 1. -/
def State.chanEvent (s : State) (n e : Nat) : State :=
  let cfg := s.reg (cheOff n e)
  if cfg.getLsbD 31 && cfg.getLsbD 26 then s.raiseEv (n * 16 + bits cfg 20 4) 0x10 e else s

/-- R168: the owner of an end waits on it in CIN or WAITE. -/
def State.ownerWaits (s : State) (n e : Nat) : Bool :=
  let th := s.thr (n * 16 + s.fld (cheOff n e) 20 4)
  (th.wait == 1 || th.wait == 2) && th.waitOpnd == e

/-- R168: the first word of a message has become readable: a CHANNEL event, unless the owner waits for it. -/
def State.readyEvent (s : State) (n e : Nat) : State := if s.ownerWaits n e then s else s.chanEvent n e

/-- R168: the first words that have become readable by round `r` at end `k` raise their event. -/
def State.endDue (s : State) (r k : Nat) : State :=
  let x := s.chEnd k
  if x.evq.any fun q => Nat.ble q r then
    (s.setEnd k { x with evq := dropIf (fun q => Nat.ble q r) x.evq }).readyEvent (k / 128) (k % 128)
  else s

/-- R168: the same at every end of Span n. -/
def State.chanDue (s : State) (n r : Nat) : State :=
  s.ends.foldl (fun s x => if x.1 / 128 = n then s.endDue r x.1 else s) s

/-- A word enters the buffer of an input end, readable from round `r`; the first word of a message raises its event then (R165, R168). -/
def State.bufPut (s : State) (n e : Nat) (w : Word) (last : Bool) (r : Nat) : State :=
  let k := n * 128 + e
  let x := s.chEnd k
  let s1 := s.setEnd k { x with
    buf := x.buf ++ [(w, last, r)], mid := !last, evq := if x.mid then x.evq else x.evq ++ [r] }
  s1.endDue (s.core n).round k

/-- Words discarded at an end are counted in DROPS. -/
def State.addDrops (s : State) (k w : Nat) : State :=
  let e := s.chEnd k
  s.setEnd k { e with drops := satAdd 0xFFFF e.drops w }

/-- R166, R169: words of an output end are lost: DROPS, PEER_ERR and its event. -/
def State.peerLost (s : State) (n e w : Nat) : State :=
  let k := n * 128 + e
  let x := s.chEnd k
  (s.setEnd k { x with drops := satAdd 0xFFFF x.drops w, peerErr := true }).chanEvent n e

/-- R170: completion words that waited for the claim go as messages of one word each while the store has room. -/
def End.flushCompl (e : End) (round kind : Nat) (peer : Word) : End :=
  if e.staged ≠ [] then e
  else
    let k := min e.compl.length (16 - e.store.length)
    { e with
      store := e.store ++ (e.compl.take k).map fun w => ⟨w, true, round, kind, peer⟩
      compl := e.compl.drop k, msgs := (e.msgs + k) % 65536 }

/-- The store of an output end without its oldest word; the room may serve a completion word (R170). -/
def State.popStore (s : State) (n e : Nat) : State :=
  let k := n * 128 + e
  let x := s.chEnd k
  s.setEnd k ({ x with store := x.store.drop 1 }.flushCompl ((s.core n).round + 2) (cheKind (s.reg (cheOff n e)))
    (s.reg (cheOff n e + 4)))

/-- R163 to R165, R169: the oldest released word of an output end moves to an input end of this node, or is discarded there; `none`
where it waits. -/
def State.moveOne (s : State) (n e : Nat) : Option State :=
  let k := n * 128 + e
  match (s.chEnd k).store with
  | [] => none
  | w :: _ =>
    let ps := bits w.peer 15 4
    let pe := bits w.peer 0 7
    if w.kind ≠ 0 ∨ w.peer.getLsbD 31 then none
    else if !s.accepts ps pe n e then some ((s.popStore n e).peerLost n e 1)
    else
      let t := s.chEnd (ps * 128 + pe)
      if 8 ≤ t.buf.length then none
      else
        let r := if ps = n then max w.round t.freed else (s.core ps).round
        some ((s.popStore n e).bufPut ps pe w.w w.last r)

/-- R18, R163: the Span that the oldest released word of an end is to reach over the device fabric, where it can leave. -/
def State.fabricHead (s : State) (k : Nat) : Option Nat := match (s.chEnd k).store with
  | [] => none
  | w :: _ =>
    let ps := bits w.peer 15 4
    let pe := bits w.peer 0 7
    if w.kind ≠ 0 ∨ w.peer.getLsbD 31 ∨ ps = k / 128 then none
    else if s.accepts ps pe (k / 128) (k % 128) && Nat.ble 8 (s.chEnd (ps * 128 + pe)).buf.length then none
    else some ps

/-- As many words for ends of the same Span as can move, at most `f`. -/
def moveWords (n e : Nat) : Nat → State → State
  | 0, s => s
  | f + 1, s =>
    if (s.fabricHead (n * 128 + e)).isSome then s
    else match s.moveOne n e with
    | some s1 => moveWords n e f s1
    | none => s

/-- R165: the words of one transfer of the fabric to Span m, at most `f`. -/
def moveFabric (n e m : Nat) : Nat → State → State
  | 0, s => s
  | f + 1, s =>
    if s.fabricHead (n * 128 + e) ≠ some m then s
    else match s.moveOne n e with
    | some s1 => moveFabric n e m f s1
    | none => s

/-- R18: Span `p` waits at the port of Span m. -/
def State.fabricWaits (s : State) (m p : Nat) : Bool := s.ends.any fun x => x.1 / 128 == p && s.fabricHead x.1 == some m

/-- R18: the Span that the port of Span m grants next, round-robin among those that wait. -/
def State.fabricNext (s : State) (m : Nat) : Option Nat :=
  let o := tabGet 0 s.fab m
  (findBelow 16 fun i => s.fabricWaits m ((o + i) % 16)).map fun i => (o + i) % 16

/-- R18, R165: an end's words cross the fabric, four to a transfer, where its Span has the turn at the target port. -/
def fabricMove (n e : Nat) (s : State) : State := match s.fabricHead (n * 128 + e) with
  | none => s
  | some m => if s.fabricNext m = some n then moveFabric n e m 4 { s with fab := tabSet 0 s.fab m (n + 1) } else s

/-- The words of a message as a store holds them. -/
def storeWords (round kind : Nat) (peer : Word) : List Word → List StoreWord
  | [] => []
  | w :: r => ⟨w, r.isEmpty, round, kind, peer⟩ :: storeWords round kind peer r

/-- R162, R165: the staged words of an output end are released; the first round in which they can be read is `r`. -/
def State.release (s : State) (n e r : Nat) : State :=
  let k := n * 128 + e
  let x := s.chEnd k
  let kind := cheKind (s.reg (cheOff n e))
  let peer := s.reg (cheOff n e + 4)
  s.setEnd k ({ x with
    staged := [], store := x.store ++ storeWords r kind peer x.staged, msgs := (x.msgs + 1) % 65536 }.flushCompl r kind peer)

/-- R170: a completion word is sent on an output end at the core's round. -/
def State.postCompl (s : State) (n e : Nat) (w : Word) : State :=
  let k := n * 128 + e
  let x := s.chEnd k
  s.setEnd k ({ x with compl := x.compl ++ [w] }.flushCompl ((s.core n).round + 2) (cheKind (s.reg (cheOff n e)))
    (s.reg (cheOff n e + 4)))

/-- R165: the words that an output end of the same Span has for an input end move at fixed rounds: they are moved before the end is
looked at. -/
def State.fillEnd (s : State) (n e : Nat) : State :=
  let peer := s.reg (cheOff n e + 4)
  if cheKind (s.reg (cheOff n e)) = 0 ∧ bits peer 15 4 = n ∧ peer.getLsbD 31 = false then
    moveWords n (bits peer 0 7) 16 s
  else s

end Sys2Proof.Machine
end

