-- ==== Sys2Proof/Machine/Flags.lean ====
section
/-! DEFINITION. Every result and flag computation of the Strand instruction set: conditions (R115), binary arithmetic (R133),
shifts and multiply (R134), packed decimal (R135), CRC (R138). -/
namespace Sys2Proof.Machine

/-- R103: the flags as a value of FL: T H V N Z C from bit 5 down. -/
def mkFlags (t h v n z c : Bool) : BitVec 6 :=
  BitVec.ofNat 6 (b2n t * 32 + b2n h * 16 + b2n v * 8 + b2n n * 4 + b2n z * 2 + b2n c)

def flC (fl : BitVec 6) : Bool := fl.getLsbD 0
def flZ (fl : BitVec 6) : Bool := fl.getLsbD 1
def flN (fl : BitVec 6) : Bool := fl.getLsbD 2
def flV (fl : BitVec 6) : Bool := fl.getLsbD 3
def flH (fl : BitVec 6) : Bool := fl.getLsbD 4
def flT (fl : BitVec 6) : Bool := fl.getLsbD 5

/-- Masks of flag groups: N Z; N Z C; N Z C V; N Z C V H; T. -/
def mNZ : BitVec 6 := 0b000110
def mNZC : BitVec 6 := 0b000111
def mNZCV : BitVec 6 := 0b001111
def mNZCVH : BitVec 6 := 0b011111
def mNZV : BitVec 6 := 0b001110
def mT : BitVec 6 := 0b100000

/-- R115: the conditions; NV is never true (R116). -/
def condTrue (cond : Nat) (fl : BitVec 6) : Bool :=
  match cond with
  | 0 => true
  | 1 => flZ fl
  | 2 => !flZ fl
  | 3 => flC fl
  | 4 => !flC fl
  | 5 => flN fl
  | 6 => !flN fl
  | 7 => flV fl
  | 8 => !flV fl
  | 9 => flC fl && !flZ fl
  | 10 => !flC fl || flZ fl
  | 11 => flN fl == flV fl
  | 12 => flN fl != flV fl
  | 13 => flT fl
  | 14 => !flT fl
  | _ => false

/-- A result with the flags it forms. -/
structure Res where
  val : Word
  fl : BitVec 6
  deriving DecidableEq, Repr

/-- R133: N and Z of a result. -/
def flNZ (r : Word) : BitVec 6 := mkFlags false false false r.msb (r == 0) false

/-- R133: the add forms. -/
def addForm (s b : Word) (cin : Bool) : Res :=
  let full := s.toNat + b.toNat + b2n cin
  let r := BitVec.ofNat 32 full
  ⟨r, mkFlags false (decide (16 ≤ s.toNat % 16 + b.toNat % 16 + b2n cin)) (s.msb == b.msb && r.msb != s.msb) r.msb (r == 0)
    (decide (2 ^ 32 ≤ full))⟩

/-- R133: the sub forms; `bin` is the borrow in. -/
def subForm (s b : Word) (bin : Bool) : Res :=
  let r := s - b - BitVec.ofNat 32 (b2n bin)
  ⟨r, mkFlags false (decide (s.toNat % 16 < b.toNat % 16 + b2n bin)) (s.msb != b.msb && r.msb != s.msb) r.msb (r == 0)
    (decide (b.toNat + b2n bin ≤ s.toNat))⟩

/-- R132: AND, OR, XOR, BIT and NOT set N and Z of their result. -/
def logicForm (r : Word) : Res := ⟨r, flNZ r⟩

/-- R134: the kinds of shift. -/
inductive ShKind where
  | shl | shr | asr | ror
  deriving DecidableEq, Repr

/-- R134: a shift of `a` by `n` bits, n in 0..31; C is the last bit shifted or rotated out, 0 for n = 0. -/
def shiftForm (k : ShKind) (a : Word) (n : Nat) : Res :=
  let r := match k with
    | .shl => a <<< n
    | .shr => a >>> n
    | .asr => a.sshiftRight n
    | .ror => a.rotateRight n
  let c := match k with
    | .shl => decide (n ≠ 0) && a.getLsbD (32 - n)
    | _ => decide (n ≠ 0) && a.getLsbD (n - 1)
  ⟨r, mkFlags false false false r.msb (r == 0) c⟩

/-- R134: the unsigned 64-bit product. -/
def mulProd (a b : Word) : DWord := BitVec.ofNat 64 (a.toNat * b.toNat)

/-- R134: the flags of MUL: N := X[31], Z := (A:X = 0), C := (X ≠ 0). -/
def mulFlags (p : DWord) : BitVec 6 := mkFlags false false false p.msb (p == 0) (decide (2 ^ 32 ≤ p.toNat))

/-- R135: DADD over the digits from `i` on; the result digits, the carry, H and the mark of an invalid digit. -/
def daddDigits (a b : Word) : Nat → Nat → Bool → Nat × Bool × Bool × Bool
  | 0, _, c => (0, c, false, false)
  | k + 1, i, c =>
    let x := bits a (4 * i) 4
    let y := bits b (4 * i) 4
    let s := x + y + b2n c
    let c' := decide (9 < s)
    let d := if c' then (s - 10) % 16 else s
    let (r, co, _, inv) := daddDigits a b k (i + 1) c'
    (d + 16 * r, co, c', inv || decide (9 < x) || decide (9 < y))

/-- R135: DADD. -/
def daddForm (a b : Word) (c : Bool) : Res :=
  let (r, co, h, inv) := daddDigits a b 8 0 c
  let v := BitVec.ofNat 32 r
  ⟨v, mkFlags false h inv v.msb (v == 0) co⟩

/-- R135: DSUB over the digits from `i` on, with borrow `w`. -/
def dsubDigits (a b : Word) : Nat → Nat → Bool → Nat × Bool × Bool × Bool
  | 0, _, w => (0, w, false, false)
  | k + 1, i, w =>
    let x := bits a (4 * i) 4
    let y := bits b (4 * i) 4
    let w' := decide (x < y + b2n w)
    let d := if w' then (x + 10 + 16 - y - b2n w) % 16 else x - y - b2n w
    let (r, wo, _, inv) := dsubDigits a b k (i + 1) w'
    (d + 16 * r, wo, w', inv || decide (9 < x) || decide (9 < y))

/-- R135: DSUB; the borrow in is 1 − C. -/
def dsubForm (a b : Word) (c : Bool) : Res :=
  let (r, wo, h, inv) := dsubDigits a b 8 0 (!c)
  let v := BitVec.ofNat 32 r
  ⟨v, mkFlags false h inv v.msb (v == 0) (!wo)⟩

/-- R135: a word with a digit above 9. -/
def badDigit (a : Word) : Bool := (List.range 8).any fun i => decide (9 < bits a (4 * i) 4)

/-- R135: DADJ; it leaves C and H, which the caller masks out. -/
def dadjForm (a : Word) (c : Bool) : Res :=
  let r := if c then a else (dsubForm 0 a true).val
  ⟨r, mkFlags false false (badDigit a) (!c) (r == 0) false⟩

/-- R138: the width of a generator in implicit form: one above its highest set bit; 0 for no generator. -/
def crcWidth (poly : Word) : Nat := if poly = 0 then 0 else poly.toNat.log2 + 1

/-- R138: bits 0 .. w − 1 of `g` in reverse order. -/
def revBits : Nat → Nat → Nat
  | 0, _ => 0
  | w + 1, g => (g % 2) * 2 ^ w + revBits w (g / 2)

/-- R138: the generator without x^w. -/
def crcGen (poly : Word) : Nat := (poly.toNat * 2 + 1) % 2 ^ crcWidth poly

/-- R138: one bit folded into a state of `w` bits. -/
def crcBit (w g : Nat) (refl : Bool) (a : Nat) (d : Bool) : Nat :=
  if refl then
    let r := a / 2
    if (a % 2 == 1) != d then r ^^^ revBits w g else r
  else
    let r := a * 2 % 2 ^ w
    if (a / 2 ^ (w - 1) % 2 == 1) != d then r ^^^ g else r

/-- R138: the data bits folded in their order into a state reduced to its low `w` bits. -/
def crcFold (poly : Word) (refl : Bool) (state : Word) (data : List Bool) : Word :=
  let w := crcWidth poly
  BitVec.ofNat 32 (data.foldl (crcBit w (crcGen poly) refl) (state.toNat % 2 ^ w))

/-- The bits `k − 1` down to 0 of a word. -/
def bitsDown (v : Word) : Nat → List Bool
  | 0 => []
  | k + 1 => v.getLsbD k :: bitsDown v k

/-- The bits 0 up to `k − 1` of a word. -/
def bitsUp (v : Word) (k : Nat) : List Bool := (bitsDown v k).reverse

/-- R137: the parity of a word. -/
def parity (v : Word) : Bool := (bitsDown v 32).foldl (· != ·) false

/-- R137: the bits of a word in reverse order. -/
def bitRev (v : Word) : Word := BitVec.ofNat 32 (revBits 32 v.toNat)

end Sys2Proof.Machine
end

