-- ==== Sys2Proof/Machine/Operands.lean ====
section
/-! DEFINITION. Decoding a Strand instruction (R109 to R116), its operand and address forms, and the traps they raise. -/
namespace Sys2Proof.Machine

/-- Sign extension of the low `k` bits of a number to a word. -/
def sext (k x : Nat) : Word :=
  let y := x % 2 ^ k
  if 2 ^ (k - 1) ≤ y then BitVec.ofInt 32 ((y : Int) - 2 ^ k) else BitVec.ofNat 32 y

/-- R109, R126: the mnemonics whose immediate is zero-extended. -/
def zextImm (m : Mn) : Bool := m == .andd || m == .orr || m == .xorr || m == .bit

/-- The stores (R110). -/
def isStore (m : Mn) : Bool := m == .st || m == .stx || m == .sty

/-- An instruction without operand fields. -/
def plain (mn : Mn) (len cond : Nat) (ill : Bool) (h0 : BitVec 16) : SDec :=
  { mn, len, cond, ill, mode := .none, size := 4, d := 0, f := 0, g := 0, h0 }

/-- R110, R112, R113, R126, R131: the encodings of a memory-format instruction that trap ILLEGAL in DEC. `shf` names SHF, whose
size field is its kind. -/
def memIll (mn : Mn) (shf : Bool) (mode : Mode) (size d : Nat) : Bool :=
  (!shf && size == 8 && !(mn == .ld || mn == .st)) || (!shf && (mode == .imm || mode == .reg) && size != 4)
    || (mode == .imm && isStore mn) || (mode == .win && decide (2 ^ 14 ≤ d % 2 ^ 16))
    || (mode == .reg && decide (2 < d % 2 ^ 16)) || (mn == .ldx && (mode == .xp || mode == .xy))
    || (mn == .ldy && (mode == .yp || mode == .xy)) || ((mn == .dadd || mn == .dsub) && size != 4)

/-- R109: the displacement or immediate that D stands for. -/
def memD (mn : Mn) (mode : Mode) (d : Nat) : Word :=
  match mode with
  | .imm => if zextImm mn then BitVec.ofNat 32 (d % 2 ^ 16) else sext 16 d
  | .win | .reg => BitVec.ofNat 32 (d % 2 ^ 16)
  | _ => sext 16 d

/-- A memory-format instruction. -/
def memDec (mn : Mn) (len cond : Nat) (shf : Bool) (mode : Mode) (size d : Nat) (h0 : BitVec 16) : SDec :=
  { mn, len, cond, ill := memIll mn shf mode size d, mode, size := if shf then 4 else size, d := memD mn mode d, f := 0,
    g := 0, h0 }

/-- R112: the ops of short memory. -/
def shortMem : List Mn :=
  [.ld, .st, .add, .sub, .andd, .orr, .xorr, .cmp, .ldx, .ldy, .stx, .sty, .adc, .sbc, .cpx, .cpy]

/-- R112: the conditions of the 16-bit frame. -/
def shortCond (c : Nat) : Nat := if c = 3 then 0xD else c

/-- R112: group 0b00, short memory. -/
def decShortMem (h : BitVec 16) : SDec :=
  let mn := nth .reserved shortMem (bits h 8 4)
  let cond := shortCond (bits h 12 2)
  if h.getLsbD 7 then
    let u := bits h 0 5
    match bits h 5 2 with
    | 0 => memDec mn 2 cond false .win 4 (u * 4) h
    | 1 => memDec mn 2 cond false .xd 4 (u * 4) h
    | 2 => memDec mn 2 cond false .yd 4 (u * 4) h
    | _ => memDec mn 2 cond false .reg 4 u h
  else
    let i := bits h 0 7
    let d := if zextImm mn then i else (sext 7 i).toNat % 2 ^ 16
    memDec mn 2 cond false .imm 4 d h

/-- R112: group 0b01, short branch. -/
def decShortBr (h : BitVec 16) : SDec :=
  let cond := shortCond (bits h 12 2)
  let off := sext 10 (bits h 0 10)
  let mk (mn : Mn) : SDec := { plain mn 2 cond false h with d := off + off }
  match bits h 10 2 with
  | 0 => mk .br
  | 1 => mk .call
  | 2 => mk .dbx
  | _ => plain .reserved 2 cond true h

/-- R112: group 0b10, short system; an operand field that the table does not name must be 0. -/
def decShortSys (h : BitVec 16) : SDec :=
  let cond := shortCond (bits h 12 2)
  let o := bits h 0 6
  let none (mn : Mn) : SDec := plain mn 2 cond (o != 0) h
  let slot (mn : Mn) : SDec := { plain mn 2 cond (decide (8 ≤ o)) h with f := o % 8 }
  let reg (mn : Mn) : SDec := { plain mn 2 cond (decide (3 ≤ o)) h with f := o % 4 }
  match bits h 6 6 with
  | 0x00 => none .nop
  | 0x01 => none .ret
  | 0x02 => none .rete
  | 0x03 => none .tbrd
  | 0x04 => none .waitt
  | 0x05 => none .sett
  | 0x06 => none .clrt
  | 0x07 => none .tqev
  | 0x08 => slot .tqsr
  | 0x09 => slot .tqgc
  | 0x0A => reg .inc
  | 0x0B => reg .dec
  | 0x0C =>
    let dst := o / 16
    let src := o % 4
    { plain .mov 2 cond (o / 4 % 4 != 0 || dst == 3 || src == 3 || dst == src) h with f := dst, g := src }
  | 0x0D => reg .jmpr
  | 0x0E => reg .callr
  | 0x0F => none .brk
  | 0x11 => none .neg
  | 0x12 => none .nott
  | 0x14 => none .dadj
  | _ => plain .reserved 2 cond true h

/-- R113: majors 0x00..0x15 of format M. -/
def majors : List Mn :=
  [.ld, .ldx, .ldy, .lds, .st, .stx, .sty, .add, .adc, .sub, .sbc, .andd, .orr, .xorr, .cmp, .cpx, .cpy, .bit, .shl, .dadd,
   .dsub, .mul]

/-- R109: the mode field. -/
def modeOf (k : Nat) : Mode := nth .none [.imm, .win, .xd, .yd, .xp, .yp, .xy, .reg] k

/-- R113: format M. -/
def decM (maj cond w : Nat) (h0 : BitVec 16) : SDec :=
  let mode := modeOf (w / 2 ^ 16 % 8)
  let sz := w / 2 ^ 19 % 4
  if maj = 0x12 then memDec (nth .reserved [.shl, .shr, .asr, .ror] sz) 4 cond true mode 4 (w % 2 ^ 16) h0
  else memDec (nth .reserved majors maj) 4 cond false mode (2 ^ sz) (w % 2 ^ 16) h0

/-- R105: the special registers, and whether MTS may write them. -/
def srWritable (k : Nat) : Option Bool :=
  if k ∈ [0, 1, 2, 3, 4, 5, 6, 7, 8, 9, 10, 12, 13, 14, 16, 17, 18, 0x14, 0x15, 0x16, 0x19, 0x1A] then some true
  else if k ∈ [0x17, 0x18] then some false else none

/-- R113: format S, the system group. -/
def decSys (cond w : Nat) (h0 : BitVec 16) : SDec :=
  let o := w % 2 ^ 15
  let mk (mn : Mn) (ill : Bool) : SDec := plain mn 4 cond ill h0
  match w / 2 ^ 15 % 64 with
  | 0x00 =>
    { mk .mfs (o / 256 % 32 != 0 || o / 2 ^ 13 == 3 || srWritable (o % 256) == none) with f := o / 2 ^ 13, g := o % 256 }
  | 0x01 =>
    { mk .mts (o / 256 % 32 != 0 || o / 2 ^ 13 == 3 || srWritable (o % 256) != some true) with
      f := o / 2 ^ 13, g := o % 256 }
  | 0x02 => mk .wtld (o != 0)
  | 0x03 => { mk .wtadd false with d := sext 15 o }
  | 0x04 => { mk .wtarm (decide (2 ≤ o)) with f := o % 2 }
  | 0x05 =>
    match o % 8 with
    | 0 => mk .flashProgram (o / 8 != 0)
    | 1 => mk .flashErase (o / 8 != 0)
    | 2 => mk .flashBlank (o / 8 != 0)
    | 3 => mk .flashM0 (o / 8 != 0)
    | 4 => mk .flashM1 (o / 8 != 0)
    | _ => { mk .flashProgram true with g := 1 }
  | 0x06 => mk .idle (o != 0)
  | 0x07 => { mk .lclr (decide (3 ≤ o)) with f := o % 4 }
  | _ => mk .reserved true

/-- R111 to R114: a 32-bit instruction. -/
def dec32 (h0 h1 : BitVec 16) : SDec :=
  let w := h0.toNat * 2 ^ 16 + h1.toNat
  let cond := w / 2 ^ 26 % 16
  let maj := w / 2 ^ 21 % 32
  let mk (mn : Mn) (ill : Bool) : SDec := plain mn 4 cond ill h0
  if maj ≤ 0x15 then decM maj cond w h0
  else match maj with
  | 0x16 =>
    let r := w / 2 ^ 19 % 4
    { mk (if w / 2 ^ 18 % 2 = 1 then .lih else .lil) (r == 3 || w / 2 ^ 16 % 4 != 0) with
      f := r, d := BitVec.ofNat 32 (w % 2 ^ 16) }
  | 0x17 => { mk .br false with d := sext 21 w + sext 21 w }
  | 0x18 => { mk .call false with d := sext 21 w + sext 21 w }
  | 0x19 =>
    let lv := w / 2 ^ 19 % 4
    { mk .loop (lv == 3) with
      f := lv, g := w / 2 ^ 18 % 2 * 2 ^ 10 + w / 2 ^ 8 % 2 ^ 10
      d := BitVec.ofNat 32 (if w % 256 = 0 then 256 else w % 256) }
  | 0x1A =>
    let d := w % 2 ^ 16
    let (mode, ill) := match w / 2 ^ 16 % 4 with
      | 0 => (Mode.win, decide (2 ^ 14 ≤ d))
      | 1 => (Mode.xd, false)
      | 2 => (Mode.yd, false)
      | _ => (Mode.xp, d != 0)
    { mk .tq ill with f := w / 2 ^ 18 % 8, mode := mode, size := 16, d := if mode = .win then BitVec.ofNat 32 d else sext 16 d }
  | 0x1B =>
    let c := w / 2 ^ 14 % 128
    match w / 2 ^ 11 % 8 with
    | 0 => { mk .cin (w % 2 ^ 11 != 0) with f := c }
    | 1 => { mk .cout (w % 2 ^ 11 != 0) with f := c }
    | 2 => { mk .coute (w % 2 ^ 11 != 0) with f := c }
    | 3 => { mk .waite (w % 2 ^ 11 != 0) with f := c }
    | 4 => { mk .cend (w % 2 ^ 11 != 0) with f := c }
    | _ => mk .reserved true
  | 0x1C => decSys cond (w % 2 ^ 21) h0
  | 0x1D => { mk .xop (w / 2 ^ 16 % 2 == 1) with f := w / 2 ^ 17 % 16, d := sext 16 w }
  | 0x1E =>
    match w / 2 ^ 18 % 8 with
    | 0 => mk .crcs (w % 2 ^ 18 != 0)
    | 1 => mk .par (w % 2 ^ 18 != 0)
    | 2 => mk .brev (w % 2 ^ 18 != 0)
    | _ => mk .reserved true
  | _ => mk .reserved true

/-- R111: a first halfword with [15:14] = 0b11 begins a 32-bit instruction. -/
def isLong (h0 : BitVec 16) : Bool := bits h0 14 2 == 3

/-- R116: a word with condition NV never traps: BR is the hint, which no condition stops, every other word a no-op. -/
def nvDec (d : SDec) : SDec :=
  if d.cond = 15 then
    if d.mn = .br then { d with mn := .nvHint, cond := 0, ill := false } else { d with mn := .nop, ill := false }
  else d

/-- Decodes the instruction at two halfwords; total on any bits. -/
def strandDecode (h0 h1 : BitVec 16) : SDec :=
  if isLong h0 then nvDec (dec32 h0 h1)
  else match bits h0 14 2 with
    | 0 => decShortMem h0
    | 1 => decShortBr h0
    | _ => decShortSys h0

/-! ## Operand addresses -/

/-- R78, R101: the register words that round `r` goes by: those of the first change it comes before, or the present ones. -/
def viewRegs (r : Nat) (now : Tab Word) : List (Nat × Tab Word) → Tab Word
  | [] => now
  | (k, old) :: l => if r < k then old else viewRegs r now l

/-- R78, R101: the state as the instructions issued in round `r` of Span n find its slot table, classes and windows. -/
def State.roundView (s : State) (n r : Nat) : State := { s with regs := viewRegs r s.regs (s.core n).before }

/-- R81: the base of thread t's bank window, if it holds one. -/
def State.dwin (s : State) (n t : Nat) : Option Nat :=
  let w := s.reg (spanOff n (0x80 + 4 * t))
  if w.getLsbD 31 then some (t % 8 * 0x20000 + bits w 0 3 * 0x4000) else none

/-- R153: the live class of thread t is deterministic. -/
def State.det (s : State) (n t : Nat) : Bool := (s.reg (spanOff n (0x400 + 0x40 * t))).getLsbD 27

/-- The window holds the whole of an access. -/
def inWin (base a len : Nat) : Bool := decide (base ≤ a) && decide (a + len ≤ base + 0x4000)

/-- A trap: its vector and detail (R120). -/
abbrev Trap := Nat × Nat

/-- R106, R107, R81, R397, R120: the trap of a data access in ADR, if it raises one: by its range first; of the causes that hold there,
the lowest vector. -/
def accessTrap (s : State) (n t : Nat) (st : TState) (store : Bool) (a len : Nat) : Option Trap :=
  let priv := if st == .operate then some (2, 0xFF) else none
  let window := if s.det n t then some (3, a % 2 ^ 20) else none
  let align (bad : Bool) := if bad then some (5, a % 2 ^ 20) else none
  let access (bad : Bool) := if bad then some (6, a % 2 ^ 24) else none
  match areaOf a with
  | .none => access true
  | .flash => window <|> align (decide (8 < a % 8 + len)) <|>
      access (store || (s.lineFault (lineOf a) && !(s.core n).lbuf.contains (lineOf a)))
  | .rom => priv <|> window <|> align (decide (8 < a % 8 + len)) <|> access store
  | .window | .device => priv <|> window <|> align (len != 4 || a % 4 != 0)
  | .span =>
    let inside := match s.dwin n t with
      | some b => inWin b a len
      | none => false
    (if inside then none else window) <|> align ((len == 16 && a % 8 != 0) || (Nat.ble len 8 && decide (8 < a % 8 + len)))

/-- R146, R150, R124: the trap of an access that must lie in Span memory and be `al`-byte aligned. -/
def spanTrap (s : State) (n t : Nat) (st : TState) (store : Bool) (a len al : Nat) : Option Trap :=
  if 0x100000 < a + len then some (6, a % 2 ^ 24)
  else accessTrap s n t st store a len <|> (if a % al ≠ 0 then some (5, a % 2 ^ 20) else none)

/-- R109: the address a memory mode forms from the registers read in DEC; `none` for WIN without a bank window. -/
def modeAddr (s : State) (n t : Nat) (d : SDec) (x y : Word) : Option Nat :=
  match d.mode with
  | .win => (s.dwin n t).map (· + d.d.toNat)
  | .xd => some (x + d.d).toNat
  | .yd => some (y + d.d).toNat
  | .xp => some x.toNat
  | .yp => some y.toNat
  | .xy => some (x + y + d.d).toNat
  | _ => some 0

/-- R109: the write of a post-modify mode. -/
def postMod (d : SDec) (x y : Word) : List LandW :=
  match d.mode with
  | .xp => [.x (x + d.d)]
  | .yp => [.y (y + d.d)]
  | _ => []

/-- A register by its selector: 0 A, 1 X, 2 Y. -/
def selReg (k : Nat) (a x y : Word) : Word := if k = 0 then a else if k = 1 then x else y

/-- A write of the register a selector names. -/
def landReg (k : Nat) (v : Word) : LandW := if k = 0 then .a v else if k = 1 then .x v else .y v

/-- The instruction reads its operand from memory. -/
def SDec.usesMem (d : SDec) : Bool := d.mode != .none && d.mode != .imm && d.mode != .reg

end Sys2Proof.Machine
end

