-- ==== Sys2Proof/Machine/PinBase.lean ====
section
/-! DEFINITION. What a pin shows (R213 to R216, R219, R338), the keeper (R223) and writes of the latch pairs. -/
namespace Sys2Proof.Machine

/-! ## Owners (R54, R229, R328), over the register words `rd` of a live state or of one a commit would make live -/

/-- R54: the enabled timed port that holds pin p. -/
def portAt (rd : Nat → Word) (n p : Nat) : Option Nat :=
  findBelow 32 fun k =>
    let c := rd (spanOff n (0x200 + 8 * k))
    c.getLsbD 31 && Nat.ble (bits c 0 5) p && Nat.ble p (bits c 0 5 + bits c 8 3)

/-- R54: the enabled timed port of a window slot of thread t. -/
def slotPortAt (rd : Nat → Word) (n t w : Nat) : Option Nat :=
  findBelow 32 fun p =>
    let c := rd (spanOff n (0x200 + 8 * p))
    c.getLsbD 31 && bits c 20 4 == t && bits c 16 3 == w

/-- R186: pin p lies in the group or an OE mask of channel c of engine e. -/
def chanHolds (rd : Nat → Word) (n e c p : Nat) : Bool :=
  let o := chnOff n e c
  let b := bits (rd o) 8 5
  (Nat.ble b p && Nat.ble p (b + bits (rd o) 0 3)) || (rd (o + 8)).getLsbD p || (rd (o + 0xC)).getLsbD p

/-- R229: the enabled channel of engine e that holds pin p. -/
def chanAt (rd : Nat → Word) (n e p : Nat) : Option Nat :=
  findBelow 4 fun c => (rd (chnOff n e c)).getLsbD 31 && chanHolds rd n e c p

/-- R339: the enabled timer channel whose capture source is pin p. -/
def captureAt (rd : Nat → Word) (n p : Nat) : Option Nat :=
  findBelow 8 fun k =>
    let c := rd (spanOff n (0x7000 + k * 0x20))
    c.getLsbD 31 && bits c 11 2 != 3 && bits c 9 2 != 0 && bits c 13 3 + 8 * bits c 11 2 == p

/-- R213: the function of a pin. -/
def funcAt (rd : Nat → Word) (n p : Nat) : Nat := bits (rd (spanOff n (0x7400 + p * 0x10))) 0 4

/-- R229, R328: the owner of pin p as an object, `none` where it has none. A fixed source is coded as OWN_PIN codes it, with no kind. -/
def ownerAt (rd : Nat → Word) (n p : Nat) : Option Word :=
  let f := funcAt rd n p
  if f = 0 then (portAt rd n p).map (objWord 2 n)
  else if f ≤ 12 then (chanAt rd n (f - 1) p).map fun c => objWord 3 n ((f - 1) * 4 + c)
  else if f = 13 then (captureAt rd n p).map (objWord 5 n)
  else some 0

/-- R213: the live function of a pin. -/
def State.funcOf (s : State) (n p : Nat) : Nat := s.fld (spanOff n (0x7400 + p * 0x10)) 0 4

/-- A mask of the pins of a bank that satisfy `f`. -/
def pinMask (f : Nat → Bool) : BitVec 24 := iter (fun p m => if f p then m ||| (1#24 <<< p) else m) 24 0

/-- The pins of a bank at a function. -/
def State.funcMask (s : State) (n f : Nat) : BitVec 24 := pinMask fun p => s.funcOf n p == f

/-- R218: the pins of a bank whose input buffer is on. -/
def State.ieMask (s : State) (n : Nat) : BitVec 24 := pinMask fun p => s.bit (spanOff n (0x7404 + p * 0x10)) 0

/-- R339, R341: pin p is the capture source of an enabled timer channel. -/
def State.captureOf (s : State) (n p : Nat) : Option Nat := captureAt s.reg n p

/-- R338: what timer channel k drives on a pin at function 13. -/
def State.timerDrive (s : State) (n p : Nat) : Bool × Bool :=
  let k := p % 8
  let c := s.reg (spanOff n (0x7000 + k * 0x20))
  ((s.timer (n * 8 + k)).out, c.getLsbD 31 && bits c 24 4 != 0 && (s.captureOf n p).isNone)

/-- R214, R369, R445: what the block drives on a pin at function 14. -/
def State.sidebandDrive (s : State) (p : Nat) : Bool × Bool :=
  if p < 8 then (false, decide (s.clk.tb < tabGet 0 s.sideband p))
  else if p = 9 then (decide (s.clk.tb < s.dbg.xtOut), true)
  else if p = 10 then (s.dbg.devHalt, true)
  else (false, false)

/-- R213, R215, R219: the value and enable at a pad. What the surroundings drive through a pass-through is free. -/
def State.padOut (s : State) (n p : Nat) : Bool × Bool :=
  let b := s.bank n
  let f := s.funcOf n p
  let (v, e) :=
    if f = 0 then (b.gv.getLsbD p, b.ge.getLsbD p)
    else if f ≤ 12 then (b.cv.getLsbD p, b.ce.getLsbD p)
    else if f = 13 then s.timerDrive n p
    else if f = 14 then s.sidebandDrive p
    else ((Config.passThrough s.freeCtr n).1.getLsbD p, (Config.passThrough s.freeCtr n).2.getLsbD p)
  if s.bit (spanOff n (0x7404 + p * 0x10)) 6 then (false, e && !v) else (v, e)

/-- R218: the levels of a bank's pads where no command carries them. -/
def State.padIn (s : State) (n : Nat) : BitVec 24 := Config.padLevels s.freeCtr n &&& s.ieMask n

/-- R215, R223: pt_di_o of a pin: its pad input while it is passed through, else the sample at which its path is frozen. -/
def State.ptDi (s : State) (n p : Nat) : Bool := if s.funcOf n p = 15 then (s.padIn n).getLsbD p else (s.bank n).held.getLsbD p

/-- R223: the function paths of the pins that `off` names are frozen at their sample. -/
def State.freezePaths (s : State) (n : Nat) (off : BitVec 24) : State :=
  if off = 0 then s
  else
    let b := s.bank n
    (s.setBank n { b with held := (b.held &&& ~~~off) ||| (s.padIn n &&& off) }).drawn

/-- R223: the pins of a bank that leave a function with a function path between two states. -/
def leftPath (before after : State) (n : Nat) : BitVec 24 :=
  pinMask fun p => decide (13 ≤ before.funcOf n p) && before.funcOf n p != after.funcOf n p

/-- R223: the number of bank cycles a keeper holds. -/
def keepTicks : Nat := 64

/-- R223: after a change of the pads of a bank: a pin that was driven and is not any more is kept until `t + 64`, and the keeper of
a pin that is driven lets go. `before` is the state before the change. -/
def keepPin (before : State) (n t p : Nat) (s : State) : State :=
  let (v, e) := before.padOut n p
  let (_, e') := s.padOut n p
  let b := s.bank n
  if e' then s.setBank n { b with keep := tabDel p b.keep }
  else if e then s.setBank n { b with
    keep := tabSet 0 b.keep p (t + keepTicks)
    keepLvl := setBits b.keepLvl p 1 (b2n v) }
  else s

/-- The keepers of a bank after a change made at tick `t`. -/
def State.keepAfter (s before : State) (n t : Nat) : State := iter (keepPin before n t) 24 s

/-- The keepers of the pins that are driven now let go (R223). -/
def State.letGo (s : State) (n : Nat) : State :=
  iter (fun p s => if (s.padOut n p).2 then
    let b := s.bank n
    s.setBank n { b with keep := tabDel p b.keep } else s) 24 s

/-- A pair of masks written into a latch. -/
def latchPut (old mask val : BitVec 24) : BitVec 24 := (old &&& ~~~mask) ||| (val &&& mask)

/-- R186, R216: engine e writes the Clove pairs of pins at its own function. -/
def State.writeClove (s : State) (n e : Nat) (vm v em en : BitVec 24) : State :=
  let f := s.funcMask n (e + 1)
  let b := s.bank n
  (s.setBank n { b with cv := latchPut b.cv (vm &&& f) v, ce := latchPut b.ce (em &&& f) en }).letGo n

/-- R216, R217: a write of the GPIO pairs. -/
def State.writeGpio (s : State) (n : Nat) (vm v em en : BitVec 24) : State :=
  let b := s.bank n
  (s.setBank n { b with gv := latchPut b.gv vm v, ge := latchPut b.ge em en }).letGo n

/-- R54: pin p of a bank belongs to an enabled timed port. -/
def State.portOfPin (s : State) (n p : Nat) : Option Nat := portAt s.reg n p

/-- The pins of a bank that enabled timed ports own. -/
def State.portPins (s : State) (n : Nat) : BitVec 24 := pinMask fun p => (s.portOfPin n p).isSome

end Sys2Proof.Machine
end

