-- ==== Sys2Proof/Machine/Issue.lean ====
section
/-! DEFINITION. The Strand core's rounds: own slots (R71 to R76), arbitration (R82, R83), landing writes (R86 to R88), fetch
(R89 to R94), the order in which the threads of a round act, latching a trap or event (R97, R121), and the shared frame of every
Strand instruction.

A Strand command stands for the beat that issues in round `r` and passes DEC in r + 2, and makes its MEM access of round r + 4; the
rounds of a core are gone through one by one, and in each the threads act in an order that serves every bank as R82 has it
(DESIGN CHOICE, log entry 42). -/
namespace Sys2Proof.Machine

/-! ## Rounds and own slots -/

/-- R75: the lane in which a slot-table row holds thread t. -/
def laneOf (row : Word) (t : Nat) : Option Nat :=
  findBelow 4 fun l => row.getLsbD (8 * l + 7) && bits row (8 * l) 4 == t

/-- R71, R78: the slot-table row of a round of Span n. -/
def State.row (s : State) (n r : Nat) : Word := (s.roundView n r).reg (spanOff n (0x800 + r % 64 * 4))

/-- R76: a thread's weight. -/
def State.weight (s : State) (n t : Nat) : Nat :=
  countBelow (fun r => (laneOf (s.reg (spanOff n (0x800 + r * 4))) t).isSome) 64

/-- R71: the thread that holds lane `l` of a round. -/
def State.slotThr (s : State) (n r l : Nat) : Option Nat :=
  let row := s.row n r
  if row.getLsbD (8 * l + 7) then some (bits row (8 * l) 4) else none

/-- The ORIGIN of a thread (R327). -/
def thrObj (n t : Nat) : Word := objWord 1 n t

/-- The first own slot of thread t at or after round `r`, searched over `fuel` rounds: its round and lane. -/
def ownSlot (s : State) (n t : Nat) : Nat → Nat → Option (Nat × Nat)
  | 0, _ => none
  | f + 1, r =>
    match laneOf (s.row n r) t with
    | some l => some (r, l)
    | none => ownSlot s n t f (r + 1)

/-- The next own slot of thread t at or after round `r`. -/
def State.nextSlot (s : State) (n t r : Nat) : Option (Nat × Nat) := ownSlot s n t 64 r

/-! ## Landing writes -/

/-- R86: puts a write behind those that land in its round or earlier. -/
def landIns (r : Nat) (w : LandW) : List (Nat × LandW) → List (Nat × LandW)
  | [] => [(r, w)]
  | (q, u) :: l => if r < q then (r, w) :: (q, u) :: l else (q, u) :: landIns r w l

/-- R118: a write of RSTK_DEPTH. -/
def setDepth (t : Thread) (v : Word) : Thread := { t with depth := min 8 (bits v 0 4) }

/-- R105: the effect of a write of special register `k`; EVEN wakes a wakeable IDLE that a pending event ends (R155). -/
def srWrite (t : Thread) (k : Nat) (v : Word) : Thread :=
  match k with
  | 0x00 => { t with fl := v.truncate 6 }
  | 0x01 => { t with epc := v }
  | 0x02 => { t with efl := v.truncate 6 }
  | 0x03 => { t with ecause := v }
  | 0x04 => { t with evb := v }
  | 0x05 => { t with wt := setBits t.wt 0 32 v.toNat }
  | 0x06 => { t with wt := setBits t.wt 32 32 v.toNat }
  | 0x07 => { t with arm := v.getLsbD 0 }
  | 0x08 | 0x09 | 0x0A => { t with lb := tabSet 0 t.lb (k - 0x08) v }
  | 0x0C | 0x0D | 0x0E => { t with le := tabSet 0 t.le (k - 0x0C) v }
  | 0x10 | 0x11 | 0x12 => { t with lc := tabSet 0 t.lc (k - 0x10) v }
  | 0x14 => { t with rstk := tabSet 0 t.rstk ((t.rptr + 7) % 8) v }
  | 0x15 => setDepth t v
  | 0x16 => { t with rstkTrap := v.getLsbD 0 }
  | 0x19 =>
    let t := { t with even := v.truncate 8 }
    if t.st = .idle ∧ t.wakeable ∧ t.pend.any (fun p => t.enabled p.1) then { t with st := t.prev, wakeable := false } else t
  | 0x1A => { t with crccfg := v }
  | _ => t

/-- R105: the value MFS reads; `g` is the global thread number and `det` the thread's class. -/
def srRead (t : Thread) (g : Nat) (det : Bool) (k : Nat) : Word :=
  match k with
  | 0x00 => t.fl.zeroExtend 32
  | 0x01 => t.epc
  | 0x02 => t.efl.zeroExtend 32
  | 0x03 => t.ecause
  | 0x04 => t.evb
  | 0x05 => t.wt.truncate 32
  | 0x06 => BitVec.ofNat 32 (bits t.wt 32 32)
  | 0x07 => BitVec.ofNat 32 (b2n t.arm)
  | 0x08 | 0x09 | 0x0A => tabGet 0 t.lb (k - 0x08)
  | 0x0C | 0x0D | 0x0E => tabGet 0 t.le (k - 0x0C)
  | 0x10 | 0x11 | 0x12 => tabGet 0 t.lc (k - 0x10)
  | 0x14 => tabGet 0 t.rstk ((t.rptr + 7) % 8)
  | 0x15 => BitVec.ofNat 32 t.depth
  | 0x16 => BitVec.ofNat 32 (b2n t.rstkTrap + 2 * b2n det)
  | 0x17 => BitVec.ofNat 32 g
  | 0x18 => BitVec.ofNat 32 (b2n t.masked)
  | 0x19 => t.even.zeroExtend 32
  | 0x1A => t.crccfg
  | _ => 0

/-- The effect of one landing write. -/
def landOne (t : Thread) : LandW → Thread
  | .a v => { t with a := v }
  | .x v => { t with x := v }
  | .y v => { t with y := v }
  | .fl m v => { t with fl := (t.fl &&& ~~~m) ||| (v &&& m) }
  | .wt v => { t with wt := v }
  | .arm v => { t with arm := v }
  | .loopReg k b e c => { t with
      lb := tabSet 0 t.lb k b, le := tabSet 0 t.le k e
      lc := (tabSet 0 t.lc k c).filter fun p => decide (p.1 ≤ k) }
  | .sr k v => srWrite t k v

/-- The writes that have landed by round `r` applied in order. -/
def settleList (r : Nat) : List (Nat × LandW) → Thread → Thread
  | [], t => { t with land := [] }
  | (q, w) :: l, t => if q ≤ r then settleList r l (landOne t w) else { t with land := (q, w) :: l }

/-- R86, R88: the thread as a DEC read in round `r` finds it. -/
def Thread.settle (t : Thread) (r : Nat) : Thread := settleList r t.land t

/-- Writes that land in round `r`, in order. -/
def Thread.lands (t : Thread) (r : Nat) : List LandW → Thread
  | [] => t
  | w :: ws => Thread.lands { t with land := landIns r w t.land } r ws

/-! ## Bank arbitration -/

/-- R79: the bank of an address. -/
def bankOf (a : Nat) : Nat := a / 0x20000 % 8

/-- R82, R101: a data access that phase A serves: wholly inside the bank window that the thread held in the issue round. -/
def State.phaseA (s : State) (n t r a len : Nat) : Bool :=
  match (s.roundView n r).dwin n t with
  | some b => inWin b a len && !(s.core n).wiping.getLsbD (bankOf a)
  | none => false

/-- Phase B of bank `b` is taken in round `r`, or the bank is under wipe (R421). -/
def Core.busy (c : Core) (b r : Nat) : Bool := c.wiping.getLsbD b || c.busyB.any fun p => p.1 == b && p.2 == r

/-- Takes phase B of a bank in a round. -/
def Core.take (c : Core) (b r : Nat) : Core := { c with busyB := (b, r) :: c.busyB }

/-- The first round at or after `r` in which phase B of bank `b` has no turn for an older request (R85: at most 17 requesters wait). -/
def Core.freeRound (c : Core) (b r : Nat) : Nat := (findFrom (fun q => !c.busyB.any fun p => p.1 == b && p.2 == q) 18 r).getD (r + 18)

/-- R421: a request of a deterministic thread waits from round `r` on for a bank under wipe. -/
def Core.detWaits (c : Core) (r : Nat) : Core := { c with detFrom := some (min r (c.detFrom.getD r)) }

/-- ARB_CNT.RETRIES counts one more request. -/
def Core.retried (c : Core) : Core := { c with retries := satInc 0xFFFF c.retries }

/-! ## Stores -/

/-- R82, R84: the place of an access of MEM round `q` among the accesses of all rounds: phase A before phase B. -/
def memPhase (q : Nat) (phaseB : Bool) : Nat := 2 * q + b2n phaseB

/-- R84: the bytes that a store of `len` bytes at `a` replaces are kept for fetches of earlier port rounds. -/
def State.noteBytes (s : State) (n key a len : Nat) : State :=
  let c := s.core n
  s.setCore n { c with hist := (List.range len).map (fun i => (key, a + i, s.memByte n (a + i))) ++ c.hist }

/-- A store made in MEM round `q`, written to its bank. -/
def State.storeBank (s : State) (n q : Nat) (phaseB : Bool) (a len v : Nat) : State :=
  (s.noteBytes n (memPhase q phaseB) a len).memWrite n len a v

/-- R85: the fabric port has one access outstanding, which waits for a turn of phase B of its bank from the next round on. -/
def State.fabricTurn (s : State) (n a : Nat) : State :=
  if !s.coreRuns n then s
  else
    let c := s.core n
    let q := c.freeRound (bankOf a) (max (c.round + 4) (c.fabricAt + 1))
    s.setCore n { c.take (bankOf a) q with fabricAt := q }

/-- R85: a write of Span memory through the fabric port; its bytes are exchanged at the command (DESIGN CHOICE, log entry 42). -/
def State.fabricWrite (s : State) (n len a v : Nat) : State :=
  let s1 := s.fabricTurn n a
  if s.coreRuns n then s1.storeBank n (s1.core n).fabricAt true a len v else s1.memWrite n len a v

/-- A byte of memory as it was before the stores that come after `key`. -/
def histByte (key a : Nat) (b : Byte) : List (Nat × Nat × Byte) → Byte
  | [] => b
  | (k, x, old) :: l => histByte key a (if key < k ∧ x = a then old else b) l

/-- R84: the byte of memory that an access placed at `key` finds. -/
def State.byteAsOf (s : State) (n key a : Nat) : Byte := histByte key a (s.memByte n a) (s.core n).hist

/-- R84: a new store-buffer entry for a store of MEM round `q`. -/
def sbNew (lane q g a len v : Nat) : SbEntry := sbMerge { lane := lane, round := q, gran := g, mask := 0, data := 0 } a len v

/-- R82, R83: a store of `len` bytes whose MEM round is `q`: written, or put in the store buffer of its lane, or left for the
retry register (`none`). -/
def State.storeTo (s : State) (n t lane q a len v : Nat) : Option State :=
  let c := s.core n
  if s.phaseA n t (q - 4) a len then some (s.storeBank n q false a len v)
  else if !c.busy (bankOf a) q then some ((s.setCore n (c.take (bankOf a) q)).storeBank n q true a len v)
  else
    let g := a % 2 ^ 20 / 8
    let noted := s.noteBytes n (memPhase q true) a len
    let c1 := { noted.core n with sbEntries := satInc 0xFFFF c.sbEntries }
    match sbFind c.sb g with
    | some _ => some (noted.setCore n { c1 with sb := sbPut g a len v c.sb })
    | none => if sbLane lane c.sb < 4 then some (noted.setCore n { c1 with sb := c.sb ++ [sbNew lane q g a len v] }) else none

/-! ## Line requests (R92) -/

/-- R92: asks for a line for thread t at tick `tb`: a thread has at most two requests outstanding. -/
def Core.ask (c : Core) (t l tb : Nat) : Core :=
  if c.lbuf.contains l || (c.lreq.any fun q => q.line == l) || decide (2 ≤ (c.lreq.filter fun q => q.t == t).length) then c
  else { c with lreq := c.lreq ++ [⟨l, t, tb⟩] }

/-- R92: asks for the line of an address of flash or the boot ROM. -/
def State.askAt (s : State) (n t a : Nat) : State :=
  if areaOf a = .flash ∨ areaOf a = .rom then s.setCore n ((s.core n).ask t (lineOf a) s.clk.tb) else s

/-- R92: marks a line as most recently used. -/
def Core.touch (c : Core) (l : Nat) : Core :=
  if c.lbuf.contains l then { c with lbuf := l :: dropIf (· == l) c.lbuf } else c

/-- R92: the thread parks on a line that is not in the buffer, with the load that waits for it if any; a park on a bank that a
FLASHOP holds busy is recorded (R96). -/
def State.parkOn (s : State) (n t l : Nat) (ld : Option Pend) : State :=
  let g := n * 16 + t
  let th := s.thr g
  let c := s.core n
  let s1 := (s.setCore n { c.ask t l s.clk.tb with lineMiss := satInc 0xFFFF c.lineMiss }).setThr g { th with
    park := some (l, s.clk.tb, ld)
    parkLong := false
    xipWait := false
    nextRound := match ld with
      | some p => max th.nextRound (p.r + 5)
      | none => th.nextRound }
  if s.lineBusy l then s1.offer 0x0201 (thrObj n t) (BitVec.ofNat 32 ((l * 32 - 0x10000000) / 2 ^ 23)) (BitVec.ofNat 32 (l * 32)) 0 else s1

/-! ## Fetch -/

/-- R91, R99: the halfword at `a` lies in a copy of 16 bytes that begins at `b`. -/
def inCopy (b : Option Nat) (a : Nat) : Bool := match b with
  | some b => decide (b ≤ a) && decide (a + 2 ≤ b + 16)
  | none => false

/-- R89: the address of the first halfword that has not issued. -/
def Thread.fetchPc (t : Thread) : Nat := match t.multi with
  | some m => t.pc.toNat + m.dec.len
  | none => t.pc.toNat

/-- R89, R91: the first address of code that the thread needs in its fetch buffer: what a copy holds it does not fetch. -/
def Thread.fetchFrom (t : Thread) : Nat :=
  let a := t.fetchPc
  if inCopy t.head a then t.head.getD 0 + 16 else if inCopy t.ecopy a then t.ecopy.getD 0 + 16 else a

/-- R91: LE of the innermost active loop, where it goes back to LB from an address at or after `a`. -/
def Thread.loopEnd (t : Thread) (a : Nat) : Option Nat :=
  match (findBelow 3 fun j => tabGet 0 t.lc (2 - j) != 0) with
  | some j =>
    let e := (tabGet 0 t.le (2 - j)).toNat
    if 1 < (tabGet 0 t.lc (2 - j)).toNat ∧ a ≤ e then some e else none
  | none => none

/-- R89, R91: the doublewords of code that the thread wants in its fetch buffer: the next two in sequence, none past the memory nor
past the end of a loop that goes back. -/
def Thread.wanted (t : Thread) : List Nat :=
  let a := t.fetchFrom / 8 * 8
  [a, a + 8].filter fun x => decide (x < 0x100000) && match t.loopEnd t.fetchPc with
    | some e => decide (x ≤ e + 2)
    | none => true

/-- R89: the fetch-buffer entries that still hold code the thread wants. -/
def Thread.kept (t : Thread) : List (Nat × Nat × DWord) := t.fbuf.filter fun e => t.wanted.contains e.1

/-- R89: the doublewords that the thread wants and does not hold; none where it fetches no code of Span memory now. -/
def Thread.missing (t : Thread) : List Nat :=
  if (t.st == .operate || t.st == .service) && t.entry.isNone && areaOf t.pc.toNat == .span then
    t.wanted.filter fun x => !(t.kept.any fun e => e.1 == x)
  else []

/-- R81: a deterministic thread's fetch from its code window, which phase A serves. -/
def State.inCwin (s : State) (n t pc : Nat) : Bool :=
  let w := s.reg (spanOff n (0x40 + 4 * t))
  w.getLsbD 31 && decide (bits w 0 10 * 1024 ≤ pc) && decide (pc < (bits w 16 10 + 1) * 1024)

/-- A doubleword of Span memory as an access placed at `key` finds it. -/
def State.dwAsOf (s : State) (n key a : Nat) : DWord := BitVec.ofNat 64 (readNat (s.byteAsOf n key) 8 a)

/-- R89: the `k` doublewords from `a` on reach the fetch buffer of thread t in port round `q`, in so far as it wants them. -/
def State.fetched (s : State) (n t q : Nat) (phaseB : Bool) (a k : Nat) : State :=
  let g := n * 16 + t
  let th := s.thr g
  let got := ([a, a + 8].take k).filter fun x => th.missing.contains x
  s.setThr g { th with fbuf := th.kept ++ got.map fun x => (x, q + 1, s.dwAsOf n (memPhase q phaseB) x) }

/-- R80: puts an own slot in its place: by round, then by lane. -/
def slotIns (k : Slot) : List Slot → List Slot
  | [] => [k]
  | x :: l => if k.r < x.r ∨ (k.r = x.r ∧ k.lane < x.lane) then k :: x :: l else x :: slotIns k l

def Core.addSlot (c : Core) (k : Slot) : Core := { c with slots := slotIns k c.slots }

/-- R83: the waiting fetch of thread t, if it has one. -/
def Core.lateFetch (c : Core) (t : Nat) : Option Slot := c.slots.find? fun k => k.t == t && match k.use with
  | .late _ => true
  | _ => false

/-- R83: the waiting fetch of thread t is dropped, and the turn of its bank is free again. -/
def Core.dropLate (c : Core) (t : Nat) : Core := match c.lateFetch t with
  | some k => { c with
      slots := dropFirst k c.slots
      busyB := match k.use with
        | .late a => dropFirst (bankOf a, k.r + 4) c.busyB
        | _ => c.busyB }
  | none => c

/-- R83: a fetch has lost: it waits in the retry register unless a data request or an earlier fetch waits there. -/
def State.fetchLost (s : State) (n t lane q a : Nat) : State :=
  let c := s.core n
  if (s.thr (n * 16 + t)).retry.isSome || (c.lateFetch t).isSome then s
  else
    let f := c.freeRound (bankOf a) (q + 1)
    let c1 := (c.take (bankOf a) f).retried
    s.setCore n (c1.addSlot ⟨f - 4, lane, t, .late a⟩)

/-- R79, R82, R421: the fetch of `k` doublewords from `a` on in port round `q` of thread t. A bank under wipe serves none. -/
def State.fetchAt (s : State) (n t lane q a k : Nat) : State :=
  let v := s.roundView n (q - 4)
  let c := s.core n
  if c.wiping.getLsbD (bankOf a) then if v.det n t then s.setCore n (c.detWaits q) else s
  else if v.det n t && v.inCwin n t a then s.fetched n t q false a k
  else if !c.busy (bankOf a) q then
    let s1 := s.setCore n (c.take (bankOf a) q)
    if k = 2 ∧ bankOf (a + 8) ≠ bankOf a then (s1.fetched n t q true a 1).fetchLost n t lane q (a + 8) else s1.fetched n t q true a k
  else s.fetchLost n t lane q a

/-- R80, R89: the port access of an own slot in its MEM round: the thread fetches what it wants if an entry is free. -/
def State.servePort (s : State) (n : Nat) (k : Slot) : State :=
  match k.use with
  | .data => s
  | .seq => match (s.thr (n * 16 + k.t)).missing with
    | a :: l => s.fetchAt n k.t k.lane (k.r + 4) a (1 + l.length)
    | [] => s
  | .late a => if (s.core n).wiping.getLsbD (bankOf a) then s else s.fetched n k.t (k.r + 4) true a 2
  | .spent a =>
    let c := s.core n
    if (s.roundView n k.r).det n k.t || c.busy (bankOf a) (k.r + 4) then s else s.setCore n (c.take (bankOf a) (k.r + 4))

/-- The port accesses of the rounds up to `q`, before anything issues in round `q`: an entry whose last halfword issues in round `q`
is not free in it (DEDUCED, log entry 19). -/
def State.servePorts (s : State) (n q : Nat) : State :=
  let c := s.core n
  (c.slots.filter fun k => decide (k.r + 4 ≤ q)).foldl (fun s k => s.servePort n k)
    (s.setCore n { c with slots := dropIf (fun k => decide (k.r + 4 ≤ q)) c.slots })

/-- The halfword at an address, from usable fetch-buffer entries in round `r`. -/
def fbHalf (fb : List (Nat × Nat × DWord)) (r a : Nat) : Option (BitVec 16) :=
  match fb with
  | [] => none
  | (b, u, d) :: l => if b = a / 8 * 8 ∧ u ≤ r then some (BitVec.ofNat 16 (d.toNat >>> (8 * (a % 8)))) else fbHalf l r a

/-- R73, R91, R99: the halfword of Span memory that thread t can issue from in round `r`: from a copy, which every store of an earlier
round has refreshed, or from its fetch buffer. -/
def State.spanHalf (s : State) (n t r a : Nat) : Option (BitVec 16) :=
  let th := s.thr (n * 16 + t)
  if inCopy th.head a || inCopy th.ecopy a then some (BitVec.ofNat 16 (readNat (s.byteAsOf n (memPhase (r - 1) true)) 2 a))
  else fbHalf th.fbuf r a

/-- What a thread finds when it looks for its next instruction. -/
inductive Next where
  /-- The two halfwords at PC (the second unused for a 16-bit instruction). -/
  | instr (h0 h1 : BitVec 16)
  /-- R129: the next beat of the multi-beat instruction at PC. -/
  | beat (m : Multi)
  /-- Not in the fetch buffer yet. -/
  | missing
  /-- R92: the line is not in the line buffer. -/
  | line (l : Nat)
  /-- R107: a trap raised in FET. -/
  | trap (v : Trap)

/-- R81, R106, R107: the trap that a fetch at `a` raises for the instruction at `pc`, if any. -/
def fetchTrap (s : State) (n t : Nat) (st : TState) (pc a : Nat) : Option Trap :=
  match areaOf a with
  | .span => if s.det n t && !s.inCwin n t a then some (4, pc % 2 ^ 20) else none
  | .flash => if s.det n t then some (4, pc % 2 ^ 20) else none
  | .rom => if st == .operate then some (2, 0xFF) else if s.det n t then some (4, pc % 2 ^ 20) else none
  | .window | .device => if st == .operate then some (2, 0xFF) else some (4, pc % 2 ^ 20 + 2 ^ 20)
  | .none => some (4, pc % 2 ^ 20 + 2 ^ 20)

/-- The halfword of code at an address. -/
def State.codeHalf (s : State) (n a : Nat) : BitVec 16 := BitVec.ofNat 16 (readNat (s.codeByte n) 2 a)

/-- R92, R397: a line that is not in the buffer: the thread parks on it, or traps FETCH where its bank is FAULT. -/
def State.absent (s : State) (pc l : Nat) : Next := if s.lineFault l then .trap (4, pc % 2 ^ 20) else .line l

/-- R433: the granule of code at an address of Span memory is uncorrectable. -/
def State.badCode (s : State) (n a : Nat) : Bool := tabGet 0 s.upset (upKey 0 (spanGran n a)) == 2

/-- R100, R120: an event that could be taken now is pending. -/
def Thread.eventReady (t : Thread) : Bool := !t.masked && t.pend.any fun p => t.enabled p.1

/-- R73: the next instruction of thread t in round `r`, or the next beat of the one at PC; after a RETE, nothing before the event that is
pending has latched (R100). -/
def State.nextInstr (s : State) (n t r : Nat) : Next :=
  let th := s.thr (n * 16 + t)
  let v := s.roundView n r
  let pc := th.pc.toNat
  if th.reted && th.eventReady then .missing
  else match th.multi with
  | some m => .beat m
  | none => match fetchTrap v n t th.st pc pc with
  | some tr => .trap tr
  | none =>
    if areaOf pc = .span then
      match s.spanHalf n t r pc with
      | none => .missing
      | some h0 =>
        if s.badCode n pc then .trap (4, pc % 2 ^ 20)
        else if isLong h0 then
          match fetchTrap v n t th.st pc (pc + 2) with
          | some tr => .trap tr
          | none => match s.spanHalf n t r (pc + 2) with
            | some h1 => if s.badCode n (pc + 2) then .trap (4, pc % 2 ^ 20) else .instr h0 h1
            | none => .missing
        else .instr h0 0
    else
      let lb := (s.core n).lbuf
      if !lb.contains (lineOf pc) then s.absent pc (lineOf pc)
      else
        let h0 := s.codeHalf n pc
        if isLong h0 then
          match fetchTrap v n t th.st pc (pc + 2) with
          | some tr => .trap tr
          | none => if lb.contains (lineOf (pc + 2)) then .instr h0 (s.codeHalf n (pc + 2))
            else s.absent pc (lineOf (pc + 2))
        else .instr h0 0

/-! ## Issue -/

/-- The thread is in OPERATE or SERVICE. -/
def Thread.active (t : Thread) : Bool := t.st == .operate || t.st == .service

/-- R73: the thread can take a slot at all: in OPERATE or SERVICE, not waiting, parked or latched, and with no request of its own
outstanding. A held instruction is tried again (R60). -/
def Thread.canIssue (t : Thread) : Bool :=
  t.active && (t.wait == 0 || t.wait == 5) && t.retry.isNone && t.setup.isNone && t.entry.isNone && t.park.isNone

/-! ### Waits (R127, R158) -/

/-- A word is readable by the DEC test of a CIN issued in round `r` (R165). -/
def End.ready (e : End) (r : Nat) : Bool := match e.buf with
  | (_, _, q) :: _ => decide (q ≤ r)
  | [] => false

/-- R54: the enabled timed port of a window slot of thread t. -/
def State.portOf (s : State) (n t w : Nat) : Option Nat := slotPortAt s.reg n t w

/-- R127, R143, R145, R147: the wake condition of a wait, at the boundary before round `r` with a TB copy of `tb`. -/
def State.wakes (s : State) (n t r tb : Nat) : Bool :=
  let th := s.thr (n * 16 + t)
  match th.wait with
  | 1 => (s.chEnd (n * 128 + th.waitOpnd)).ready r
  | 2 => (s.chEnd (n * 128 + th.waitOpnd)).ready r || decide (th.waitTick ≤ tb)
  | 3 => decide (th.waitTick ≤ tb)
  | 4 => match s.portOf n t th.waitOpnd with
    | some p => let q := s.port (n * 32 + p); (match q.recs with | (_, some _) :: _ => true | _ => false) || q.recOut == 0
    | none => true
  | _ => false

/-- The words of the end that the thread waits on have moved (R165). -/
def State.waitFill (s : State) (n t : Nat) : State :=
  let th := s.thr (n * 16 + t)
  if th.wait = 1 ∨ th.wait = 2 then s.fillEnd n th.waitOpnd else s

/-- R127, R46: the wake condition holds in round `r` whatever the TB copy shows: the thread takes the slot. -/
def State.wakeDue (s : State) (n t r : Nat) : Bool := (s.waitFill n t).wakes n t r (s.clk.tb - 3)

/-! ### Data accesses -/

/-- R122: a micro-operation of the live decode table, as a doubleword. -/
def State.uop (s : State) (x k : Nat) : DWord :=
  BitVec.ofNat 64 ((s.reg (0x4000 + x * 0x100 + k * 8)).toNat + (s.reg (0x4004 + x * 0x100 + k * 8)).toNat * 2 ^ 32)

/-- R122: the access size of a micro-operation in bytes. -/
def uopSize (w : DWord) : Nat := 2 ^ bits w 40 2

/-- R122: a source of a micro-operation of an XOP with the operand `opnd`. -/
def xSrc (th : Thread) (opnd : Word) (u : Tab Word) (k : Nat) : Word :=
  match k with
  | 4 => th.a
  | 5 => th.x
  | 6 => th.y
  | 7 => opnd
  | k => tabGet 0 u k

/-- R122: the sources A and B of a micro-operation. -/
def uopSrcs (th : Thread) (opnd : Word) (u : Tab Word) (w : DWord) : Word × Word :=
  (xSrc th opnd u (bits w 51 3), if w.getLsbD 47 then w.truncate 32 else xSrc th opnd u (bits w 48 3))

/-- R122: the micro-operation is a ULD; it commits with a store. -/
def uopLoads (w : DWord) : Bool := bits w 57 5 == 0x10
def uopStores (w : DWord) : Bool := w.getLsbD 62 && w.getLsbD 36

/-- R122, R124: the data access of a beat of an XOP. -/
def uopAccess (th : Thread) (opnd : Word) (u : Tab Word) (w : DWord) : Option (Nat × Nat) :=
  if uopLoads w then
    let (a, b) := uopSrcs th opnd u w
    some ((a + b).toNat, uopSize w)
  else if uopStores w then some ((tabGet 0 u 3).toNat, uopSize w)
  else none

/-- R98: a TQ or FLASHOP that waits for its descriptor has not reached WBK. -/
def SDec.handsOff (d : SDec) : Bool :=
  d.mn == .tq || d.mn == .flashProgram || d.mn == .flashErase || d.mn == .flashBlank || d.mn == .flashM0 || d.mn == .flashM1

/-- R80, R142: the data access of an instruction's first beat, by its registers as DEC reads them: address and length. `v` is the view
of its round. -/
def dataAccess (v : State) (n t : Nat) (d : SDec) (th : Thread) : Option (Nat × Nat) :=
  if d.mn = .tq then (modeAddr v n t d th.x th.y).map fun a => (a, 16)
  else if d.handsOff then some (th.x.toNat, 16)
  else if d.mn = .mts ∧ d.g = 4 then some ((selReg d.f th.a th.x th.y).toNat, 16)
  else if d.mn = .xop then uopAccess th d.d [] (v.uop d.f 0)
  else if d.usesMem then (modeAddr v n t d th.x th.y).map fun a => (a, d.size)
  else none

/-- R80: the data access of what thread t issues next in round `r`. -/
def State.nextAccess (s : State) (n t r : Nat) : Option (Nat × Nat) :=
  let th := (s.thr (n * 16 + t)).settle (r + 2)
  match s.nextInstr n t r with
  | .instr h0 h1 => dataAccess (s.roundView n r) n t (strandDecode h0 h1) th
  | .beat ⟨d, .xop (w :: _) u _⟩ => uopAccess th d.d u w
  | _ => none

/-! ### The order of a round -/

/-- R73, R82, R97, R127: what thread t does in its own slot of round `r`: nothing, an access that phase A serves, or anything else. -/
def State.slotClass (s : State) (n t r : Nat) : Option Bool :=
  let th := s.thr (n * 16 + t)
  if !s.issues n || !th.active then none
  else match th.entry with
  | some (l, _, _) => if l ≤ r then some false else none
  | none =>
    if r < th.nextRound then none
    else if th.wait ≠ 0 ∧ th.wait ≠ 5 then if s.wakeDue n t r then some false else none
    else if !th.canIssue then none
    else match s.nextInstr n t r with
      | .missing => none
      | .line _ => none
      | _ => match s.nextAccess n t r with
        | some (a, len) => some (areaOf a == .span && s.phaseA n t r a len)
        | none => some false

/-- R79: the bank that a waiting request asks for next. -/
def Pend.bank (p : Pend) : Nat := bankOf (if p.part.isSome then p.addr + 8 else p.addr)

/-- R82: the bank's turn for a waiting request has come by the MEM round of what issues in round `r`. -/
def State.retryDue (s : State) (n t r : Nat) : Bool := match (s.thr (n * 16 + t)).retry with
  | some p => decide (p.q ≤ r + 4) && !(s.core n).wiping.getLsbD p.bank
  | none => false

/-- R100: a thread whose last instruction was a RETE has an event to take: it latches before any round passes. -/
def State.latchDue (s : State) (n t : Nat) : Bool :=
  let th := s.thr (n * 16 + t)
  th.reted && th.active && th.entry.isNone && th.eventReady && s.issues n && s.weight n t != 0

/-- What comes next in a round of a core. -/
inductive Act where
  /-- R100: the event of thread t latches. -/
  | latch (t : Nat)
  /-- The thread that holds a lane acts in its own slot. -/
  | slot (lane t : Nat)
  /-- The waiting request of thread t is served. -/
  | retry (t : Nat)
  /-- Nothing: the round is over. -/
  | idle
  deriving DecidableEq, Repr

/-- R82: the first lane of round `r` whose thread acts in a class. -/
def State.laneAct (s : State) (n r : Nat) (phaseA : Bool) : Option Nat :=
  findBelow 4 fun l => (s.slotThr n r l).bind (fun t => s.slotClass n t r) == some phaseA

/-- R82: what comes next in round `r`: accesses of phase A, then waiting requests, then all others, each in the order of the lanes. -/
def State.firstAct (s : State) (n r : Nat) : Act :=
  match findBelow 16 (s.latchDue n) with
  | some t => .latch t
  | none => match s.laneAct n r true with
  | some l => .slot l ((s.slotThr n r l).getD 0)
  | none => match findBelow 16 fun t => s.retryDue n t r with
  | some t => .retry t
  | none => match s.laneAct n r false with
  | some l => .slot l ((s.slotThr n r l).getD 0)
  | none => .idle

/-- R73, R80, R92: what an own slot in which nothing has issued leaves: its port fetches, and a thread whose line is absent parks. -/
def passLane (n r l : Nat) (s : State) : State :=
  match s.slotThr n r l with
  | none => s
  | some t =>
    let th := s.thr (n * 16 + t)
    let used := (s.core n).slots.any fun k => k.r == r && k.lane == l && k.t == t && (k.use == .data || k.use == .seq)
    let s1 := if used then s else s.setCore n ((s.core n).addSlot ⟨r, l, t, .seq⟩)
    if s.issues n && th.canIssue && decide (th.nextRound ≤ r) then
      match s.nextInstr n t r with
      | .line ln => s1.parkOn n t ln none
      | _ => s1
    else s1

/-- R71: a round is over: its idle slots pass, and the next begins. -/
def State.passRound (s : State) (n : Nat) : State :=
  let r := (s.core n).round
  let s1 := iter (passLane n r) 4 s
  let c := s1.core n
  s1.setCore n { c with
    round := r + 1
    busyB := dropIf (fun p => decide (p.2 < r)) c.busyB
    hist := dropIf (fun p => decide (p.1 < memPhase (r + 1) false)) c.hist
    before := dropIf (fun p => decide (p.1 ≤ r + 1)) c.before }

/-- The rounds of the core go by, `f` at most, until something acts in one or `live` fails: what acts, and the state then. -/
def State.seek (s : State) (n : Nat) (live : State → Bool) : Nat → Act × State
  | 0 => (.idle, s)
  | f + 1 =>
    let r := (s.core n).round
    let s1 := (s.chanDue n r).servePorts n r
    if !live s1 then (.idle, s1)
    else match s1.firstAct n r with
      | .idle => State.seek (s1.passRound n) n live f
      | a => (a, s1)

/-- The next issue of thread t: its round, its lane, its next instruction and the state then; `none` where something else comes first. -/
def State.findIssue (s : State) (n t : Nat) : Option (Nat × Nat × Next × State) :=
  match s.seek n (fun u => (u.thr (n * 16 + t)).canIssue) 512 with
  | (.slot lane u, s1) =>
    let r := (s1.core n).round
    if u = t then some (r, lane, s1.nextInstr n t r, s1) else none
  | _ => none

/-- What an instruction knows of its issue: its unit, its round and lane, the decoded word, and the thread as DEC reads it. -/
structure Ctx where
  n : Nat
  t : Nat
  r : Nat
  lane : Nat
  pc : Word
  d : SDec
  /-- The thread as read in DEC, round r + 2. -/
  th : Thread

/-- The global number of the thread that issues. -/
def Ctx.g (c : Ctx) : Nat := c.n * 16 + c.t

/-- R101: the state by whose classes and windows the instruction is checked. -/
def Ctx.view (c : Ctx) (s : State) : State := s.roundView c.n c.r

/-- Puts a thread in HALTED with a cause and records it (R121, R99). -/
def State.haltThr (s : State) (n t cause : Nat) (ecause : Word) : State :=
  let g := n * 16 + t
  let th := s.thr g
  ((s.setThr g { th with
    before := th.st, st := .halted, haltCause := cause, wait := 0, entry := none, multi := none
    }).offer 0x0204 (thrObj n t) (BitVec.ofNat 32 cause) ecause th.pc).endStep g

/-- R442: the last beat of an instruction of a thread that the debugger steps has issued and its access is made: the thread halts at the
boundary that lets it complete, and abandons a wait, a hold and a latched entry. -/
def State.stepDone (s : State) (n t : Nat) : State :=
  let g := n * 16 + t
  let th := s.thr g
  if th.stepping && th.multi.isNone && th.retry.isNone && th.setup.isNone then
    (s.setThr g { th with
      pc := match th.entry with
        | some (_, epc, _) => epc
        | none => th.pc
      entry := none, wait := 0, waited := false, fbuf := [], head := none, ecopy := none, before := th.st, st := .halted
      haltCause := 1
      nextRound := max th.nextRound (th.lastIssue + 3) }).endStep g
  else s

/-- R99: EVB addresses Span memory and is 16-byte aligned. -/
def evbOk (v : Word) : Bool := decide (v.toNat % 16 = 0) && decide (v.toNat + 16 ≤ 0x100000)

/-- R98: what stays in the retry register when the thread abandons its instruction: the request of one that has passed MEM in its last
beat. -/
def keepRetry : Option Pend → Option Pend
  | some p => if p.store.isNone && (p.dec.handsOff || p.dec.mn == .mul || p.dec.mn == .xop) then none else some p
  | none => none

/-- R98, R108: a setup access goes on when its instruction is abandoned: that of a MUL, whose last beat has not issued, writes nothing. -/
def keepSetup : Option Pend → Option Pend
  | some p => some (if p.dec.mn = .mul then { p with dead := true } else p)
  | none => none

/-- R97, R98, R127: what a thread was in the middle of is abandoned. -/
def Thread.dropWork (t : Thread) : Thread :=
  { t with
    wait := 0
    waited := false
    park := none
    multi := none
    fbuf := []
    head := none
    ecopy := none
    reted := false
    retry := keepRetry t.retry
    setup := keepSetup t.setup }

/-- R97, R99, R121: an entry latches at the boundary before round `l`, with the PC to save and its cause. Until the handler runs,
the thread's PC is the EVB of that boundary. -/
def State.latch (s : State) (n t l : Nat) (epc cause : Word) : State :=
  let g := n * 16 + t
  let th := ((s.thr g).settle (l - 1)).dropWork
  if evbOk th.evb then s.setThr g { th with pc := th.evb, entry := some (l, epc, cause), nextRound := max th.nextRound l }
  else (s.setThr g th).haltThr n t 3 cause

/-- R121: a trap of the instruction at `pc` issued in round `r`, raised `stage` rounds later: FET 1, DEC 2, ADR 3, MEM 4. -/
def State.trapAt (s : State) (n t : Nat) (pc : Word) (r stage : Nat) (v : Trap) : State :=
  let th := s.thr (n * 16 + t)
  let s1 := s.setThr (n * 16 + t) { th with pc := pc }
  let cause := BitVec.ofNat 32 (v.1 * 2 ^ 24 + v.2 % 2 ^ 24)
  if th.masked then s1.haltThr n t 2 cause else s1.latch n t (r + stage + 1) pc cause

/-- A trap of the issuing instruction. -/
def Ctx.trap (c : Ctx) (stage : Nat) (v : Trap) (s : State) : State := s.trapAt c.n c.t c.pc c.r stage v

/-- R117: the loop levels from `k − 1` down, at the instruction at `pc`: the thread with its counts and the address to go on at. -/
def loopNext (pc : Word) : Nat → Thread → Thread × Option Word
  | 0, t => (t, none)
  | k + 1, t =>
    let c := tabGet 0 t.lc k
    if c = 0 ∨ tabGet 0 t.le k ≠ pc then loopNext pc k t
    else if c = 1 then loopNext pc k { t with lc := tabSet 0 t.lc k 0 }
    else ({ t with lc := tabSet 0 t.lc k (c - 1) }, some (tabGet 0 t.lb k))

/-- The instruction goes on to the next in sequence, or to the head of a loop, whose copy the thread issues from (R91, R117); `ws` land in
WBK. -/
def Ctx.fin (c : Ctx) (ws : List LandW) (s : State) : State :=
  let th := (s.thr c.g).lands (c.r + 6) ws
  let (th, nx) := loopNext c.pc 3 th
  match nx with
  | some b => s.setThr c.g { th with
      pc := b &&& ~~~1
      head := if areaOf b.toNat = .span then some (b &&& ~~~1).toNat else none
      multi := none
      waited := false }
  | none => s.setThr c.g { th with pc := c.pc + BitVec.ofNat 32 c.d.len, multi := none, waited := false }

/-- A result that lands at load return (R125): round r + 8, or the round after it was served if that is later (R83). -/
def Ctx.finLoad (c : Ctx) (served : Nat) (ws : List LandW) (s : State) : State :=
  let th := s.thr c.g
  (s.setThr c.g (th.lands (max (c.r + 8) (served + 1)) ws))

/-- R129: the instruction has beats to come: PC stays at it. -/
def Ctx.more (c : Ctx) (b : Beats) (s : State) : State := s.setThr c.g { s.thr c.g with pc := c.pc, multi := some ⟨c.d, b⟩ }

/-! ### Branches -/

/-- R93: looks a branch up in the branch-target buffer. -/
def btbFind (l : List BtbEntry) (pc : Word) : Option BtbEntry := l.find? fun e => e.pc == pc

/-- R93: the set of a branch: PC[5:1]. -/
def btbSet (pc : Word) : Nat := bits pc 1 5

/-- R93: puts an entry first and drops the least recently used one of a set of more than four. -/
def btbPut (e : BtbEntry) (l : List BtbEntry) : List BtbEntry :=
  let l1 := dropIf (fun q => q.pc == e.pc) l
  let same := l1.filter fun q => btbSet q.pc == btbSet e.pc
  let l2 := if 4 ≤ same.length then
      match same.getLast? with
      | some old => dropIf (fun q => q.pc == old.pc) l1
      | none => l1
    else l1
  e :: l2

/-- R93: the core looks branches from flash and the boot ROM up. -/
def State.btbEn (s : State) (n : Nat) : Bool := (s.reg (spanOff n 0xC00)).getLsbD 8

/-- R118: the entry at the top of RSTK. -/
def Thread.rtop (t : Thread) : Word := tabGet 0 t.rstk ((t.rptr + 7) % 8)

/-- R93: the top of RSTK as SEL of round `r` finds it: a push or pop in DEC of an earlier round has been made (DEDUCED, log entry 43). -/
def topAsOf (r : Nat) (v : Word) : List (Nat × Word) → Word
  | [] => v
  | (d, old) :: l => topAsOf r (if r ≤ d then old else v) l

/-- R93: where a branch that issues in round `r` is predicted at SEL to go; `none` for not taken or not predicted. -/
def Ctx.predict (c : Ctx) (s : State) : Option Word :=
  if !s.btbEn c.n then none
  else if c.d.mn = .ret then some (topAsOf c.r (s.thr c.g).rtop (s.thr c.g).rhist &&& ~~~1)
  else match btbFind (s.core c.n).btb c.pc with
    | some e => if 2 ≤ e.cnt then some e.target else none
    | none => none

/-- R93: the update of the branch-target buffer by a branch other than RET in DEC; a taken hit takes the branch's present target
(DESIGN CHOICE, log entry 43). `target` is `none` for a branch not taken. -/
def Core.resolve (c : Core) (pc : Word) (target : Option Word) : Core :=
  match btbFind c.btb pc, target with
  | some e, some a => { c with btb := btbPut { e with cnt := min 3 (e.cnt + 1), target := a } c.btb }
  | some e, none => { c with btb := btbPut { e with cnt := e.cnt - 1 } c.btb }
  | none, some a => { c with btb := btbPut ⟨pc, a, 2⟩ c.btb }
  | none, none => c

/-- R92, R93, R94: a branch of flash or the boot ROM resolves to `target`, `none` for not taken: the line of a target predicted taken is
asked for, the buffer learns, a mispredict is counted. Gives whether it was mispredicted. -/
def Ctx.resolved (c : Ctx) (target : Option Word) (s : State) : Bool × State :=
  let pred := c.predict s
  let s1 := match pred with
    | some a => s.askAt c.n c.t a.toNat
    | none => s
  if !s.btbEn c.n then (target.isSome, s1)
  else
    let co := s1.core c.n
    let co := if c.d.mn = .ret then co else co.resolve c.pc target
    let miss := pred != target
    (miss, s1.setCore c.n (if miss then { co with mispredict := satInc 0xFFFF co.mispredict } else co))

/-- R90: the ports of a thread's earlier slots after a taken branch in round `r`: one of those up to round r + 2 may still read on in
sequence, which is lost; none after it fetches but the branch's own. `a` is the address it would read. -/
def cutPorts (t r : Nat) : Option Nat → List Slot → List Slot
  | _, [] => []
  | a, k :: l =>
    if k.t = t ∧ k.r < r then
      match a with
      | some x => if k.r + 2 ≤ r ∧ k.use = .seq then { k with use := .spent x } :: cutPorts t r none l else cutPorts t r a l
      | none => cutPorts t r none l
    else k :: cutPorts t r a l

/-- The thread goes on at `target`, from round `q` on, with its fetch buffer emptied (R90). -/
def Ctx.jump (c : Ctx) (target : Word) (q : Nat) (s : State) : State :=
  let th := s.thr c.g
  let ahead := ({ th with pc := c.pc + BitVec.ofNat 32 c.d.len, multi := none }).missing
  let co := (s.core c.n).dropLate c.t
  (s.setCore c.n { co with slots := cutPorts c.t c.r ahead.head? co.slots }).setThr c.g { th with
    pc := target &&& ~~~1
    fbuf := []
    head := none
    ecopy := none
    multi := none
    waited := false
    nextRound := q }

/-- A taken transfer to `target` (R90, R93, R94); `ws` land in WBK. -/
def Ctx.go (c : Ctx) (target : Word) (ws : List LandW) (s : State) : State :=
  let s := s.setThr c.g ((s.thr c.g).lands (c.r + 6) ws)
  if areaOf c.pc.toNat = .span then c.jump target (c.r + 5) s
  else
    let (miss, s1) := c.resolved (some (target &&& ~~~1)) s
    c.jump target (if areaOf target.toNat = .span ∨ s.btbEn c.n = false then c.r + 5 else if miss then c.r + 3 else c.r + 1) s1

/-- A branch that is not taken (R90, R93, R94). -/
def Ctx.stay (c : Ctx) (ws : List LandW) (s : State) : State :=
  if areaOf c.pc.toNat = .span then c.fin ws s
  else
    let (miss, s1) := c.resolved none s
    let s2 := c.fin ws s1
    if miss then s2.setThr c.g { s2.thr c.g with nextRound := c.r + 3 } else s2

/-! ### Waits and holds -/

/-- R127, R158: the wait is entered in DEC, and younger instructions are cancelled; PC stays at the instruction. -/
def Ctx.wait (c : Ctx) (kind opnd tick : Nat) (s : State) : State :=
  let th := s.thr c.g
  s.setThr c.g { th with
    pc := c.pc, wait := kind, waitOpnd := opnd, waitTick := tick, waitSeq := (th.waitSeq + 1) % 256, waited := false
    nextRound := max th.nextRound (c.r + 3) }

/-- R60, R128: the instruction holds, as the start of its EXE decides, and is issued again in its next own slot. -/
def Ctx.hold (c : Ctx) (s : State) : State :=
  let th := s.thr c.g
  s.setThr c.g { th with pc := c.pc, wait := 5, waitOpnd := 0, waited := false, nextRound := max th.nextRound (c.r + 5) }

/-! ### The frame of every Strand instruction -/

/-- R73, R72: thread t takes its own slot in round `r`: the thread is settled to DEC, and what the slot's port carries is noted. -/
def State.enterSlot (s : State) (n t r lane : Nat) (use : PortUse) : State :=
  let s1 := s.setCore n ((s.core n).addSlot ⟨r, lane, t, use⟩)
  let th := (s1.thr (n * 16 + t)).settle (r + 2)
  s1.setThr (n * 16 + t) { th with nextRound := r + 1, lastIssue := r, wait := 0, reted := false }

/-- R92: an instruction from flash or the boot ROM runs from its line, and the core asks for the next one. -/
def State.ranFrom (s : State) (n t : Nat) : State :=
  let pc := (s.thr (n * 16 + t)).pc.toNat
  if areaOf pc = .flash ∨ areaOf pc = .rom then
    let s1 := s.setCore n ((s.core n).touch (lineOf pc))
    if areaOf (pc + 32) = areaOf pc then s1.askAt n t (pc + 32) else s1
  else s

/-- The context of an instruction that issues in round `r`. -/
def State.ctx (s : State) (n t r lane : Nat) (d : SDec) : Ctx :=
  { n := n, t := t, r := r, lane := lane, pc := (s.thr (n * 16 + t)).pc, d := d, th := s.thr (n * 16 + t) }

/-- R142: MTS to RSTK_DEPTH with a value above 8. -/
def depthIll (k : Nat) (v : Word) : Bool := k == 0x15 && Nat.blt 8 v.toNat

/-- R114: what makes an instruction trap ILLEGAL in DEC, whatever its condition, with the thread in the state `th`: its encoding; the
character group in OPERATE (R137), and CRCS without a polynomial or with a mode that is none (R138); MTS to RSTK_DEPTH (R142); an XOP
whose first micro-operation is not valid (R124). -/
def State.decIll (s : State) (d : SDec) (th : Thread) : Bool :=
  d.ill || ((d.mn == .crcs || d.mn == .par || d.mn == .brev) && th.st == .operate)
    || (d.mn == .crcs && (th.crccfg == 0 || Nat.ble 8 th.y.toNat)) || (d.mn == .mts && depthIll d.g (selReg d.f th.a th.x th.y))
    || (d.mn == .xop && !(s.uop d.f 0).getLsbD 63)

/-- R124: the number of micro-operations of an XOP from `k` on, `f` at most. -/
def State.xopLen (s : State) (x : Nat) : Nat → Nat → Nat
  | 0, _ => 0
  | f + 1, k => if (s.uop x k).getLsbD 62 then 1 else State.xopLen s x f (k + 1) + 1

/-- R129: beats of an instruction past its first. -/
def State.moreBeats (s : State) (d : SDec) : Nat :=
  if d.mn = .mul then 1 else if d.mn = .xop then s.xopLen d.f 32 0 - 1 else 0

/-- R74, R129: an instruction whose condition is false is a no-op that takes its beats (DEDUCED, log entry 19). -/
def Ctx.noOp (c : Ctx) (s : State) : State := match (c.view s).moreBeats c.d with
  | 0 => c.fin [] s
  | k + 1 => c.more (.noop (k + 1)) s

/-- R129: a beat after the first, of a no-op or of MUL. -/
def Ctx.plainBeat (c : Ctx) (b : Beats) (s : State) : State :=
  match b with
  | .noop (k + 2) => c.more (.noop (k + 1)) s
  | .mul ws => c.fin ws s
  | _ => c.fin [] s

/-- The branches, which are resolved also where they are not taken. -/
def isBranch (mn : Mn) : Bool :=
  mn == .br || mn == .call || mn == .dbx || mn == .jmpr || mn == .callr || mn == .ret || mn == .rete

/-- The port of the slot in which thread t issues in round `r` carries the data access of what it issues, where that runs and has one. -/
def State.slotUse (s : State) (n t r : Nat) (run : Bool) : PortUse := if run && (s.nextAccess n t r).isSome then .data else .seq

/-- Thread t of Span n issues its next instruction, whose mnemonic is `mn`, or the next beat of it; `body` is its effect once it is past
the checks that every instruction shares, and `beat` that of a later beat. Nothing happens where the thread cannot issue, where
something else of its core comes first, or where its next instruction is another. -/
def strandBy (mn : Mn) (body : Ctx → State → State) (beat : Ctx → Beats → State → State) (n t : Nat) (s : State) : State :=
  if !s.issues n || !(s.thr (n * 16 + t)).canIssue then s
  else match s.findIssue n t with
    | some (r, lane, .instr h0 h1, s1) =>
      let d := strandDecode h0 h1
      if d.mn ≠ mn then s
      else
        let th0 := (s1.thr (n * 16 + t)).settle (r + 2)
        let ill := (s1.roundView n r).decIll d th0
        let run := !ill && condTrue d.cond th0.fl
        let s2 := (s1.enterSlot n t r lane (s1.slotUse n t r run)).ranFrom n t
        let c := s2.ctx n t r lane d
        (if ill then c.trap 2 (1, d.h0.toNat) s2
        else if run then body c s2
        else if isBranch mn then c.stay [] s2
        else c.noOp s2).stepDone n t
    | some (r, lane, .beat m, s1) =>
      if m.dec.mn ≠ mn then s
      else
        let s2 := (s1.enterSlot n t r lane (s1.slotUse n t r true)).ranFrom n t
        (beat (s2.ctx n t r lane m.dec) m.beats s2).stepDone n t
    | _ => s

/-- An instruction whose later beats, if it has any, are those of a no-op or of MUL. -/
def strand (mn : Mn) (body : Ctx → State → State) (n t : Nat) (s : State) : State := strandBy mn body Ctx.plainBeat n t s

/-! ### Waiting requests -/

/-- R83, R92, R108: a request that is not served in its own round: the fields it needs when it is. -/
def Ctx.pend (c : Ctx) (a len : Nat) (store : Option Nat) : Pend :=
  { dec := c.d, pc := c.pc, a := c.th.a, x := c.th.x, y := c.th.y, fl := c.th.fl, r := c.r, lane := c.lane, addr := a, len := len
    store := store }

/-- The data request of an instruction that found its bank taken waits in the retry register (R82, R83); a waiting fetch of its thread is
dropped. A deterministic thread that waits for a wipe is remembered (R421). -/
def Ctx.toRetry (c : Ctx) (p : Pend) (s : State) : State :=
  let co := (s.core c.n).dropLate c.t
  let q := co.freeRound p.bank (c.r + 5)
  let co1 := (co.take p.bank q).retried
  (s.setThr c.g { s.thr c.g with retry := some { p with q := q } }).setCore c.n
    (if co.wiping.getLsbD p.bank && (c.view s).det c.n c.t then co1.detWaits (c.r + 4) else co1)

/-- The context of an instruction that was in flight, as it stood in its DEC. -/
def Pend.ctx (p : Pend) (s : State) (n t : Nat) : Ctx :=
  { n := n, t := t, r := p.r, lane := p.lane, pc := p.pc, d := p.dec,
    th := { s.thr (n * 16 + t) with a := p.a, x := p.x, y := p.y, fl := p.fl } }

end Sys2Proof.Machine
end

