-- ==== Sys2Proof/Machine/Alu.lean ====
section
/-! DEFINITION. Strand loads, stores, arithmetic, logic, shifts, multiply, packed decimal and character instructions (R130 to
R138). -/
namespace Sys2Proof.Machine

/-- The outcome of a command. -/
abbrev Out := Host.Outcome State Fault Refusal

/-! ## Results of the memory-format instructions -/

/-- The writes of a result to A with the flags of `m`. -/
def resA (r : Res) (m : BitVec 6) : List LandW := [.a r.val, .fl m r.fl]

/-- R130: LD; size D loads A:X. `v` is the operand as a number. -/
def resLd (d : SDec) (v : Nat) : List LandW :=
  let a := BitVec.ofNat 32 v
  if d.size = 8 then
    let x := BitVec.ofNat 32 (v / 2 ^ 32)
    [.a a, .x x, .fl mNZ (mkFlags false false false x.msb (a == 0 && x == 0) false)]
  else [.a a, .fl mNZ (flNZ a)]

/-- R130: LDS, sign-extended from size B or H. -/
def resLds (d : SDec) (v : Nat) : List LandW :=
  let a := if d.size = 1 then sext 8 v else if d.size = 2 then sext 16 v else BitVec.ofNat 32 v
  [.a a, .fl mNZ (flNZ a)]

/-- The writes of a memory-format instruction other than a store, from its operand `v` and the thread as DEC read it. -/
def operandRes (d : SDec) (th : Thread) (v : Nat) : List LandW :=
  let w := BitVec.ofNat 32 v
  let c := flC th.fl
  match d.mn with
  | .ld => resLd d v
  | .ldx => [.x w, .fl mNZ (flNZ w)]
  | .ldy => [.y w, .fl mNZ (flNZ w)]
  | .lds => resLds d v
  | .add => resA (addForm th.a w false) mNZCVH
  | .adc => resA (addForm th.a w c) mNZCVH
  | .sub => resA (subForm th.a w false) mNZCVH
  | .sbc => resA (subForm th.a w (!c)) mNZCVH
  | .andd => resA (logicForm (th.a &&& w)) mNZ
  | .orr => resA (logicForm (th.a ||| w)) mNZ
  | .xorr => resA (logicForm (th.a ^^^ w)) mNZ
  | .cmp => [.fl mNZCV (subForm th.a w false).fl]
  | .cpx => [.fl mNZCV (subForm th.x w false).fl]
  | .cpy => [.fl mNZCV (subForm th.y w false).fl]
  | .bit => [.fl mNZ (flNZ (th.a &&& w))]
  | .shl => resA (shiftForm .shl th.a (v % 32)) mNZC
  | .shr => resA (shiftForm .shr th.a (v % 32)) mNZC
  | .asr => resA (shiftForm .asr th.a (v % 32)) mNZC
  | .ror => resA (shiftForm .ror th.a (v % 32)) mNZC
  | .dadd => resA (daddForm th.a w c) mNZCVH
  | .dsub => resA (dsubForm th.a w c) mNZCVH
  | .mul =>
    let p := mulProd th.a w
    [.a (p.truncate 32), .x (BitVec.ofNat 32 (p.toNat / 2 ^ 32)), .fl mNZC (mulFlags p)]
  | _ => []

/-- R125: a load proper, whose result lands at load return. -/
def isLoad (m : Mn) : Bool := m == .ld || m == .ldx || m == .ldy || m == .lds

/-- The write is one of the flags. -/
def LandW.isFlags : LandW → Bool
  | .fl _ _ => true
  | _ => false

/-- R72, R83, R125: the writes of an operand read in round `served` on their way: a loaded value lands at load return, round r + 8 or
the round after service, its flags and every other result in WBK, which follows service by two rounds (for other results than loads
DEDUCED, log entry 37). -/
def Ctx.landed (c : Ctx) (served : Nat) (ws : List LandW) (th : Thread) : Thread :=
  let wbk := max (c.r + 6) (served + 2)
  if isLoad c.d.mn then
    (th.lands (max (c.r + 8) (served + 1)) (ws.filter fun w => !w.isFlags)).lands wbk (ws.filter LandW.isFlags)
  else th.lands wbk ws

/-- R109, R134: the write of a post-modify mode of MUL, in WBK of its last beat. In mode XP it falls on the X of the product, and the spec
does not say which of the two stands: X takes a free value (DESIGN CHOICE, log entry 44). -/
def mulPost (d : SDec) (x y free : Word) : List LandW := if d.mode = .xp then [.x free] else postMod d x y

/-- The operand has been read in round `served`: the result is on its way, or the last beat of MUL can issue (R129). -/
def Ctx.operandDone (c : Ctx) (served v : Nat) (s : State) : State :=
  let ws := operandRes c.d c.th v
  if c.d.mn = .mul then
    c.more (.mul (ws ++ mulPost c.d c.th.x c.th.y s.free)) (if c.d.mode = .xp then s.drawn else s)
  else s.setThr c.g (c.landed served ws (s.thr c.g))

/-- The first beat is past ADR: the thread goes on after the instruction, but at MUL has a beat to come (R129). -/
def Ctx.onward (c : Ctx) (s : State) : State := if c.d.mn = .mul then s else c.fin (postMod c.d c.th.x c.th.y) s

/-- The operand of an instruction whose mode is IMM or REG: the result lands in WBK. -/
def Ctx.direct (c : Ctx) (v : Word) (s : State) : State :=
  if c.d.mn = .mul then c.operandDone (c.r + 4) v.toNat s
  else c.fin (operandRes c.d c.th v.toNat) s

/-- R92, R131: the line of a load from flash or the boot ROM is not in the line buffer. -/
def State.lineAbsent (s : State) (n a : Nat) : Bool :=
  (areaOf a == .flash || areaOf a == .rom) && !(s.core n).lbuf.contains (lineOf a)

/-- R110, R120: WIN in a thread without a bank window traps WINDOW; the spec forms no data address there, so the detail is a free
value. -/
def Ctx.noWindow (c : Ctx) (s : State) : State := c.trap 3 (3, bits s.free 0 20) s.drawn

/-- An operand in Span memory is served in round `served`; a corrected granule is mended (R433). -/
def Ctx.loaded (c : Ctx) (served a len : Nat) (s : State) : State :=
  c.operandDone served (s.memRead c.n a len) (s.readGrans c.n a len).2

/-- R433: a load of an uncorrectable granule traps ACCESS in MEM. -/
def Ctx.badLoad (c : Ctx) (a len : Nat) (s : State) : State := c.trap 4 (6, a % 2 ^ 24) (s.readGrans c.n a len).2

/-- A read of `len` bytes at `a` in the instruction's MEM round (R79 to R83, R108, R131). -/
def Ctx.readAt (c : Ctx) (a len : Nat) (s : State) : State :=
  match areaOf a with
  | .span =>
    if s.phaseA c.n c.t c.r a len then c.loaded (c.r + 4) a len s
    else
      let co := s.core c.n
      if co.busy (bankOf a) (c.r + 4) then c.toRetry (c.pend a len none) s
      else c.loaded (c.r + 4) a len (s.setCore c.n (co.take (bankOf a) (c.r + 4)))
  | .flash | .rom =>
    c.operandDone (c.r + 4) (readNat (s.codeByte c.n) len a) (s.setCore c.n ((s.core c.n).touch (lineOf a)))
  | _ => s.setThr c.g { s.thr c.g with setup := some (c.pend a len none) }

/-- A write of `len` bytes at `a` in MEM round `q` of the instruction (R82, R83, R108). -/
def Ctx.writeAt (c : Ctx) (q a len v : Nat) (s : State) : State :=
  match areaOf a with
  | .span =>
    match s.storeTo c.n c.t c.lane q a len v with
    | some s1 => s1
    | none => c.toRetry (c.pend a len (some v)) s
  | _ => s.setThr c.g { s.thr c.g with setup := some (c.pend a len (some v)) }

/-- A memory-format instruction that reads its operand (R130, R132, R134, R135). -/
def Ctx.memForm (c : Ctx) (s : State) : State :=
  match c.d.mode with
  | .reg => c.direct (selReg c.d.d.toNat c.th.a c.th.x c.th.y) s
  | .imm | .none => c.direct c.d.d s
  | _ =>
    match modeAddr (c.view s) c.n c.t c.d c.th.x c.th.y with
    | none => c.noWindow s
    | some a =>
      match accessTrap (c.view s) c.n c.t c.th.st false a c.d.size with
      | some v => c.trap 3 v s
      | none =>
        if s.lineAbsent c.n a then s.parkOn c.n c.t (lineOf a) (some (c.pend a c.d.size none))
        else if areaOf a = .span ∧ s.badGrans c.n a c.d.size = true then c.badLoad a c.d.size s
        else c.readAt a c.d.size (c.onward s)

/-- A store of `v` (R130): to a register in mode REG, else to memory or a register of the setup window. -/
def Ctx.storeForm (c : Ctx) (v : Nat) (s : State) : State :=
  match c.d.mode with
  | .reg => c.fin [landReg c.d.d.toNat (BitVec.ofNat 32 v)] s
  | _ =>
    match modeAddr (c.view s) c.n c.t c.d c.th.x c.th.y with
    | none => c.noWindow s
    | some a =>
      match accessTrap (c.view s) c.n c.t c.th.st true a c.d.size with
      | some tr => c.trap 3 tr s
      | none => c.writeAt (c.r + 4) a c.d.size (v % 2 ^ (8 * c.d.size)) (c.fin (postMod c.d c.th.x c.th.y) s)

/-! ## Loads and stores (R130) -/

def execLd (n t : Fin 16) (s : State) : Out := .next (strand .ld Ctx.memForm n t s)
def execLdx (n t : Fin 16) (s : State) : Out := .next (strand .ldx Ctx.memForm n t s)
def execLdy (n t : Fin 16) (s : State) : Out := .next (strand .ldy Ctx.memForm n t s)
def execLds (n t : Fin 16) (s : State) : Out := .next (strand .lds Ctx.memForm n t s)

/-- ST stores A, or A:X for size D. -/
def execSt (n t : Fin 16) (s : State) : Out :=
  .next (strand .st (fun c => c.storeForm (if c.d.size = 8 then c.th.a.toNat + c.th.x.toNat * 2 ^ 32 else c.th.a.toNat)) n t s)
def execStx (n t : Fin 16) (s : State) : Out := .next (strand .stx (fun c => c.storeForm c.th.x.toNat) n t s)
def execSty (n t : Fin 16) (s : State) : Out := .next (strand .sty (fun c => c.storeForm c.th.y.toNat) n t s)

/-- LIL writes a zero-extended immediate. -/
def execLil (n t : Fin 16) (s : State) : Out := .next (strand .lil (fun c => c.fin [landReg c.d.f c.d.d]) n t s)
/-- LIH writes the high half and keeps the low half that DEC read. -/
def execLih (n t : Fin 16) (s : State) : Out :=
  .next (strand .lih (fun c =>
    c.fin [landReg c.d.f ((c.d.d <<< 16) ||| (selReg c.d.f c.th.a c.th.x c.th.y &&& 0xFFFF))]) n t s)

/-! ## Arithmetic, logic and compare (R132, R133) -/

def execAdd (n t : Fin 16) (s : State) : Out := .next (strand .add Ctx.memForm n t s)
def execAdc (n t : Fin 16) (s : State) : Out := .next (strand .adc Ctx.memForm n t s)
def execSub (n t : Fin 16) (s : State) : Out := .next (strand .sub Ctx.memForm n t s)
def execSbc (n t : Fin 16) (s : State) : Out := .next (strand .sbc Ctx.memForm n t s)
def execAndd (n t : Fin 16) (s : State) : Out := .next (strand .andd Ctx.memForm n t s)
def execOrr (n t : Fin 16) (s : State) : Out := .next (strand .orr Ctx.memForm n t s)
def execXorr (n t : Fin 16) (s : State) : Out := .next (strand .xorr Ctx.memForm n t s)
def execCmp (n t : Fin 16) (s : State) : Out := .next (strand .cmp Ctx.memForm n t s)
def execCpx (n t : Fin 16) (s : State) : Out := .next (strand .cpx Ctx.memForm n t s)
def execCpy (n t : Fin 16) (s : State) : Out := .next (strand .cpy Ctx.memForm n t s)
def execBit (n t : Fin 16) (s : State) : Out := .next (strand .bit Ctx.memForm n t s)

/-- INC adds 1 to A, X or Y, with the flags of ADD. -/
def incBody (c : Ctx) (s : State) : State :=
  let r := addForm (selReg c.d.f c.th.a c.th.x c.th.y) 1 false
  c.fin [landReg c.d.f r.val, .fl mNZCVH r.fl] s
def execInc (n t : Fin 16) (s : State) : Out := .next (strand .inc incBody n t s)

/-- DEC subtracts 1 from A, X or Y, with the flags of SUB. -/
def decBody (c : Ctx) (s : State) : State :=
  let r := subForm (selReg c.d.f c.th.a c.th.x c.th.y) 1 false
  c.fin [landReg c.d.f r.val, .fl mNZCVH r.fl] s
def execDec (n t : Fin 16) (s : State) : Out := .next (strand .dec decBody n t s)

/-- NEG subtracts A from 0. -/
def execNeg (n t : Fin 16) (s : State) : Out :=
  .next (strand .neg (fun c => c.fin (resA (subForm 0 c.th.a false) mNZCVH)) n t s)
def execNott (n t : Fin 16) (s : State) : Out :=
  .next (strand .nott (fun c => c.fin (resA (logicForm (~~~c.th.a)) mNZ)) n t s)
def execMov (n t : Fin 16) (s : State) : Out :=
  .next (strand .mov (fun c => c.fin [landReg c.d.f (selReg c.d.g c.th.a c.th.x c.th.y)]) n t s)

/-! ## Shifts, multiply and packed decimal (R134, R135) -/

def execShl (n t : Fin 16) (s : State) : Out := .next (strand .shl Ctx.memForm n t s)
def execShr (n t : Fin 16) (s : State) : Out := .next (strand .shr Ctx.memForm n t s)
def execAsr (n t : Fin 16) (s : State) : Out := .next (strand .asr Ctx.memForm n t s)
def execRor (n t : Fin 16) (s : State) : Out := .next (strand .ror Ctx.memForm n t s)
def execMul (n t : Fin 16) (s : State) : Out := .next (strand .mul Ctx.memForm n t s)
def execDadd (n t : Fin 16) (s : State) : Out := .next (strand .dadd Ctx.memForm n t s)
def execDsub (n t : Fin 16) (s : State) : Out := .next (strand .dsub Ctx.memForm n t s)
/-- R135: DADJ writes A, N, Z and V, and with C = 1 leaves A unwritten; C and H stay. -/
def dadjRes (a : Word) (c : Bool) : List LandW :=
  let r := dadjForm a c
  if c then [.fl mNZV r.fl] else resA r mNZV
def execDadj (n t : Fin 16) (s : State) : Out :=
  .next (strand .dadj (fun c => c.fin (dadjRes c.th.a (flC c.th.fl))) n t s)

/-! ## Character instructions (R137, R138) -/

/-- R138: the data bits of CRCS that Y selects. -/
def crcsData (x y : Word) : List Bool :=
  let k := nth 0 [8, 16, 32, 1] (bits y 1 2)
  if y.getLsbD 0 then bitsUp x k else bitsDown x k

/-- R138: CRCS. -/
def crcsBody (c : Ctx) (s : State) : State :=
  let a := crcFold c.th.crccfg (c.th.y.getLsbD 0) c.th.a (crcsData c.th.x c.th.y)
  c.fin [.a a, .fl 0b000010 (flNZ a)] s

def execCrcs (n t : Fin 16) (s : State) : Out := .next (strand .crcs crcsBody n t s)
def execPar (n t : Fin 16) (s : State) : Out :=
  .next (strand .par (fun c => c.fin [.fl 0b000001 (BitVec.ofNat 6 (b2n (parity c.th.a)))]) n t s)
def execBrev (n t : Fin 16) (s : State) : Out :=
  .next (strand .brev (fun c => c.fin (resA (logicForm (bitRev c.th.a)) mNZ)) n t s)

end Sys2Proof.Machine
end

