-- ==== Sys2Proof/Machine/Firn.lean ====
section
/-! DEFINITION. The write of a register word field by field under its access codes (R9, R10, R466), and staging in Firn (R311 to
R313, R317, R324). -/
namespace Sys2Proof.Machine

/-- R311: the unit whose dirty bit a staged word sets: a slot table or Clove instruction memory as a whole, else the word. -/
def unitOf (off : Nat) : Nat :=
  if off < 0x100000 then off
  else
    let o := off % 0x10000
    let b := off - o
    if 0x800 ≤ o ∧ o < 0x900 then b + 0x800
    else if 0x4000 ≤ o ∧ o < 0x7000 then b + o / 0x400 * 0x400
    else off

/-- R433: the staged word at `off` takes its live value, and its dirty bit clears. -/
def State.unstage (s : State) (off : Nat) : State :=
  let s1 := s.setStg off (s.reg off)
  { s1 with dirty := dropIf (· == unitOf off) s1.dirty }

/-- R433: a granule of the Firn store, the words at `8 g` and `8 g + 4`, is read: what is corrected is mended, and a word that cannot be
read takes its live value. -/
def State.readFirnGran (s : State) (g : Nat) : State :=
  let (ok, s1) := s.readGran 4 g 0 (8 * g)
  if ok then s1 else ((s1.freshGrans 4 (· == g)).unstage (8 * g)).unstage (8 * g + 4)

/-- R433: a check or a commit reads the Firn store. -/
def State.readFirn (s : State) : State := (s.upsetsOf 4 fun _ => true).foldl (fun s x => s.readFirnGran x.1) s

/-- The key of the region table among the dirty units; it lies outside the window. -/
def regionUnit : Nat := 0x200000

/-- Adds a unit to the dirty list, kept rising and without repeats. -/
def dirtyAdd (u : Nat) : List Nat → List Nat
  | [] => [u]
  | d :: r => if u = d then d :: r else if u < d then u :: d :: r else d :: dirtyAdd u r

/-- R313, R317: why a write that would change a staged copy is refused now: the lock is held by another source, or the Freeze
controller is not idle. -/
def State.firnBar (s : State) (src : Src) : Option Nat :=
  if s.frz.holder ≠ 0 ∧ s.frz.holder ≠ srcCode src then some 0x0101
  else if s.frz.st ≠ .idle then some 0x0102
  else none

/-- R323: the lifetime limit of setting k. -/
def pfLimit (k : Nat) : Nat := nth 0 [64, 16, 32, 1, 8] k

/-- R323: PF_CNT[k].USED. -/
def State.pfUsed (s : State) (k : Nat) : Nat := tabGet 0 s.frz.used k

/-- R324: the lifetime counter of an RWP field: the decode table's, or that of a field of PF_SET. -/
def pfOf (off lo : Nat) : Nat := if off = 0x420 then nth 0 [3, 1, 2] lo else 0

/-- R226: the pins of a bank that the Rime lock covers. -/
def State.rimeLocked (s : State) (off : Nat) : Bool :=
  if off < 0x100000 then false
  else
    let n := (off - 0x100000) / 0x10000
    let o := off % 0x10000
    let l := (s.bank n).rimeLock
    if o = 0x124 then l != 0 else if 0x7400 ≤ o ∧ o < 0x7580 then l.getLsbD ((o - 0x7400) / 16) else false

/-- The object a field refusal names (R327): the pin of a locked pin record, the bank of a locked PAD_BANK, else none. -/
def fieldObj (off : Nat) : Word :=
  let o := off % 0x10000
  if 0x100000 ≤ off ∧ 0x7400 ≤ o ∧ o < 0x7580 then objWord 9 ((off - 0x100000) / 0x10000) ((o - 0x7400) / 16)
  else if 0x100000 ≤ off ∧ o = 0x124 then objWord 0 ((off - 0x100000) / 0x10000) 0 else 0

/-- R9, R10: the refusal of a change of one RWF field by the field's own codes. -/
def State.fieldBar (s : State) (off : Nat) (f : Fld) (v : Nat) : Option Nat :=
  match f.acc with
  | .rwfl => if s.rimeLocked off then some 0x0420 else none
  | .rwfp =>
    let k := pfOf off f.lo
    if ¬(s.frz.boot = true ∧ k = 0) ∧ pfLimit k ≤ s.pfUsed k ∧ v ≠ bits (s.reg off) f.lo (f.hi - f.lo + 1) then some 0x0801 else none
  | _ => none

/-- The field takes a write only through Firn. -/
def Acc.staged (a : Acc) : Bool := a == .rwf || a == .rwfl || a == .rwfp

/-- R311: stages one word and marks its unit dirty. -/
def State.stage (s : State) (off : Nat) (v : Word) : State :=
  let s1 := s.setStg off v
  { s1 with dirty := dirtyAdd (unitOf off) s1.dirty }

/-- R466: one RWF field of a write is staged where it differs from its staged copy. -/
def stageField (off : Nat) (v : Word) (f : Fld) (s : State) : State :=
  let len := f.hi - f.lo + 1
  let x := bits v f.lo len
  let old := s.stg off
  if x = bits old f.lo len then s else s.stage off (setBits old f.lo len x)

/-- The value a write gives a field. -/
def Fld.of (f : Fld) (v : Word) : Nat := bits v f.lo (f.hi - f.lo + 1)

/-- The RWF fields of a write (R9, R10, R311, R313, R317, R466). The spec does not say how many refusals one write gives, nor which code
comes where two apply (DESIGN CHOICE, log entry 47): a locked register gives one, 0x0420, and nothing else; each field with an exhausted
counter gives one of its own; the fields that are left and would change their staged copies give one together where Firn is barred. -/
def stageFields (src : Src) (off : Nat) (v : Word) (fs : List Fld) (s : State) : State :=
  let l := fs.filter fun f => f.acc.staged
  if s.rimeLocked off && l.any (fun f => f.acc == .rwfl) then s.refuse src off 0x0420 (fieldObj off)
  else
    let bad (f : Fld) : Bool := (s.fieldBar off f (f.of v)).isSome
    let s1 := (l.filter bad).foldl (fun s _ => s.refuse src off 0x0801 (fieldObj off)) s
    let go := l.filter fun f => !bad f && f.of v != f.of (s.stg off)
    if go = [] then s1
    else match s.firnBar src with
      | some code => s1.refuse src off code 0
      | none => go.foldl (fun s f => stageField off v f s) s1

/-- R9: the live word after the RW, W1C and W1S fields of a write. -/
def liveFields (v : Word) : List Fld → Word → Word
  | [], w => w
  | f :: r, w =>
    let len := f.hi - f.lo + 1
    let x := bits v f.lo len
    let y := bits w f.lo len
    liveFields v r (match f.acc with
      | .rw => setBits w f.lo len x
      | .w1c => setBits w f.lo len (y &&& (2 ^ len - 1 - x))
      | .w1s => setBits w f.lo len (y ||| x)
      | _ => w)

/-- R466: a write of a register whose fields have no behaviour of their own. -/
def State.writeFields (s : State) (src : Src) (off : Nat) (fs : List Fld) (v : Word) : State :=
  let s1 := s.setReg off (liveFields v fs (s.reg off))
  stageFields src off v fs s1

/-- The fields of the register at an offset; none where no chapter defines one (R11). -/
def regFields (off : Nat) : List Fld := match regAt off with
  | some (d, _) => d.fields
  | none => []

/-- The write of the word at `off` by its own field codes. -/
def State.plainWrite (s : State) (src : Src) (off : Nat) (v : Word) : State := s.writeFields src off (regFields off) v

/-- A field of the state a commit would make live: the staged word of a dirty unit, the live word elsewhere (R314). -/
def State.after (s : State) (off : Nat) : Word :=
  if s.dirty.contains (unitOf off) then
    let m := BitVec.ofNat 32 (fieldsMask Acc.staged (regFields off))
    (s.reg off &&& ~~~m) ||| (s.stg off &&& m)
  else s.reg off

/-- R311: the offsets of the words of a unit. -/
def unitWords (u : Nat) : List Nat :=
  if u = regionUnit then []
  else if 0x100000 ≤ u ∧ u % 0x10000 = 0x800 then (List.range 64).map fun i => u + 4 * i
  else if 0x100000 ≤ u ∧ 0x4000 ≤ u % 0x10000 ∧ u % 0x10000 < 0x7000 then (List.range 256).map fun i => u + 4 * i
  else [u]

/-- The words of all dirty units. -/
def State.dirtyWords (s : State) : List Nat := s.dirty.flatMap unitWords

/-- R314: the state with every dirty word and unit live, as a commit would make it. -/
def State.applied (s : State) : State :=
  let r := s.dirtyWords.foldl (fun r o => r.setReg o (s.after o)) s
  { r with regionLive := if s.dirty.contains regionUnit then s.regionStaged else s.regionLive }

/-- R317: a commit is under way, so an enable check judges both states (R307). -/
def State.committing (s : State) : Bool := match s.frz.st with
  | .idle => false
  | .checking => s.frz.commit
  | .sync => !s.frz.discard
  | _ => true

/-- R307: an enable check judges the live state and, while a commit is under way, the state it will make live. -/
def State.bothPass (bar : State → Check) (s : State) : Check := match bar s with
  | some f => some f
  | none => if s.committing then bar s.applied else none

end Sys2Proof.Machine
end

