-- ==== Sys2Proof/Machine/Sha.lean ====
section
/-! DEFINITION. SHA-384 of a byte string, which R254 takes from FIPS 180-4. -/
namespace Sys2Proof.Machine

/-- FIPS 180-4: round constants 0 to 19. -/
def shaK0 : List DWord :=
  [0x428A2F98D728AE22, 0x7137449123EF65CD, 0xB5C0FBCFEC4D3B2F, 0xE9B5DBA58189DBBC,
   0x3956C25BF348B538, 0x59F111F1B605D019, 0x923F82A4AF194F9B, 0xAB1C5ED5DA6D8118,
   0xD807AA98A3030242, 0x12835B0145706FBE, 0x243185BE4EE4B28C, 0x550C7DC3D5FFB4E2,
   0x72BE5D74F27B896F, 0x80DEB1FE3B1696B1, 0x9BDC06A725C71235, 0xC19BF174CF692694,
   0xE49B69C19EF14AD2, 0xEFBE4786384F25E3, 0x0FC19DC68B8CD5B5, 0x240CA1CC77AC9C65]

/-- FIPS 180-4: round constants 20 to 39. -/
def shaK1 : List DWord :=
  [0x2DE92C6F592B0275, 0x4A7484AA6EA6E483, 0x5CB0A9DCBD41FBD4, 0x76F988DA831153B5,
   0x983E5152EE66DFAB, 0xA831C66D2DB43210, 0xB00327C898FB213F, 0xBF597FC7BEEF0EE4,
   0xC6E00BF33DA88FC2, 0xD5A79147930AA725, 0x06CA6351E003826F, 0x142929670A0E6E70,
   0x27B70A8546D22FFC, 0x2E1B21385C26C926, 0x4D2C6DFC5AC42AED, 0x53380D139D95B3DF,
   0x650A73548BAF63DE, 0x766A0ABB3C77B2A8, 0x81C2C92E47EDAEE6, 0x92722C851482353B]

/-- FIPS 180-4: round constants 40 to 59. -/
def shaK2 : List DWord :=
  [0xA2BFE8A14CF10364, 0xA81A664BBC423001, 0xC24B8B70D0F89791, 0xC76C51A30654BE30,
   0xD192E819D6EF5218, 0xD69906245565A910, 0xF40E35855771202A, 0x106AA07032BBD1B8,
   0x19A4C116B8D2D0C8, 0x1E376C085141AB53, 0x2748774CDF8EEB99, 0x34B0BCB5E19B48A8,
   0x391C0CB3C5C95A63, 0x4ED8AA4AE3418ACB, 0x5B9CCA4F7763E373, 0x682E6FF3D6B2B8A3,
   0x748F82EE5DEFB2FC, 0x78A5636F43172F60, 0x84C87814A1F0AB72, 0x8CC702081A6439EC]

/-- FIPS 180-4: round constants 60 to 79. -/
def shaK3 : List DWord :=
  [0x90BEFFFA23631E28, 0xA4506CEBDE82BDE9, 0xBEF9A3F7B2C67915, 0xC67178F2E372532B,
   0xCA273ECEEA26619C, 0xD186B8C721C0C207, 0xEADA7DD6CDE0EB1E, 0xF57D4F7FEE6ED178,
   0x06F067AA72176FBA, 0x0A637DC5A2C898A6, 0x113F9804BEF90DAE, 0x1B710B35131C471B,
   0x28DB77F523047D84, 0x32CAAB7B40C72493, 0x3C9EBE0A15C9BEBC, 0x431D67C49C100D4C,
   0x4CC5D4BECB3E42B6, 0x597F299CFC657E2A, 0x5FCB6FAB3AD6FAEC, 0x6C44198C4A475817]

/-- FIPS 180-4: the 80 round constants of SHA-512 and SHA-384. -/
def shaK : List DWord := shaK0 ++ shaK1 ++ shaK2 ++ shaK3

/-- The eight working variables. -/
structure ShaSt where
  a : DWord
  b : DWord
  c : DWord
  d : DWord
  e : DWord
  f : DWord
  g : DWord
  h : DWord
  deriving DecidableEq, Repr

/-- FIPS 180-4: the initial hash value of SHA-384. -/
def shaInit : ShaSt :=
  ⟨0xCBBB9D5DC1059ED8, 0x629A292A367CD507, 0x9159015A3070DD17, 0x152FECD8F70E5939,
   0x67332667FFC00B31, 0x8EB44A8768581511, 0xDB0C2E0D64F98FA7, 0x47B5481DBEFA4FA4⟩

/-- FIPS 180-4: one round. -/
def shaRound (s : ShaSt) (k w : DWord) : ShaSt :=
  let t1 := s.h + (s.e.rotateRight 14 ^^^ s.e.rotateRight 18 ^^^ s.e.rotateRight 41)
    + ((s.e &&& s.f) ^^^ (~~~s.e &&& s.g)) + k + w
  let t2 := (s.a.rotateRight 28 ^^^ s.a.rotateRight 34 ^^^ s.a.rotateRight 39)
    + ((s.a &&& s.b) ^^^ (s.a &&& s.c) ^^^ (s.b &&& s.c))
  ⟨t1 + t2, s.a, s.b, s.c, s.d + t1, s.e, s.f, s.g⟩

/-- The word of the message schedule that follows the last sixteen, oldest first. -/
def shaSched (w : List DWord) : DWord :=
  let w0 := nth 0 w 0
  let w1 := nth 0 w 1
  let w9 := nth 0 w 9
  let w14 := nth 0 w 14
  (w14.rotateRight 19 ^^^ w14.rotateRight 61 ^^^ w14 >>> 6) + w9
    + (w1.rotateRight 1 ^^^ w1.rotateRight 8 ^^^ w1 >>> 7) + w0

/-- The rounds over the constants `ks`; `w` holds the next sixteen words of the schedule. -/
def shaRounds : List DWord → List DWord → ShaSt → ShaSt
  | [], _, s => s
  | k :: ks, w, s => shaRounds ks (w.drop 1 ++ [shaSched w]) (shaRound s k (nth 0 w 0))

/-- Big-endian value of a byte string. -/
def beNat (l : List Byte) : Nat := l.foldl (fun n b => n * 256 + b.toNat) 0

/-- The `k` low bytes of a number, highest first. -/
def beBytes (k x : Nat) : List Byte := (leBytes k x).reverse

/-- The sixteen words of a block. -/
def shaWords : Nat → List Byte → List DWord
  | 0, _ => []
  | k + 1, l => BitVec.ofNat 64 (beNat (l.take 8)) :: shaWords k (l.drop 8)

/-- One block of 128 bytes. -/
def shaBlock (s : ShaSt) (b : List Byte) : ShaSt :=
  let r := shaRounds shaK (shaWords 16 b) s
  ⟨s.a + r.a, s.b + r.b, s.c + r.c, s.d + r.d, s.e + r.e, s.f + r.f, s.g + r.g, s.h + r.h⟩

/-- `k` blocks from the front of a byte string. -/
def shaBlocks : Nat → List Byte → ShaSt → ShaSt
  | 0, _, s => s
  | k + 1, l, s => shaBlocks k (l.drop 128) (shaBlock s (l.take 128))

/-- FIPS 180-4: the padded message. -/
def shaPad (l : List Byte) : List Byte :=
  l ++ [0x80] ++ List.replicate ((111 + 128 - l.length % 128) % 128) 0 ++ beBytes 16 (8 * l.length)

/-- SHA-384 as its 48 bytes in order. -/
def sha384Bytes (l : List Byte) : List Byte :=
  let p := shaPad l
  let r := shaBlocks (p.length / 128) p shaInit
  beBytes 8 r.a.toNat ++ beBytes 8 r.b.toNat ++ beBytes 8 r.c.toNat ++ beBytes 8 r.d.toNat ++ beBytes 8 r.e.toNat
    ++ beBytes 8 r.f.toNat

/-- A digest from its bytes, byte 0 lowest. -/
def digestOf (l : List Byte) : Digest := BitVec.ofNat 384 (leNat l)

/-- SHA-384 as a digest, byte 0 lowest. -/
def sha384 (l : List Byte) : Digest := digestOf (sha384Bytes l)

/-- The 48 bytes of a digest in order. -/
def digestBytes (d : Digest) : List Byte := leBytes 48 d.toNat

end Sys2Proof.Machine
end

