-- ==== Sys2Proof/Machine/GuardBase.lean ====
section
/-! DEFINITION. What the Region Guard decides (R236, R241 to R244), a Clove channel's post (R200, R233, R245 to R247), and the
measured transactions of the hash lanes (R254 to R257). -/
namespace Sys2Proof.Machine

/-! ## Targets and entries -/

/-- The offset of GT_CFG[t]; GT_POL and the two GT_BIND follow. -/
def gtOff (t : Nat) : Nat := 0x31000 + t * 0x10

/-- GT_CFG.EN of a target. -/
def State.gtEn (s : State) (t : Nat) : Bool := s.bit (gtOff t) 31

/-- R236: the policy an entry gives an operation: 0 read, 1 write, 2 erase. -/
def entPol (e : BitVec 128) (op : Nat) : Nat := bits e (113 - 2 * op) 2

/-- R236: the first byte address of a region. -/
def entBase (e : BitVec 128) : Nat := bits e 0 42
/-- R236: the last byte address of a region. -/
def entLimit (e : BitVec 128) : Nat := bits e 42 42
/-- R236: the target of an entry. -/
def entTarget (e : BitVec 128) : Nat := bits e 119 8
/-- R236: the component of an entry. -/
def entComp (e : BitVec 128) : Nat := bits e 103 6

/-- The valid entries of one target, rising by index. -/
def entsOf (t : Nat) : Tab (BitVec 128) → Tab (BitVec 128)
  | [] => []
  | (i, e) :: r => if e.getLsbD 127 ∧ entTarget e = t then (i, e) :: entsOf t r else entsOf t r

/-- R241: the entry that wins at an address: the highest PRIO, then the lowest index. -/
def winner (x : Nat) : Tab (BitVec 128) → Option (Nat × BitVec 128) → Option (Nat × BitVec 128)
  | [], w => w
  | (i, e) :: r, w =>
    if entBase e ≤ x ∧ x ≤ entLimit e then
      match w with
      | none => winner x r (some (i, e))
      | some (_, f) => winner x r (if bits f 115 4 < bits e 115 4 then some (i, e) else w)
    else winner x r w

/-- R299: the code of an entry in a notice where a default decided. -/
def defaultEnt : Nat := 0x8000

/-- R241: the point policy of an address: its policy, its component and the deciding entry. -/
def pointPolicy (ents : Tab (BitVec 128)) (pol : Word) (op x : Nat) : Nat × Nat × Nat :=
  match winner x ents none with
  | some (i, e) => (entPol e op, entComp e, i)
  | none => (bits pol (30 - 2 * op) 2, bits pol 20 6, defaultEnt)

/-- A decision: the policy code, the component, the deciding entry and whether the post was out of range. -/
structure Decision where
  code : Nat
  comp : Nat
  ent : Nat
  oor : Bool
  deriving DecidableEq, Repr

/-- The addresses of a range at which the winner can change. -/
def rangePoints (lo hi : Nat) : Tab (BitVec 128) → List Nat
  | [] => [lo]
  | (_, e) :: r =>
    (if lo < entBase e ∧ entBase e ≤ hi then [entBase e] else []) ++
      (if lo ≤ entLimit e ∧ entLimit e < hi then [entLimit e + 1] else []) ++ rangePoints lo hi r

/-- R243: the most restrictive point policy, at the lowest address that has it. -/
def worst (ents : Tab (BitVec 128)) (pol : Word) (op : Nat) : List Nat → Option (Nat × Nat × Nat × Nat) →
    Option (Nat × Nat × Nat × Nat)
  | [], b => b
  | x :: r, b =>
    let (code, comp, ent) := pointPolicy ents pol op x
    match b with
    | none => worst ents pol op r (some (x, code, comp, ent))
    | some (y, code', _, _) =>
      worst ents pol op r (if code' < code ∨ (code' = code ∧ x < y) then some (x, code, comp, ent) else b)

/-- R242: the range a post covers. -/
def postRange (cfg : Word) (op a : Nat) : Nat × Nat :=
  let top := 2 ^ bits cfg 21 6 - 1
  match op with
  | 0 => (a, min (a + 2 ^ bits cfg 16 5 - 1) top)
  | 1 => let z := 2 ^ bits cfg 12 4; (a / z * z, a / z * z + z - 1)
  | _ => let z := 2 ^ bits cfg 7 5; (a / z * z, a / z * z + z - 1)

/-- R433: entry `g % 32768` of the region table lies in bank `bank`. -/
def inRegionBank (bank : Bool) (g : Nat) : Bool := g / 32768 == b2n bank

/-- R433: the lowest entry of a bank of the region table that cannot be read. -/
def State.badEntry (s : State) (bank : Bool) : Option Nat :=
  ((s.upsetsOf 2 (inRegionBank bank)).find? fun x => x.2 == 2).map fun x => x.1 % 32768

/-- R433: a bank of the region table is read: what is corrected is mended, and each error is counted and recorded. -/
def State.readRegion (s : State) (bank : Bool) : State :=
  (s.upsetsOf 2 (inRegionBank bank)).foldl (fun s x => (s.readGran 2 x.1 0 (x.1 % 32768)).2) s

/-- R239, R241 to R244, R433: the decision on an operation at an address of target t, against the live table. -/
def State.judge (s : State) (t op a : Nat) : Decision :=
  let cfg := s.reg (gtOff t)
  let pol := s.reg (gtOff t + 4)
  let size := 2 ^ bits cfg 21 6
  let oor := Nat.ble size a
  if oor && op != 2 then ⟨2, 0, defaultEnt, true⟩
  else match s.badEntry s.gd.liveBank with
  | some i => ⟨2, 0, i, oor⟩
  | none =>
    let (lo, hi) := if oor then (0, size - 1) else postRange cfg op a
    let ents := if s.gtEn t then entsOf t s.regionLive else []
    match worst ents pol op (rangePoints lo hi ents) none with
    | some (_, code, comp, ent) => ⟨code, if code = 1 then comp else 0, ent, oor⟩
    | none => ⟨2, 0, defaultEnt, oor⟩

/-! ## Channel numbers -/

/-- The number of channel c of engine e of Span n. -/
def chanKey (n e c : Nat) : Nat := (n * 12 + e) * 4 + c

/-- R188: flags of a channel with some of them set. -/
def setFlags (f mask val : BitVec 16) : BitVec 16 := (f &&& ~~~mask) ||| (val &&& mask)

/-- R201: the flags with the answers that `p` selects by their tick. -/
def Chan.land (p : Nat → Bool) (c : Chan) : Chan :=
  { c with
    flags := (c.answers.filter fun a => p a.1).foldl (fun f a => setFlags f a.2.1 a.2.2) c.flags
    answers := dropIf (fun a => p a.1) c.answers }

/-- R201: the channel with every answer landed. -/
def Chan.landed (c : Chan) : Chan := c.land fun _ => true

/-- R201: the channel as a step in tick `t` sees it. -/
def Chan.seenAt (c : Chan) (t : Nat) : Chan := c.land fun q => Nat.blt q t

/-! ## Transactions (R254 to R257) -/

def State.setMeas (s : State) (m : Meas) : State := { s with meas := m }

/-- R257: bytes of a Span's hash stream port that no lane has absorbed by tick `t`. -/
def heldBytes (n t : Nat) : List HashSeg → Nat
  | [] => 0
  | g :: r => (if g.span = n then g.count - min g.count (t - g.start) else 0) + heldBytes n t r

/-- The open transaction of a channel. -/
def openTxn (l : List Txn) (n e c : Nat) : Option Txn := l.find? fun x => x.n == n && x.e == e && x.c == c && !x.ended

/-- A transaction replaced by its new form, matched by its number. -/
def putTxn (x : Txn) : List Txn → List Txn
  | [] => []
  | y :: r => if y.id = x.id then x :: r else y :: putTxn x r

/-- R257: bytes of a transaction are dropped: its component's gap count and flag, and one HASH_GAP entry per transaction. -/
def State.dropBytes (s : State) (x : Txn) (k : Nat) : State :=
  if k = 0 then s
  else
    let m := s.meas
    let c := tabGet {} m.comps x.comp
    let x' := { x with gap := x.gap + k, gapped := true }
    let s1 := s.setMeas { m with
      txns := putTxn x' m.txns
      comps := tabSet {} m.comps x.comp { c with gap := c.gap + k, flags := c.flags ||| 1 } }
    if x.gapped then s1
    else s1.offer 0x0406 (objWord 6 0 x.target) (BitVec.ofNat 32 x.comp) (BitVec.ofNat 32 (x.gap + k))
      (BitVec.ofNat 32 (x.p8 / 8))

/-- R202, R257: a channel hands bytes to the hash stream port of its Span at tick `t`. -/
def State.hashBytes (s : State) (n e c : Nat) (l : List Byte) (t : Nat) : State :=
  match openTxn s.meas.txns n e c with
  | none => s
  | some x =>
    let m := s.meas
    let k := min l.length (2048 - heldBytes n t m.segs)
    let st := max t (tabGet 0 m.freeAt x.lane)
    let x' := { x with data := x.data ++ l.take k }
    let s1 := if k = 0 then s else s.setMeas { m with
      txns := putTxn x' m.txns
      segs := dropIf (fun g => decide (g.start + g.count ≤ t)) m.segs
        ++ [{ lane := x.lane, span := n, start := st, count := k, txn := x.id }]
      freeAt := tabSet 0 m.freeAt x.lane (st + k) }
    s1.dropBytes x' (l.length - k)

/-- R255, R257: a transaction ends; with no byte it is discarded, else it costs its lane the time of 256 bytes. -/
def endOne (t : Nat) (x : Txn) (m : Meas) : Meas :=
  if x.data = [] then { m with txns := dropIf (fun y => y.id == x.id) m.txns }
  else { m with
    txns := putTxn { x with ended := true } m.txns
    freeAt := tabSet 0 m.freeAt x.lane (max t (tabGet 0 m.freeAt x.lane) + 256) }

/-- The open transactions of a list that `p` names end. -/
def endWhere (t : Nat) (p : Txn → Bool) : List Txn → Meas → Meas
  | [], m => m
  | x :: r, m => endWhere t p r (if !x.ended && p x then endOne t x m else m)

/-- R255: the transactions that `p` names end at tick `t`. -/
def State.endTxns (s : State) (t : Nat) (p : Txn → Bool) : State := s.setMeas (endWhere t p s.meas.txns s.meas)

/-- R255: the open transaction of a channel ends. -/
def State.endTxn (s : State) (n e c t : Nat) : State := s.endTxns t fun x => x.n == n && x.e == e && x.c == c

/-- GT_POL.LANE of a target that owns a lane. -/
def State.laneOfTarget (s : State) (t : Nat) : Option Nat :=
  let pol := s.reg (gtOff t + 4)
  if s.gtEn t && pol.getLsbD 19 then some (bits pol 15 4) else none

/-- R255: an allow+measure answer opens a transaction on the posting channel. -/
def State.openTxn (s : State) (n : Nat) (q : Post) : State :=
  match s.laneOfTarget q.target with
  | none => s
  | some lane =>
    let m := s.meas
    s.setMeas { m with
      nextId := m.nextId + 1
      txns := m.txns ++ [{ id := m.nextId, n := n, e := q.e, c := q.c, target := q.target, b := q.b, addr := q.addr,
                           comp := q.comp, p8 := q.p8, lane := lane }] }

/-- R256: the order in which transactions are folded into a component. -/
def txnBefore (x y : Txn) : Bool := decide (x.p8 < y.p8) || (x.p8 == y.p8 && decide (x.b < y.b))

/-- R256: a transaction is folded into its component. -/
def foldInto (c : Comp) (x : Txn) : Comp :=
  let d := sha384Bytes x.data
  { c with
    m := sha384 (digestBytes c.m ++ d ++ leBytes 1 x.target ++ leBytes 8 x.addr ++ leBytes 4 x.data.length)
    bytes := c.bytes + x.data.length, txns := c.txns + 1, target := x.target
    flags := c.flags ||| (if x.splitIn then 2 else 0) ||| (if x.splitOut then 4 else 0) }

/-- R256, R263: the fold of a transaction, which sets BR_OPEN. -/
def Meas.fold (m : Meas) (x : Txn) : Meas :=
  { m with
    comps := tabSet {} m.comps x.comp (foldInto (tabGet {} m.comps x.comp) x)
    txns := dropIf (fun y => y.id == x.id) m.txns, brOpen := true }

/-- The first transaction of a list in the order of R256 that satisfies `p`. -/
def firstTxn (p : Txn → Bool) : List Txn → Option Txn → Option Txn
  | [], b => b
  | x :: r, b =>
    if p x then
      match b with
      | none => firstTxn p r (some x)
      | some y => firstTxn p r (if txnBefore x y then some x else b)
    else firstTxn p r b

/-! ## Posts (R200, R245 to R247) -/

def State.slice (s : State) (n : Nat) : Slice := tabGet {} s.gd.slices n
def State.setSlice (s : State) (n : Nat) (x : Slice) : State := { s with gd := { s.gd with slices := tabSet {} s.gd.slices n x } }

/-- R233: the binding of a target whose posting channel is channel c of engine e of Span n. -/
def State.postBinding (s : State) (t n e c : Nat) : Option (Nat × Word) :=
  let is (b : Nat) : Bool :=
    let w := s.reg (gtOff t + 8 + 4 * b)
    w.getLsbD 31 && bits w 27 4 == n && bits w 23 4 == e && bits w 21 2 == c
  if is 0 then some (0, s.reg (gtOff t + 8)) else if is 1 then some (1, s.reg (gtOff t + 12)) else none

/-- R200, R245 to R247: a channel posts (TARGET, ADDR, op) at an instant; `none` where GEN is 0, the target is not enabled or the
channel posts for no binding of it. -/
def State.guardPost (s : State) (n e c op p8 : Nat) : Option State :=
  let w := s.reg (chnOff n e c + 0x10)
  let t := bits w 0 8
  if !w.getLsbD 31 || !s.gtEn t then none
  else match s.postBinding t n e c with
    | none => none
    | some (b, bw) =>
      let k := chanKey n e c
      let ch := s.chan k
      let d := s.judge t op ch.addr.toNat
      let mon := s.bit (gtOff t) 30
      let fs := if mon then none else some (bits bw 16 4, bits bw 14 2)
      let q : Post := { e := e, c := c, target := t, b := b, addr := ch.addr.toNat, op := op, p8 := p8, code := d.code,
                        comp := d.comp, ent := d.ent, oor := d.oor, fside := fs, monitored := mon,
                        notify := s.bit (gtOff t + 4) 14 }
      let sl := s.slice n
      let s1 := (s.endTxn n e c (p8 / 8)).setSlice n { sl with queue := sl.queue ++ [q] }
      let s2 := s1.setChan k { s1.chan k with flags := setFlags ch.flags 0x3C0 0x040 }
      some (match fs with
        | some (fe, fc) =>
          let j := chanKey n fe fc
          let x := (s2.chan j).seenAt (p8 / 8 + 1)
          s2.setChan j { x with flags := setFlags x.flags 0x380 0 }
        | none => s2)

end Sys2Proof.Machine
end

