-- ==== Sys2Proof/Machine/Clove.lean ====
section
/-! DEFINITION. The Clove engines: step instants (R182 to R184), the bit space (R188), every Clove instruction (R189 to R204), the
FIFOs' crossings (R199) and direct program writes (R208). -/
namespace Sys2Proof.Machine

/-! ## Decoding -/

/-- R190: the mnemonics of the Clove instructions. -/
inductive ClMn where
  | nop | out | inn | set | oe | pull | pulln | push | pushn | mov | and | or | xor | jmp | wait | ldc | mvr | ldsh | dly | wrap
  | crc | gadr | gpost | hsh | irq | halt
  deriving DecidableEq, Repr

/-- R190: the bits an opcode leaves to its fields. -/
def clFields : List Nat :=
  [0, 0x07E00000, 0x07E00000, 0xFFFF, 3, 1, 1, 0x07FFFFC0, 0x07FFC0FF, 0x047FC000, 0x0400FFFF, 0x07E00000, 0x07F8FFFF, 0xFFFF,
   0xFFFF, 0x07800000, 0x07E00000, 3, 0x06000000, 0, 0]

/-- R191: a word that is reserved. -/
def clReserved (w : Word) : Bool :=
  let op := bits w 27 5
  let cond := bits w 23 4
  decide (0x14 < op) || decide (w.toNat % 2 ^ 27 &&& nth 0 clFields op ≠ w.toNat % 2 ^ 27)
    || (op == 0x11 && bits w 0 2 == 3) || (op == 0x0B && (decide (4 < bits w 24 3) || decide (4 < bits w 21 3)))
    || (op == 0x0C && decide (32 < bits w 19 6)) || (op == 0x10 && decide (32 < bits w 21 6))
    || (op == 0x08 && (decide (13 < cond) || (cond != 1 && cond != 2 && bits w 14 9 != 0)))

/-- R190: the mnemonic of a word, none where it is reserved. -/
def clMn (w : Word) : Option ClMn :=
  if clReserved w then none
  else match bits w 27 5 with
    | 0x00 => some .nop
    | 0x01 => some .out
    | 0x02 => some .inn
    | 0x03 => some .set
    | 0x04 => some .oe
    | 0x05 => some (if w.getLsbD 0 then .pulln else .pull)
    | 0x06 => some (if w.getLsbD 0 then .pushn else .push)
    | 0x07 => nth none [some .mov, some .and, some .or, some .xor] (bits w 25 2)
    | 0x08 => some .jmp
    | 0x09 => some .wait
    | 0x0A => some .ldc
    | 0x0B => some .mvr
    | 0x0C => some .ldsh
    | 0x0D => some .dly
    | 0x0E => some .wrap
    | 0x0F => some .crc
    | 0x10 => some .gadr
    | 0x11 => some .gpost
    | 0x12 => some .hsh
    | 0x13 => some .irq
    | _ => some .halt

/-! ## Steps -/

/-- The window offset of an engine's registers. -/
def ceOff (n e : Nat) : Nat := spanOff n (0x3000 + e * 0x100)

/-- R182: the instant of an engine's next step in 1/256 tick. -/
def State.stepAt (s : State) (n e : Nat) : Nat :=
  let g := s.engine (n * 12 + e)
  256 * g.origin + g.k * s.fld (ceOff n e + 4) 0 24

/-- R184: the schedule entry of an engine's next step. -/
def State.schedPos (s : State) (n e : Nat) : Nat := (s.engine (n * 12 + e)).k % (s.fld (ceOff n e) 16 4 + 1)

/-- R184: the channel that an engine's next step serves. -/
def State.schedChan (s : State) (n e : Nat) : Nat := bits (s.reg (ceOff n e + 8)) (2 * s.schedPos n e) 2

/-- CHN_CFG.EN of a channel. -/
def State.chnEn (s : State) (n e c : Nat) : Bool := s.bit (chnOff n e c) 31

/-- R188: the flags of a channel as CHN_STS[15:0]. -/
def State.chFlags (s : State) (n e c : Nat) (ch : Chan) : BitVec 16 :=
  setFlags ch.flags 0x31 (BitVec.ofNat 16 (b2n (s.chnEn n e c || ch.stopping) + 16 * b2n ch.inF.isEmpty
    + 32 * b2n (Nat.ble 8 ch.outF.length)))

/-- R199: the flags as a step in tick `t` sees them: a word that entered the in FIFO in that tick is not seen. -/
def State.stepFlags (s : State) (n e c t : Nat) (ch : Chan) : BitVec 16 :=
  setFlags (s.chFlags n e c ch) 0x10 (if (ch.inF.any fun p => decide (p.2 < t)) then 0 else 0x10)

/-- What a step of a channel knows. -/
structure CCtx where
  n : Nat
  e : Nat
  c : Nat
  /-- The step's instant in eighths of a tick. -/
  p8 : Nat
  w : Word
  /-- The pad levels as the input buffers deliver them (R218). -/
  pins : BitVec 24
  /-- The channel as it stood after its previous step (R187). -/
  ch : Chan

def CCtx.key (x : CCtx) : Nat := chanKey x.n x.e x.c
def CCtx.tick (x : CCtx) : Nat := x.p8 / 8

/-- R188: the bit space of a channel, with the pad levels `pins`. -/
def State.bitVar (s : State) (n e c : Nat) (flags : BitVec 16) (ch : Chan) (pins : BitVec 24) (a : Nat) : Bool :=
  if a < 24 then pins.getLsbD a
  else if a = 25 then true
  else if a < 32 then false
  else if a < 64 then ch.sh.getLsbD (a - 32)
  else if a < 80 then flags.getLsbD (a - 64)
  else if a = 80 then ch.cntA == 0
  else if a = 81 then ch.cntB == 0
  else if a < 96 then false
  else if a < 112 then
    let j := (a - 96) / 4
    ((if j = c then ch else s.chan (chanKey n e j)).flags).getLsbD (12 + (a - 96) % 4)
  else if a < 256 then false
  else ch.gen.getLsbD (a - 256)

/-- A bit as a source of an instruction. -/
def CCtx.bit (x : CCtx) (s : State) (a : Nat) : Bool :=
  s.bitVar x.n x.e x.c (s.stepFlags x.n x.e x.c x.tick x.ch) x.ch x.pins a

/-- R204: a source of the channel's event: it becomes pending once, and is raised in the channel's thread. -/
def State.cloveEvent (s : State) (n e c src : Nat) : State :=
  let cfg := s.reg (chnOff n e c)
  let k := chanKey n e c
  let ch := s.chan k
  if !cfg.getLsbD (16 + src) || ch.evPend then s
  else (s.setChan k { ch with evPend := true }).raiseEv (n * 16 + bits cfg 20 4) 0x12 (e * 4 + c)

/-- R204: the events of ERR and STALE going from 0 to 1 between two values of the flags. -/
def State.flagEvents (s : State) (n e c : Nat) (old new : BitVec 16) : State :=
  let s1 := if !old.getLsbD 10 && new.getLsbD 10 then s.cloveEvent n e c 2 else s
  if !old.getLsbD 2 && new.getLsbD 2 then s1.cloveEvent n e c 3 else s1

/-- A channel writes its new form; changes of ERR and STALE raise their events. -/
def CCtx.put (x : CCtx) (s : State) (ch : Chan) : State :=
  (s.setChan x.key ch).flagEvents x.n x.e x.c (s.chan x.key).flags ch.flags

/-- The flags with ERR set. -/
def errSet (f : BitVec 16) : BitVec 16 := f ||| 0x400

/-- R433: the granule of engine e's live instruction bank that holds word `pc`, and its byte address in the memory (DESIGN CHOICE, log
entry 31). -/
def State.clGran (s : State) (n e pc : Nat) : Nat := (n * 12 + e) * 256 + 128 * b2n (s.engine (n * 12 + e)).ibank + pc % 256 / 2

/-- R433: the step's read of the word at `pc`: whether it is good, and the state after. -/
def State.clRead (s : State) (n e pc : Nat) : Bool × State :=
  let g := s.clGran n e pc
  s.readGran 1 g n (g % 3072 * 8)

/-- R433: the word at `pc` cannot be read. -/
def State.clBad (s : State) (n e pc : Nat) : Bool := tabGet 0 s.upset (upKey 1 (s.clGran n e pc)) == 2

/-- The live word at a channel's PC. -/
def State.clWord (s : State) (n e pc : Nat) : Word := s.reg (spanOff n (0x4000 + e * 0x400 + 4 * (pc % 256)))

/-- R189: the PC after a completed instruction that did not jump. -/
def nextPc (ch : Chan) : Nat := if ch.pc = ch.rwe then ch.rwb else (ch.pc + 1) % 256

/-- The engine takes its step: the step counter moves on, and the channel notes the levels it captured. -/
def State.stepped (s : State) (n e : Nat) : State :=
  let g := s.engine (n * 12 + e)
  s.setEngine (n * 12 + e) { g with k := g.k + 1 }

/-- R196: SHCNT at a boundary of BOUND. -/
def atBoundary (bound cnt : Nat) : Bool := cnt % nth 1 [1, 8, 16, 32] bound == 0

/-- R209: the words of an engine whose change changes the engine. -/
def engWords (n e : Nat) : List Nat :=
  [ceOff n e, ceOff n e + 4, ceOff n e + 8] ++
    (List.range 4).flatMap fun c => [0, 4, 8, 0xC, 0x10, 0x14].map fun d => chnOff n e c + d

/-- R209: a commit changes the engine. -/
def State.engChanges (s : State) (n e : Nat) : Bool :=
  s.dirty.contains (spanOff n (0x4000 + e * 0x400)) || (engWords n e).any fun o => s.dirty.contains o && s.after o != s.reg o

/-- R390: a channel that a cascade drain holds at a boundary. -/
def State.drainHeld (s : State) (n e c : Nat) (ch : Chan) : Bool := match s.casc.frz with
  | some z => (match z.f0 with
    | some f => decide (f ≤ s.stepAt n e / 256) && atBoundary (s.fld (chnOff n e c) 28 2) ch.shcnt && s.engChanges n e
    | none => false)
  | none => false

/-- A channel can execute an instruction at its step (R184, R190, R207, R390, R441). -/
def State.chRuns (s : State) (n e c : Nat) (ch : Chan) : Bool :=
  s.chnEn n e c && !ch.stopping && !ch.flags.getLsbD 11 && ch.dly == 0 && !ch.dbgHalt && !s.drainHeld n e c ch

/-! ## Before and after a switch instant (R210, R211, R222, R246) -/

/-- R211: every enabled channel of every engine that the commit changes, unless halted, is at a boundary. -/
def State.drainedNow (s : State) : Bool :=
  (List.range 192).all fun q =>
    let n := q / 12
    let e := q % 12
    !s.engChanges n e || (List.range 4).all fun c =>
      let ch := s.chan (chanKey n e c)
      !s.chnEn n e c || ch.flags.getLsbD 11 || atBoundary (s.fld (chnOff n e c) 28 2) ch.shcnt

/-- The tick of the last step an engine took; none before its first. -/
def State.lastStep (s : State) (k : Nat) : Option Nat :=
  let g := s.engine k
  if g.running && g.k != 0 then some ((256 * g.origin + (g.k - 1) * s.fld (ceOff (k / 12) (k % 12) + 4) 0 24) / 256) else none

/-- R211: the first tick at which the waited channels stand as they do now. -/
def State.drainTick (s : State) : Nat :=
  s.engines.foldl (fun m x => match s.lastStep x.1 with
    | some t => if s.engChanges (x.1 / 12) (x.1 % 12) then max m (t + 1) else m
    | none => m) s.frz.drainLow

/-- Every step before tick `t` of the engines of the Spans that `p` selects has been taken. -/
def State.steppedTo (s : State) (p : Nat → Bool) (t : Nat) : Bool :=
  s.engines.all fun x => !(s.pinLogic (x.1 / 12) && x.2.running && p x.1) || Nat.ble t (s.stepAt (x.1 / 12) (x.1 % 12) / 256)

/-- R222: every entry before tick `t` in the timed queues of the Spans that `p` selects has been taken. -/
def State.queuedTo (s : State) (p : Nat → Bool) (t : Nat) : Bool :=
  s.ports.all fun x => !(s.pinLogic (x.1 / 32) && p (x.1 / 32)) || x.2.queue.all fun q => Nat.ble t q.ktick

/-- R211: the drain ends at tick `t` or before it. -/
def State.drainsBy (s : State) (t : Nat) : Bool := s.drainedNow && Nat.ble s.drainTick t

/-- R210, R211, R222, R246: what falls at tick `t` comes before the commit tick. While a drain runs that is known once the engines that
the commit changes have taken their steps before `t`. -/
def State.beforeApply (s : State) (t : Nat) : Bool := match s.frz.st with
  | .armed => s.clk.lfMode || Nat.blt t s.frz.tick
  | .draining => s.clk.lfMode || (!s.drainsBy t && s.steppedTo (fun k => s.engChanges (k / 12) (k % 12)) t)
  | _ => true

/-- R222, R224: what falls in bank n at tick `t` comes before every direct write in the crossing. -/
def State.beforeDirect (s : State) (n t : Nat) : Bool := (s.bank n).direct.all fun d => Nat.blt t d.2.2

/-- R63: a guard on engine e waits to see the engine as it is before the step at `at_`, in 1/256 tick. -/
def State.guardWaits (s : State) (n e at_ : Nat) : Bool :=
  s.ports.any fun x => x.1 / 32 == n && x.2.queue.any fun q =>
    q.guard.getLsbD 31 && (bits q.guard 28 2 == 1 || bits q.guard 28 2 == 2) && bits q.guard 20 4 == e && Nat.ble (q.ktick * 256) at_

/-- The engine steps, and its next step is due. -/
def State.engineDue (s : State) (n e : Nat) : Bool :=
  let a := s.stepAt n e
  s.pinLogic n && (s.engine (n * 12 + e)).running && Nat.ble (a / 256) s.clk.tb && s.beforeApply (a / 256) && s.beforeDirect n (a / 256)
    && !s.guardWaits n e a

/-- The context of an engine's next step. -/
def State.cctx (s : State) (n e : Nat) (pins : BitVec 24) : CCtx :=
  let c := s.schedChan n e
  let at8 := s.stepAt n e / 32
  let ch := (s.chan (chanKey n e c)).seenAt (at8 / 8)
  { n := n, e := e, c := c, p8 := at8, w := s.clWord n e ch.pc, pins := pins &&& s.ieMask n, ch := ch }

/-- R193: the instruction stalls: no effect, STALL set. -/
def CCtx.stall (x : CCtx) (s : State) : State := s.setChan x.key { x.ch with flags := x.ch.flags ||| 2, pins := x.pins }

/-- R433: the instruction word cannot be read: nothing executes, and the channel halts with ERR. -/
def CCtx.unread (x : CCtx) (s : State) : State :=
  let s1 := (s.clRead x.n x.e x.ch.pc).2.setChan x.key { x.ch with pins := x.pins }
  let s2 := x.put s1 { x.ch with flags := errSet x.ch.flags ||| 0x800, pins := x.pins, dbgStep := false }
  (if x.ch.dbgStep then s2.dbgEnd 0 else s2).stepped x.n x.e

/-- The next step of engine e executes an instruction `mn` of the channel it serves. `stalls` is the instruction's stall condition
and `body` its effect and the next PC, none for the PC in sequence. Nothing happens where the step is not due or the channel's next
instruction is another. A word that cannot be read acts as a NOP that halts (R433). -/
def clove (mn : ClMn) (stalls : CCtx → State → Bool) (body : CCtx → State → State × Option Nat) (n e : Nat) (pins : BitVec 24)
    (start : State) : State :=
  let x := start.cctx n e pins
  let s := (start.clRead n e x.ch.pc).2
  if !start.engineDue n e || !start.chRuns n e x.c x.ch then start
  else if start.clBad n e x.ch.pc then (if mn = .nop then x.unread start else start)
  else if clMn x.w != some mn then start
  else if stalls x s then (x.stall s).stepped n e
  else
    let (s1, j) := body x (s.setChan x.key { x.ch with pins := x.pins })
    let ch := s1.chan x.key
    let s2 := s1.setChan x.key { ch with
      pc := j.getD (nextPc ch), flags := (ch.flags &&& ~~~2) ||| (if ch.dbgStep then 0x800 else 0), dbgStep := false }
    (if ch.dbgStep then s2.dbgEnd 0 else s2).stepped n e

/-- No stall. -/
def never (_ : CCtx) (_ : State) : Bool := false

/-- An effect that goes on in sequence. -/
def onward (f : CCtx → State → State) (x : CCtx) (s : State) : State × Option Nat := (f x s, none)

/-! ## Effects -/

/-- R186: the group width of a channel. -/
def State.groupWidth (s : State) (n e c : Nat) : Nat := s.fld (chnOff n e c) 0 3 + 1

/-- R186: the pins of a channel's group. -/
def State.groupMask (s : State) (n e c : Nat) : BitVec 24 :=
  BitVec.ofNat 24 ((2 ^ s.groupWidth n e c - 1) <<< s.fld (chnOff n e c) 8 5)

/-- R186, R194: latch writes of group bits: `m` and `v` by group bit; bits past the group are not driven. -/
def CCtx.drive (x : CCtx) (m v : Nat) (s : State) : State :=
  let b := s.fld (chnOff x.n x.e x.c) 8 5
  s.writeClove x.n x.e (BitVec.ofNat 24 (m <<< b) &&& s.groupMask x.n x.e x.c) (BitVec.ofNat 24 (v <<< b)) 0 0

/-- R194: n bits from bit o of the group reach past its width. -/
def CCtx.pastGroup (x : CCtx) (s : State) (n o : Nat) : Bool := Nat.blt (s.groupWidth x.n x.e x.c) (o + n)

/-- CHN_CFG.SHDIR: least significant bit first. -/
def CCtx.lsb (x : CCtx) (s : State) : Bool := s.bit (chnOff x.n x.e x.c) 30

/-- R194: the `n` bits that an out drives, as group bits o .. o + n − 1 from bit 0 up. -/
def outBits (lsb : Bool) (sh : Word) (n : Nat) : Nat := if lsb then bits sh 0 n else bits sh (32 - n) n

/-- R194: out n, @o. -/
def outBody (x : CCtx) (s : State) : State :=
  let n := bits x.w 24 3 + 1
  let o := bits x.w 21 3
  let ch := s.chan x.key
  let s1 := x.drive ((2 ^ n - 1) <<< o) (outBits (x.lsb s) x.ch.sh n <<< o) s
  x.put s1 { ch with
    sh := if x.lsb s then x.ch.sh >>> n else x.ch.sh <<< n, shcnt := x.ch.shcnt - n
    flags := if x.pastGroup s n o then errSet ch.flags else ch.flags }
def execCloveOut (n : Fin 16) (e : Fin 12) (pins : BitVec 24) (s : State) : Out :=
  .next (clove .out never (onward outBody) n e pins s)

/-- R194: in n, @o. -/
def inBody (x : CCtx) (s : State) : State :=
  let n := bits x.w 24 3 + 1
  let o := bits x.w 21 3
  let ch := s.chan x.key
  let grp := bits x.pins (s.fld (chnOff x.n x.e x.c) 8 5) (s.groupWidth x.n x.e x.c)
  let v := grp / 2 ^ o % 2 ^ n
  x.put s { ch with
    sh := if x.lsb s then (x.ch.sh >>> n) ||| BitVec.ofNat 32 (v <<< (32 - n)) else (x.ch.sh <<< n) ||| BitVec.ofNat 32 v
    shcnt := min 32 (x.ch.shcnt + n)
    flags := if x.pastGroup s n o then errSet ch.flags else ch.flags }
def execCloveIn (n : Fin 16) (e : Fin 12) (pins : BitVec 24) (s : State) : Out :=
  .next (clove .inn never (onward inBody) n e pins s)

def execCloveNop (n : Fin 16) (e : Fin 12) (pins : BitVec 24) (s : State) : Out :=
  .next (clove .nop never (onward fun _ s => s) n e pins s)
def execCloveSet (n : Fin 16) (e : Fin 12) (pins : BitVec 24) (s : State) : Out :=
  .next (clove .set never (onward fun x => x.drive (bits x.w 8 8) (bits x.w 0 8)) n e pins s)

/-- R186, R190: oe sets the output enable of every pin of one mask. -/
def oeBody (x : CCtx) (s : State) : State :=
  let m := BitVec.ofNat 24 (s.reg (chnOff x.n x.e x.c + (if x.w.getLsbD 1 then 0xC else 8))).toNat
  s.writeClove x.n x.e 0 0 m (if x.w.getLsbD 0 then m else 0)
def execCloveOe (n : Fin 16) (e : Fin 12) (pins : BitVec 24) (s : State) : Out :=
  .next (clove .oe never (onward oeBody) n e pins s)

/-- The in FIFO is empty as the step sees it (R199). -/
def inEmpty (x : CCtx) (s : State) : Bool := (s.stepFlags x.n x.e x.c x.tick x.ch).getLsbD 4

/-- R197: the oldest word of the in FIFO moves to SH. -/
def takeIn (x : CCtx) (s : State) : State :=
  let ch := s.chan x.key
  match ch.inF with
  | (w, _) :: r => x.put s { ch with inF := r, sh := w, lastIn := w, shcnt := 32, flags := ch.flags &&& ~~~4 }
  | [] => s
/-- R197: STALE is set and counted; SH takes the last word again. -/
def staleIn (x : CCtx) (s : State) : State :=
  let ch := s.chan x.key
  x.put s { ch with sh := ch.lastIn, shcnt := 32, flags := ch.flags ||| 4, staleCnt := satInc 0xFFFF ch.staleCnt }
def execClovePull (n : Fin 16) (e : Fin 12) (pins : BitVec 24) (s : State) : Out :=
  .next (clove .pull inEmpty (onward takeIn) n e pins s)
def execClovePulln (n : Fin 16) (e : Fin 12) (pins : BitVec 24) (s : State) : Out :=
  .next (clove .pulln never (onward fun x s => if inEmpty x s then staleIn x s else takeIn x s) n e pins s)

/-- The out FIFO is full (R198, R199). -/
def outFull (x : CCtx) (_ : State) : Bool := Nat.ble 8 x.ch.outF.length

/-- R198: SH enters the out FIFO. -/
def putOut (x : CCtx) (s : State) : State :=
  let ch := s.chan x.key
  x.put s { ch with outF := ch.outF ++ [ch.sh], shcnt := 0, flags := ch.flags &&& ~~~4 }
/-- R198: SH replaces the newest word of a full out FIFO. -/
def staleOut (x : CCtx) (s : State) : State :=
  let ch := s.chan x.key
  x.put s { ch with
    outF := ch.outF.dropLast ++ [ch.sh], shcnt := 0, flags := ch.flags ||| 4, staleCnt := satInc 0xFFFF ch.staleCnt }
def execClovePush (n : Fin 16) (e : Fin 12) (pins : BitVec 24) (s : State) : Out :=
  .next (clove .push outFull (onward putOut) n e pins s)
def execClovePushn (n : Fin 16) (e : Fin 12) (pins : BitVec 24) (s : State) : Out :=
  .next (clove .pushn never (onward fun x s => if outFull x s then staleOut x s else putOut x s) n e pins s)

/-- R188: a bit as a destination that is read: an output latch for a pin. -/
def CCtx.dstBit (x : CCtx) (s : State) (a : Nat) : Bool := if a < 24 then (s.bank x.n).cv.getLsbD a else x.bit s a

/-- R188: the flags a program may write. -/
def flagWritable (a : Nat) : Bool := a == 66 || a == 67 || a == 74 || (Nat.ble 76 a && Nat.ble a 79)

/-- R188: writes a bit; a bit that is not writable keeps its value and sets ERR. -/
def CCtx.setBit (x : CCtx) (s : State) (a : Nat) (v : Bool) : State :=
  let ch := s.chan x.key
  if a < 24 then
    if (s.groupMask x.n x.e x.c).getLsbD a then
      s.writeClove x.n x.e (1#24 <<< a) (if v then 1#24 <<< a else 0) 0 0
    else x.put s { ch with flags := errSet ch.flags }
  else if 32 ≤ a ∧ a < 64 then x.put s { ch with sh := setBits ch.sh (a - 32) 1 (b2n v) }
  else if flagWritable a then x.put s { ch with flags := setBits ch.flags (a - 64) 1 (b2n v) }
  else if 256 ≤ a then x.put s { ch with gen := setBits ch.gen (a - 256) 1 (b2n v) }
  else x.put s { ch with flags := errSet ch.flags }

/-- R190: mov, and, or and xor: dst := f dst src, with src inverted if inv = 1. -/
def bitBody (f : Bool → Bool → Bool) (x : CCtx) (s : State) : State :=
  let dst := bits x.w 15 9
  x.setBit s dst (f (x.dstBit s dst) (x.bit s (bits x.w 6 9) != x.w.getLsbD 24))
def execCloveMov (n : Fin 16) (e : Fin 12) (pins : BitVec 24) (s : State) : Out :=
  .next (clove .mov never (onward (bitBody fun _ b => b)) n e pins s)
def execCloveAnd (n : Fin 16) (e : Fin 12) (pins : BitVec 24) (s : State) : Out :=
  .next (clove .and never (onward (bitBody fun a b => a && b)) n e pins s)
def execCloveOr (n : Fin 16) (e : Fin 12) (pins : BitVec 24) (s : State) : Out :=
  .next (clove .or never (onward (bitBody fun a b => a || b)) n e pins s)
def execCloveXor (n : Fin 16) (e : Fin 12) (pins : BitVec 24) (s : State) : Out :=
  .next (clove .xor never (onward (bitBody fun a b => a != b)) n e pins s)

/-- R192: the condition of a jmp. -/
def CCtx.cond (x : CCtx) (s : State) : Bool :=
  let f := s.stepFlags x.n x.e x.c x.tick x.ch
  match bits x.w 23 4 with
  | 0x0 => true
  | 0x1 => !x.bit s (bits x.w 14 9)
  | 0x2 => x.bit s (bits x.w 14 9)
  | 0x3 => x.ch.cntA != 0
  | 0x4 => x.ch.cntB != 0
  | 0x5 => x.ch.shcnt == 0
  | 0x6 => x.ch.shcnt == 32
  | 0x7 => atBoundary (s.fld (chnOff x.n x.e x.c) 28 2) x.ch.shcnt
  | 0x8 => !f.getLsbD 4
  | 0x9 => !f.getLsbD 5
  | 0xA => x.ch.cntA == 0
  | 0xB => x.ch.cntB == 0
  | 0xC => bits x.ch.sh 0 8 == bits x.ch.cntB 0 8
  | 0xD => bits x.ch.sh 0 8 != bits x.ch.cntB 0 8
  | _ => false

/-- R192: jmp and the counts it takes. -/
def jmpBody (x : CCtx) (s : State) : State × Option Nat :=
  let ch := s.chan x.key
  if x.cond s then
    (s.setChan x.key { ch with
      cntA := if bits x.w 23 4 = 3 then ch.cntA - 1 else ch.cntA
      cntB := if bits x.w 23 4 = 4 then ch.cntB - 1 else ch.cntB }, some (bits x.w 0 8))
  else (s, none)
def execCloveJmp (n : Fin 16) (e : Fin 12) (pins : BitVec 24) (s : State) : Out :=
  .next (clove .jmp never jmpBody n e pins s)

/-- wait completes when its bit has its value, and stalls while it has not. -/
def execCloveWait (n : Fin 16) (e : Fin 12) (pins : BitVec 24) (s : State) : Out :=
  .next (clove .wait (fun x s => x.bit s (bits x.w 14 9) != x.w.getLsbD 26) (onward fun _ s => s) n e pins s)

/-- An effect on the channel alone. -/
def chanBody (f : Word → Chan → Chan) (x : CCtx) (s : State) : State := x.put s (f x.w (s.chan x.key))

def execCloveLdc (n : Fin 16) (e : Fin 12) (pins : BitVec 24) (s : State) : Out :=
  .next (clove .ldc never (onward (chanBody fun w ch =>
    if w.getLsbD 26 then { ch with cntB := w.truncate 16 } else { ch with cntA := w.truncate 16 })) n e pins s)

/-- R190: a register of mvr as a source. -/
def mvrGet (ch : Chan) (k : Nat) : Word :=
  match k with
  | 0 => ch.sh
  | 1 => ch.cntA.zeroExtend 32
  | 2 => ch.cntB.zeroExtend 32
  | 3 => ch.crcv
  | _ => BitVec.ofNat 32 ch.shcnt

/-- R190: a register of mvr as a destination. -/
def mvrSet (ch : Chan) (k : Nat) (v : Word) : Chan :=
  match k with
  | 0 => { ch with sh := v }
  | 1 => { ch with cntA := v.truncate 16 }
  | 2 => { ch with cntB := v.truncate 16 }
  | 3 => { ch with crcv := v }
  | _ => { ch with shcnt := min 32 v.toNat }

def execCloveMvr (n : Fin 16) (e : Fin 12) (pins : BitVec 24) (s : State) : Out :=
  .next (clove .mvr never (onward (chanBody fun w ch => mvrSet ch (bits w 24 3) (mvrGet ch (bits w 21 3)))) n e pins s)
def execCloveLdsh (n : Fin 16) (e : Fin 12) (pins : BitVec 24) (s : State) : Out :=
  .next (clove .ldsh never (onward (chanBody fun w ch => { ch with
    sh := if w.getLsbD 26 then setBits ch.sh 16 16 (bits w 0 16) else setBits ch.sh 0 16 (bits w 0 16)
    shcnt := if w.getLsbD 25 then bits w 19 6 else ch.shcnt })) n e pins s)
/-- dly n: the channel's next n own steps do nothing. -/
def execCloveDly (n : Fin 16) (e : Fin 12) (pins : BitVec 24) (s : State) : Out :=
  .next (clove .dly never (onward (chanBody fun w ch => { ch with dly := bits w 0 16 })) n e pins s)
def execCloveWrap (n : Fin 16) (e : Fin 12) (pins : BitVec 24) (s : State) : Out :=
  .next (clove .wrap never (onward (chanBody fun w ch => { ch with rwb := bits w 8 8, rwe := bits w 0 8 })) n e pins s)

/-- R195: the input-end value of j bits. -/
def inputEnd (lsb : Bool) (sh : Word) (j : Nat) : Nat := if lsb then bits sh (32 - j) j else bits sh 0 j

/-- R195, R203: the bits that crc folds, in their order. -/
def crcBits (lsb side : Bool) (sh : Word) (n : Nat) : List Bool :=
  let v := BitVec.ofNat 32 (if side then outBits lsb sh n else inputEnd lsb sh n)
  if lsb then bitsUp v n else bitsDown v n

/-- R203: crc n, side. -/
def crcBody (x : CCtx) (s : State) : State :=
  let ch := s.chan x.key
  let poly := s.reg (chnOff x.n x.e x.c + 0x14)
  if poly = 0 then x.put s { ch with flags := errSet ch.flags }
  else s.setChan x.key { ch with
    crcv := crcFold poly (s.bit (chnOff x.n x.e x.c) 27) x.ch.crcv
      (crcBits (x.lsb s) (x.w.getLsbD 23) x.ch.sh (bits x.w 24 3 + 1)) }
def execCloveCrc (n : Fin 16) (e : Fin 12) (pins : BitVec 24) (s : State) : Out :=
  .next (clove .crc never (onward crcBody) n e pins s)

/-- R190: gadr n. -/
def gadrBody (x : CCtx) (s : State) : State :=
  let n := bits x.w 21 6
  let ch := s.chan x.key
  s.setChan x.key { ch with
    addr := if n = 0 then 0 else (x.ch.addr <<< n) ||| BitVec.ofNat 42 (inputEnd (x.lsb s) x.ch.sh n) }
def execCloveGadr (n : Fin 16) (e : Fin 12) (pins : BitVec 24) (s : State) : Out :=
  .next (clove .gadr never (onward gadrBody) n e pins s)

/-- R200, R255: gpost hands the post to the Guard, or sets ERR; an open transaction of the channel ends in either case. -/
def gpostBody (x : CCtx) (s : State) : State :=
  match s.guardPost x.n x.e x.c (bits x.w 0 2) x.p8 with
  | some s1 => s1
  | none =>
    let s1 := s.endTxn x.n x.e x.c x.tick
    let ch := s1.chan x.key
    x.put s1 { ch with flags := errSet ch.flags }
/-- gpost stalls while GPEND = 1. -/
def execCloveGpost (n : Fin 16) (e : Fin 12) (pins : BitVec 24) (s : State) : Out :=
  .next (clove .gpost (fun x _ => x.ch.flags.getLsbD 6) (onward gpostBody) n e pins s)

/-- R202: hsh n sends the bytes of the input-end value in arrival order. -/
def hshBody (x : CCtx) (s : State) : State :=
  let n := bits x.w 25 2 + 1
  let l := leBytes n (inputEnd (x.lsb s) x.ch.sh (8 * n))
  if x.ch.flags.getLsbD 9 && s.bit (chnOff x.n x.e x.c + 0x10) 31 then
    s.hashBytes x.n x.e x.c (if x.lsb s then l else l.reverse) x.tick
  else s
def execCloveHsh (n : Fin 16) (e : Fin 12) (pins : BitVec 24) (s : State) : Out :=
  .next (clove .hsh never (onward hshBody) n e pins s)

def execCloveIrq (n : Fin 16) (e : Fin 12) (pins : BitVec 24) (s : State) : Out :=
  .next (clove .irq never (onward fun x s => s.cloveEvent x.n x.e x.c 0) n e pins s)
/-- halt: the channel takes no further step. -/
def execCloveHalt (n : Fin 16) (e : Fin 12) (pins : BitVec 24) (s : State) : Out :=
  .next (clove .halt never (onward fun x s =>
    let ch := s.chan x.key
    (s.setChan x.key { ch with flags := ch.flags ||| 0x800 }).cloveEvent x.n x.e x.c 1) n e pins s)

/-! ## Steps without an instruction -/

/-- R161: the enabled channel end bound to a channel, in direction `out`. -/
def State.boundEnd (s : State) (n e c : Nat) (out : Bool) : Option Nat :=
  findBelow 128 fun k =>
    let cfg := s.reg (spanOff n (0x1000 + k * 0x20))
    let peer := s.reg (spanOff n (0x1004 + k * 0x20))
    cfg.getLsbD 31 && cfg.getLsbD 30 == out && bits cfg 27 3 == 1 && bits peer 2 4 == e && bits peer 0 2 == c

/-- R211: a channel that a drain may wait for is no longer enabled from tick `t` on. -/
def State.noteDrain (s : State) (t : Nat) : State :=
  if s.frz.st = .draining then { s with frz := { s.frz with drainLow := max s.frz.drainLow t } } else s

/-- R207: a disable takes effect: the in FIFO is emptied into DROPS of the bound output end, an open transaction ends (R255), and
state is kept. -/
def State.chanOff (s : State) (n e c t : Nat) : State :=
  let k := chanKey n e c
  let ch := s.chan k
  let s1 := match s.boundEnd n e c true with
    | some j => s.addDrops (n * 128 + j) ch.inF.length
    | none => s
  ((s1.setChan k { ch with inF := [], stopping := false, dbgHalt := false, dbgStep := false }).endTxn n e c t).noteDrain t

/-- A step that executes no instruction: its channel is disabled, halted or in dly (R184, R190), or a disable takes effect
(R207). -/
def cloveIdle (n e : Nat) (pins : BitVec 24) (s : State) : State :=
  let x := s.cctx n e pins
  if !s.engineDue n e || s.chRuns n e x.c x.ch then s
  else
    let ch := { x.ch with
      pins := if s.chnEn n e x.c then x.pins else x.ch.pins
      dly := if s.chnEn n e x.c && !x.ch.stopping && !x.ch.flags.getLsbD 11 && !x.ch.dbgHalt && !s.drainHeld n e x.c x.ch then x.ch.dly - 1 else x.ch.dly }
    let s1 := if ch.dbgHalt && !ch.stopping then
        (s.setChan x.key { ch with flags := ch.flags ||| 0x800, dbgHalt := false }).dbgEnd 0
      else s.setChan x.key ch
    (if ch.stopping then s1.chanOff n e x.c x.tick else s1).stepped n e
def execCloveIdleStep (n : Fin 16) (e : Fin 12) (pins : BitVec 24) (s : State) : Out := .next (cloveIdle n e pins s)

/-! ## Direct program writes (R208) -/

/-- CE_STS.RUNNING: the engine is stepping. -/
def State.ceRunning (s : State) (n e : Nat) : Bool := (s.engine (n * 12 + e)).running && s.pinLogic n

/-- R208: a write of CE_IMD_DATA. The word merges into its granule, which is read (R434). -/
def imdWrite (src : Src) (n e : Nat) (v : Word) (s : State) : State :=
  let off := ceOff n e + 0x14
  let g := s.engine (n * 12 + e)
  let a := s.fld (ceOff n e + 0x10) 0 8
  if s.ceRunning n e || s.chnEn n e 0 || s.chnEn n e 1 || s.chnEn n e 2 || s.chnEn n e 3 then
    let s1 := s.setEngine (n * 12 + e) { g with drej := satInc 0xFFFF g.drej }
    (s1.refuse src off 0x050A (objWord 3 n (e * 4))).offer 0x0301 (objWord 3 n (e * 4))
      (BitVec.ofNat 32 (satInc 0xFFFF g.drej)) (BitVec.ofNat 32 a) 0
  else if clReserved v then s.refuse src off 0x0501 (objWord 0xD n (e * 256 + a))
  else ((s.clRead n e a).2.setReg (spanOff n (0x4000 + e * 0x400 + 4 * a)) v).setReg (ceOff n e + 0x10) (BitVec.ofNat 32 ((a + 1) % 256))
def execCeImdData (src : Src) (n : Fin 16) (e : Fin 12) (v : Word) (s : State) : Out :=
  .next (s.via src fun s => s.gate n (imdWrite src n e v))

end Sys2Proof.Machine
end

