-- ==== Sys2Proof/Machine/HostBase.lean ====
section
/-! DEFINITION. Sessions, conduits and notices as other units use them (R283, R291, R300), and the routes of the cascade (R379). -/
namespace Sys2Proof.Machine

/-! ## Host (10) -/

def State.setHost (s : State) (h : HostIf) : State := { s with host := h }
def State.ses (s : State) (k : Nat) : Ses := tabGet {} s.host.sess k
def State.setSes (s : State) (k : Nat) (x : Ses) : State := s.setHost { s.host with sess := tabSet {} s.host.sess k x }
def State.cdt (s : State) (d : Nat) : Conduit := tabGet {} s.host.cdts d
def State.setCdt (s : State) (d : Nat) (x : Conduit) : State := s.setHost { s.host with cdts := tabSet {} s.host.cdts d x }

/-- The offset of the registers of a session. -/
def sesOff (k : Nat) : Nat := 0x28000 + k * 0x20

/-- R293: a conduit is attached: bound to a session that is OPEN. -/
def State.attached (s : State) (d : Nat) : Bool := (s.cdt d).bound && (s.ses (s.cdt d).session).st == .opened

/-- R300: a notice is queued, or dropped and counted when 64 wait. -/
def State.queueNotice (s : State) (x : Notice) : State :=
  let h := s.host
  if h.notices.length < 64 then s.setHost { h with notices := h.notices ++ [x] }
  else s.setHost { h with drops := satInc 0xFFFF h.drops, noticeLost := true }

/-- R285, R300: a notice that needs a feature of the admin session is queued only where it is granted. -/
def State.notify (s : State) (feature : Nat) (x : Notice) : State :=
  if (s.ses 0).feat / 2 ^ feature % 2 = 1 then s.queueNotice x else s

/-- The bound conduit of a kind and direction that names channel CH of engine ENGINE, or end END, of a Span. -/
def cdtFind (kind dir span unit : Nat) : Tab Conduit → Option (Nat × Conduit)
  | [] => none
  | (d, c) :: r =>
    if c.bound ∧ c.kind = kind ∧ c.dir = dir ∧ c.span = span ∧ c.unit = unit then some (d, c) else cdtFind kind dir span unit r

/-- The bound conduit of kind Guard of a target. -/
def cdtGuard (target : Nat) : Tab Conduit → Option (Nat × Conduit)
  | [] => none
  | (d, c) :: r => if c.bound ∧ c.kind = 2 ∧ c.target = target then some (d, c) else cdtGuard target r

/-! ## Routes (14) -/

def State.setCasc (s : State) (c : Casc) : State := { s with casc := c }
def State.lport (s : State) (p : Nat) : LPort := tabGet {} s.casc.ports p
def State.setLport (s : State) (p : Nat) (x : LPort) : State := s.setCasc { s.casc with ports := tabSet {} s.casc.ports p x }

/-- R379: where a frame for a node goes. -/
inductive Route where
  | here
  | port (p : Nat)
  | drop
  deriving DecidableEq, Repr

/-- R379: the DOWNSTREAM port in whose range a node lies. -/
def State.downPort (s : State) (d : Nat) : Option Nat :=
  findBelow 4 fun p => let x := s.lport p; x.st == 5 && Nat.ble x.lo d && Nat.ble d x.hi

/-- R379: the route to node `d`. -/
def State.route (s : State) (d : Nat) : Route :=
  if d = s.casc.node then .here
  else match s.downPort d with
    | some p => .port p
    | none => if d < s.casc.nodes ∧ s.casc.master = false then .port s.casc.up else .drop

/-- R379: a node is in the route table. -/
def State.nodeKnown (s : State) (d : Nat) : Bool :=
  s.casc.rooted && s.casc.assigned && decide (d < s.casc.nodes) && match s.route d with
    | .here => true
    | .port p => (s.lport p).st == 4 || (s.lport p).st == 5
    | .drop => false

end Sys2Proof.Machine
end

