-- ==== Sys2Proof/Machine/Control.lean ====
section
/-! DEFINITION. Strand branches, calls and loops (R139, R140), special registers and the deadline (R141, R142), TBRD and the tick
waits (R143), thread control (R149) and the customer instructions (R122 to R124). -/
namespace Sys2Proof.Machine

/-! ## Branches, calls and loops -/

/-- The address of the next instruction in sequence. -/
def Ctx.nextPc (c : Ctx) : Word := c.pc + BitVec.ofNat 32 c.d.len

/-- The target of a PC-relative branch (R112, R113). -/
def Ctx.target (c : Ctx) : Word := c.pc + c.d.d

/-- The target of JMPR and CALLR: the register with bit 0 cleared. -/
def Ctx.regTarget (c : Ctx) : Word := selReg c.d.f c.th.a c.th.x c.th.y &&& ~~~1

/-- R93: the top of RSTK before a push or pop in DEC of round `d` is kept for SELs of earlier rounds. -/
def Thread.noteTop (t : Thread) (d : Nat) : Thread := { t with rhist := ((d, t.rtop) :: t.rhist).take 8 }

/-- R118: pushes a return address; at depth 8 the oldest entry is overwritten. -/
def Thread.push (t : Thread) (v : Word) : Thread :=
  { t with rstk := tabSet 0 t.rstk t.rptr v, rptr := (t.rptr + 1) % 8, depth := min 8 (t.depth + 1) }

/-- R118: the return address at the top, and the thread after the pop; depth 0 stays 0. -/
def Thread.pop (t : Thread) : Word × Thread := (t.rtop, { t with rptr := (t.rptr + 7) % 8, depth := t.depth - 1 })

/-- R118: a call to `target`. -/
def Ctx.callTo (c : Ctx) (target : Word) (s : State) : State :=
  if c.th.depth = 8 ∧ c.th.rstkTrap then c.trap 2 (7, 0) s
  else c.go target [] (s.setThr c.g (((s.thr c.g).noteTop (c.r + 2)).push c.nextPc))

def execBr (n t : Fin 16) (s : State) : Out := .next (strand .br (fun c => c.go c.target []) n t s)
def execCall (n t : Fin 16) (s : State) : Out := .next (strand .call (fun c => c.callTo c.target) n t s)
/-- DBX branches when the X it reads in DEC is not 1, and decrements X in WBK. -/
def execDbx (n t : Fin 16) (s : State) : Out :=
  .next (strand .dbx (fun c => if c.th.x = 1 then c.stay [.x 0] else c.go c.target [.x (c.th.x - 1)]) n t s)
def execJmpr (n t : Fin 16) (s : State) : Out := .next (strand .jmpr (fun c => c.go c.regTarget []) n t s)
def execCallr (n t : Fin 16) (s : State) : Out := .next (strand .callr (fun c => c.callTo c.regTarget) n t s)

/-- RET pops the return address; with depth 0 it traps or takes the entry below the pointer (R118). Bit 0 of PC stays 0 (R102). -/
def retBody (c : Ctx) (s : State) : State :=
  if c.th.depth = 0 ∧ c.th.rstkTrap then c.trap 2 (7, 1) s
  else
    let (v, th) := ((s.thr c.g).noteTop (c.r + 2)).pop
    c.go v [] (s.setThr c.g th)
def execRet (n t : Fin 16) (s : State) : Out := .next (strand .ret retBody n t s)

/-- RETE restores PC and FL and unmasks events; an event that is pending latches at the next boundary (R100). -/
def reteBody (c : Ctx) (s : State) : State :=
  let s1 := c.go c.th.epc [.fl 0x3F c.th.efl] (s.setThr c.g { s.thr c.g with masked := false })
  s1.setThr c.g { s1.thr c.g with reted := true }
def execRete (n t : Fin 16) (s : State) : Out := .next (strand .rete reteBody n t s)

/-- R117: the length of the instruction at an address of the code. -/
def State.lenAt (s : State) (n a : Nat) : Nat := if isLong (s.codeHalf n a) then 4 else 2

/-- R117: LOOP at level k writes its registers in WBK; with the count taken from X = 0 the loop is jumped over. -/
def loopBody (c : Ctx) (s : State) : State :=
  let off := c.d.g % 2 ^ 10
  let count := if c.d.g / 2 ^ 10 = 1 then c.th.x else c.d.d
  let e := c.nextPc + BitVec.ofNat 32 (2 * off)
  let w : LandW := .loopReg c.d.f c.nextPc e count
  if count = 0 then c.go (e + BitVec.ofNat 32 (s.lenAt c.n e.toNat)) [w] s else c.fin [w] s
def execLoop (n t : Fin 16) (s : State) : Out := .next (strand .loop loopBody n t s)

/-- LCLR deactivates a level. -/
def execLclr (n t : Fin 16) (s : State) : Out := .next (strand .lclr (fun c => c.fin [.sr (0x10 + c.d.f) 0]) n t s)

/-- R92, R116: the hint asks for the flash line of the target of a best-effort thread. -/
def nvHintBody (c : Ctx) (s : State) : State :=
  let a := (c.pc + c.d.d).toNat
  let s1 := c.fin [] s
  if areaOf a = .flash ∧ (c.view s).det c.n c.t = false then s1.askAt c.n c.t a else s1
def execNvHint (n t : Fin 16) (s : State) : Out := .next (strand .nvHint nvHintBody n t s)

/-! ## Special registers and the deadline -/

def execMfs (n t : Fin 16) (s : State) : Out :=
  .next (strand .mfs (fun c => c.fin [landReg c.d.f (srRead c.th c.g (s.det n t) c.d.g)]) n t s)

/-- R105, R142: MTS of a value to a special register, with the traps it raises in DEC. -/
def mtsTrap (st : TState) (k : Nat) (v : Word) (h0 : BitVec 16) : Option Trap :=
  if (k = 0x16 ∨ k = 0x1A) ∧ st = .operate then some (2, k)
  else if depthIll k v then some (1, h0.toNat)
  else none

/-- R99, R142: the MEM access of a write of EVB reads the 16 bytes at the new EVB for the entry copy. -/
def Ctx.readEntry (c : Ctx) (v : Word) (s : State) : State :=
  let co := s.core c.n
  let b := bankOf v.toNat
  if !evbOk v || s.phaseA c.n c.t c.r v.toNat 16 then s
  else if co.busy b (c.r + 4) then c.toRetry (c.pend v.toNat 16 none) s
  else s.setCore c.n (co.take b (c.r + 4))

def mtsBody (c : Ctx) (s : State) : State :=
  let v := selReg c.d.f c.th.a c.th.x c.th.y
  match mtsTrap c.th.st c.d.g v c.d.h0 with
  | some tr => c.trap 2 tr s
  | none =>
    let s1 := c.fin [.sr c.d.g v] s
    if c.d.g = 4 then c.readEntry v s1 else s1
def execMts (n t : Fin 16) (s : State) : Out := .next (strand .mts mtsBody n t s)

/-- WTLD writes all 64 bits of WT at once. -/
def execWtld (n t : Fin 16) (s : State) : Out :=
  .next (strand .wtld (fun c => c.fin [.wt (BitVec.ofNat 64 (c.th.a.toNat + c.th.x.toNat * 2 ^ 32))]) n t s)
/-- WTADD adds a signed tick count to WT as DEC reads it. -/
def execWtadd (n t : Fin 16) (s : State) : Out :=
  .next (strand .wtadd (fun c => c.fin [.wt (c.th.wt + c.d.d.signExtend 64)]) n t s)
def execWtarm (n t : Fin 16) (s : State) : Out := .next (strand .wtarm (fun c => c.fin [.arm (c.d.f == 1)]) n t s)

/-- R142: once TB ≥ WT with ARM set, a DEADLINE event fires and ARM clears. -/
def deadlineStep (n t : Nat) (s : State) : State :=
  let g := n * 16 + t
  let th := (s.thr g).settle (s.core n).round
  if s.running && !s.inRst n && th.arm && decide (th.wt.toNat ≤ s.clk.tb) then
    s.setThr g ({ th with arm := false }.raise 0x15 0)
  else s
def execDeadlineFire (n t : Fin 16) (s : State) : Out := .next (deadlineStep n t s)

/-! ## TBRD and the tick waits (R46, R143) -/

/-- R46: TBRD returns the core's TB copy, never below an earlier TBRD of the same thread. -/
def tbrdBody (c : Ctx) (s : State) : State :=
  let (k, s1) := s.seeTb c.n
  let v := max k c.th.tbrd
  let s2 := s1.setThr c.g { s1.thr c.g with tbrd := v }
  c.fin [.a (BitVec.ofNat 32 v), .x (BitVec.ofNat 32 (v / 2 ^ 32))] s2
def execTbrd (n t : Fin 16) (s : State) : Out := .next (strand .tbrd tbrdBody n t s)

/-- R143: the tick A:X that DEC reads. -/
def Ctx.tickAX (c : Ctx) : Nat := c.th.a.toNat + c.th.x.toNat * 2 ^ 32

/-- WAITT: done at once with T set when the tick has passed at the first test; done without T after a wait. -/
def waittBody (c : Ctx) (s : State) : State :=
  let (k, s1) := s.seeTb c.n
  if c.tickAX ≤ k then c.fin (if c.th.waited then [] else [.fl mT mT]) s1
  else c.wait 3 0 c.tickAX s1
def execWaitt (n t : Fin 16) (s : State) : Out := .next (strand .waitt waittBody n t s)

/-! ## Thread control (R149) -/

def execNop (n t : Fin 16) (s : State) : Out := .next (strand .nop (fun c => c.fin []) n t s)
def execSett (n t : Fin 16) (s : State) : Out := .next (strand .sett (fun c => c.fin [.fl mT mT]) n t s)
def execClrt (n t : Fin 16) (s : State) : Out := .next (strand .clrt (fun c => c.fin [.fl mT 0]) n t s)

/-- IDLE puts the thread in IDLE at WBK, wakeable by an enabled event; an enabled event that is pending by then wakes it. What it issued
up to then is cancelled. -/
def idleBody (c : Ctx) (s : State) : State :=
  let th := ((c.fin [] s).thr c.g).settle (c.r + 6)
  let th := { th with nextRound := max th.nextRound (c.r + 7) }
  let woken := th.pend.any fun p => th.enabled p.1
  s.setThr c.g (if woken then th else { th with prev := th.st, st := .idle, wakeable := true })
def execIdle (n t : Fin 16) (s : State) : Out := .next (strand .idle idleBody n t s)

/-- R445: DBG_XTRIG_OUT is driven for 16 ticks from a halt while XT_OUT = 1. -/
def State.trigOut (s : State) : State :=
  if s.bit 0x80000 29 then { s with dbg := { s.dbg with xtOut := s.clk.tb + 16 } } else s

/-- BRK traps in DEC, or halts the thread when DBG_CTL.BRK_HALT is 1 (R444). -/
def brkBody (c : Ctx) (s : State) : State :=
  if s.bit 0x80000 31 then
    let s1 := (c.fin [] s).haltThr c.n c.t 1 (BitVec.ofNat 32 (8 * 2 ^ 24))
    s1.trigOut
  else c.trap 2 (8, 0) s
def execBrk (n t : Fin 16) (s : State) : Out := .next (strand .brk brkBody n t s)

/-! ## Customer instructions (R122 to R124) -/

/-- R122: the flags of `m` are free values where the table gives a micro-operation none. -/
def openFlags (r : Res) (m : BitVec 6) (free : Word) : Res := ⟨r.val, (r.fl &&& ~~~m) ||| (free.truncate 6 &&& m)⟩

/-- R122: the result and flags of a micro-operation other than ULD. The spec gives C and V of the logic and multiply operations and of
USEL, and V of the shifts, no value: they are bits of a free value (DESIGN CHOICE, log entry 44). -/
def uopRes (op : Nat) (a b : Word) (fl : BitVec 6) (free : Word) : Res :=
  let noCV (r : Res) : Res := openFlags r (mNZCV &&& ~~~mNZ) free
  let noV (r : Res) : Res := openFlags r (mNZCV &&& ~~~mNZC) free
  match op with
  | 0x00 => addForm a b false
  | 0x01 => subForm a b false
  | 0x02 => noCV (logicForm (a &&& b))
  | 0x03 => noCV (logicForm (a ||| b))
  | 0x04 => noCV (logicForm (a ^^^ b))
  | 0x05 => noV (shiftForm .shl a (bits b 0 5))
  | 0x06 => noV (shiftForm .shr a (bits b 0 5))
  | 0x07 => noV (shiftForm .asr a (bits b 0 5))
  | 0x08 => noV (shiftForm .ror a (bits b 0 5))
  | 0x09 => noCV (logicForm (a * b))
  | 0x0A => noCV (logicForm (BitVec.ofNat 32 (a.toNat * b.toNat / 2 ^ 32)))
  | 0x0B => daddForm a b false
  | 0x0C => subForm a b false
  | 0x0D => noCV (logicForm (if flZ fl then a else b))
  | _ => ⟨0, 0⟩

/-- R122: the temporaries and micro-flags after a micro-operation other than ULD. -/
def uopStep (th : Thread) (opnd : Word) (w : DWord) (free : Word) (u : Tab Word) (fl : BitVec 6) : Tab Word × BitVec 6 :=
  let (a, b) := uopSrcs th opnd u w
  let q := uopRes (bits w 57 5) a b fl free
  (if bits w 57 5 = 0x0C then u else tabSet 0 u (bits w 54 3) q.val, if w.getLsbD 46 then q.fl &&& mNZCV else fl)

/-- R122: the temporaries and micro-flags after a ULD of `v`; the spec gives C and V of a ULD no value (log entry 44). -/
def uldStep (w : DWord) (free : Word) (v : Nat) (u : Tab Word) (fl : BitVec 6) : Tab Word × BitVec 6 :=
  (tabSet 0 u (bits w 54 3) (BitVec.ofNat 32 v),
    if w.getLsbD 46 then (openFlags (logicForm (BitVec.ofNat 32 v)) (mNZCV &&& ~~~mNZ) free).fl &&& mNZCV else fl)

/-- R122, R124: what the commit of an XOP writes in WBK of its last beat. -/
def commitRegs (w : DWord) (u : Tab Word) (fl : BitVec 6) : List LandW :=
  (if w.getLsbD 32 then [LandW.a (tabGet 0 u 0)] else []) ++ (if w.getLsbD 33 then [LandW.x (tabGet 0 u 1)] else [])
    ++ (if w.getLsbD 34 then [LandW.y (tabGet 0 u 2)] else []) ++ (if w.getLsbD 35 then [LandW.fl mNZCV fl] else [])

/-- The end of a beat whose access was served in round `served`: the next beat is to come, or the XOP commits: its registers in WBK of the
last beat, its store in MEM (R122, R124). -/
def Ctx.uopEnd (c : Ctx) (served : Nat) (w : DWord) (rest : List DWord) (u : Tab Word) (fl : BitVec 6) (s : State) : State :=
  if !w.getLsbD 62 && !rest.isEmpty then c.more (.xop rest u fl) s
  else
    let s1 := c.fin [] s
    let s2 := s1.setThr c.g ((s1.thr c.g).lands (max (c.r + 6) (served + 2)) (commitRegs w u fl))
    if uopStores w then
      c.writeAt (max (c.r + 4) served) (tabGet 0 u 3).toNat (uopSize w) ((tabGet 0 u 0).toNat % 2 ^ (8 * uopSize w)) s2
    else s2

/-- R124: the trap that the commit store of a last beat raises in ADR. -/
def Ctx.commitTrap (c : Ctx) (w : DWord) (u : Tab Word) (s : State) : Option Trap :=
  if uopStores w then spanTrap (c.view s) c.n c.t c.th.st true (tabGet 0 u 3).toNat (uopSize w) 1 else none

/-- R79 to R83, R124: the ULD of a beat reads its operand in MEM; while it waits, the micro-operation is the next to be done. -/
def Ctx.uopLoad (c : Ctx) (w : DWord) (rest : List DWord) (u : Tab Word) (fl : BitVec 6) (s : State) : State :=
  let (a, b) := uopSrcs c.th c.d.d u w
  let ad := (a + b).toNat
  let len := uopSize w
  let done (s : State) : State :=
    let r := uldStep w s.free (s.memRead c.n ad len) u fl
    match c.commitTrap w r.1 s with
    | some tr => c.trap 3 tr s.drawn
    | none => c.uopEnd (c.r + 4) w rest r.1 r.2 (s.drawn.readGrans c.n ad len).2
  match spanTrap (c.view s) c.n c.t c.th.st false ad len 1 with
  | some tr => c.trap 3 tr s
  | none =>
    if s.badGrans c.n ad len then c.badLoad ad len s
    else if s.phaseA c.n c.t c.r ad len then done s
    else if (s.core c.n).busy (bankOf ad) (c.r + 4) then
      let s1 := c.more (.xop (w :: rest) u fl) s
      c.toRetry (c.pend ad len none) s1
    else done (s.setCore c.n ((s.core c.n).take (bankOf ad) (c.r + 4)))

/-- R124: a beat of an XOP: its first micro-operation. -/
def Ctx.xopBeat (c : Ctx) (ops : List DWord) (u : Tab Word) (fl : BitVec 6) (s : State) : State :=
  match ops with
  | [] => c.fin [] s
  | w :: rest =>
    if uopLoads w then c.uopLoad w rest u fl s
    else
      let r := uopStep c.th c.d.d w s.free u fl
      match c.commitTrap w r.1 s with
      | some tr => c.trap 3 tr s.drawn
      | none => c.uopEnd (c.r + 4) w rest r.1 r.2 s.drawn

/-- R122, R124: the micro-operations of XOP x that are executed, from `k` on, `f` at most. -/
def State.xopOps (s : State) (x : Nat) : Nat → Nat → List DWord
  | 0, _ => []
  | f + 1, k => s.uop x k :: (if (s.uop x k).getLsbD 62 then [] else State.xopOps s x f (k + 1))

/-- R102: U0 to U3 hold nothing defined before a beat writes them: free values (DESIGN CHOICE, log entry 44). -/
def State.freshTemps (s : State) : Tab Word × State :=
  iter (fun k (p : Tab Word × State) => (tabSet 0 p.1 k p.2.free, p.2.drawn)) 4 ([], s)

/-- XOP issues its micro-operations as beats and commits in the last; it goes by the decode table of its first beat (R124). -/
def xopBody (c : Ctx) (s : State) : State :=
  let (u, s1) := s.freshTemps
  c.xopBeat ((c.view s).xopOps c.d.f 32 0) u 0 s1

/-- R129: a later beat of an XOP, or of one whose condition was false. -/
def Ctx.xopNext (c : Ctx) (b : Beats) (s : State) : State := match b with
  | .xop ops u fl => c.xopBeat ops u fl s
  | b => c.plainBeat b s
def execXop (n t : Fin 16) (s : State) : Out := .next (strandBy .xop xopBody Ctx.xopNext n t s)

end Sys2Proof.Machine
end

