-- ==== Sys2Proof/Machine/Threads.lean ====
section
/-! DEFINITION. What happens to a thread between its instructions: events (R97 to R100, R120), waits (R127, R158), GO and STOP
(R155 to R157), idle rounds (R73), line fills and parks (R92, R96, R399), and the core's flushes and counters. -/
namespace Sys2Proof.Machine

/-! ## Events -/

/-- R97, R100, R157: the first boundary at which an event, a halt or a STOP can take effect: the next instruction of the thread has not
passed DEC, so the boundary lies two rounds after its round (log entry 42); after a RETE it is the one after the RETE's round. -/
def State.bound (s : State) (n : Nat) (th : Thread) : Nat :=
  if th.reted then th.lastIssue + 1 else max ((s.core n).round + 2) (th.lastIssue + 3)

/-- A vector and its detail as ECAUSE holds them (R120). -/
def ecauseOf (v d : Nat) : Word := BitVec.ofNat 32 (v * 2 ^ 24 + d % 2 ^ 24)

/-- R107, R120: the stage in which a word of a reserved encoding traps ILLEGAL: FET for a reserved group or major, DEC for a
reserved operation. -/
def illStage (h0 : BitVec 16) : Nat :=
  if (isLong h0 && bits h0 5 5 == 0x1F) || (bits h0 14 2 == 1 && bits h0 10 2 == 3) then 1 else 2

/-- The trap that the next word of a thread raises before it is an instruction of any mnemonic. -/
def latchTrap (n t : Nat) (s : State) : State :=
  if !(s.thr (n * 16 + t)).canIssue then s
  else match s.findIssue n t with
    | some (r, lane, .trap v, s1) =>
      let s2 := s1.enterSlot n t r lane .seq
      (s2.trapAt n t (s2.thr (n * 16 + t)).pc r 1 v).stepDone n t
    | some (r, lane, .instr h0 h1, s1) =>
      let d := strandDecode h0 h1
      if d.mn = .reserved then
        let s2 := s1.enterSlot n t r lane .seq
        (s2.trapAt n t (s2.thr (n * 16 + t)).pc r (illStage h0) (1, h0.toNat)).stepDone n t
      else s
    | _ => s

/-- An event or a trap latches in thread t of Span n (R97, R121): the pending event with the lowest vector that is enabled, else
the trap of its next word. -/
def eventLatchStep (n t : Nat) (s0 : State) : State :=
  let l := s0.bound n (s0.thr (n * 16 + t))
  let s := s0.chanDue n l
  let th := s.thr (n * 16 + t)
  let th' := th.settle (l - 1)
  if !s.issues n || !th.active || th.entry.isSome || s.weight n t == 0 then s0
  else match if th.masked then none else th'.pend.find? (fun p => th'.enabled p.1) with
    | some (v, d) => s.latch n t l th.pc (ecauseOf v d)
    | none => latchTrap n t s
def execEventLatch (n t : Fin 16) (s : State) : Out := .next (eventLatchStep n t s)

/-- R204, R344: a Clove or timer event that is taken is no longer pending in its channel. -/
def State.clearSource (s : State) (n v d : Nat) : State :=
  if v = 0x12 then let k := n * 48 + d; s.setChan k { s.chan k with evPend := false }
  else if v = 0x11 then let k := n * 8 + d; s.setTimer k { s.timer k with pend := false }
  else s

/-- R80, R97: the ports of a thread's slots before its first entry beat fetch nothing more. -/
def Core.dropSlots (c : Core) (t : Nat) : Core :=
  let c1 := c.dropLate t
  { c1 with slots := dropIf (fun k => k.t == t) c1.slots }

/-- The entry beats of a latched event or trap in the thread's own slots s1 and s2 (R97), of which s1's port fetches EVB + 16; the handler
issues from s3 on, from the entry copy. -/
def eventEntryStep (n t : Nat) (s : State) : State :=
  let g := n * 16 + t
  match s.seek n (fun u => (u.thr g).entry.isSome) 512 with
  | (.slot lane u, s0) =>
    let th := s0.thr g
    let s1 := (s0.core n).round
    match (if u = t then th.entry else none), s0.nextSlot n t (s1 + 1) with
    | some (_, epc, cause), some (s2, lane2) =>
      let v := cause.toNat / 2 ^ 24
      let d := cause.toNat % 2 ^ 24
      let th1 := th.settle (s1 + 2)
      let s' := s0.setThr g { th1 with
        entry := none
        epc := epc
        efl := th1.fl
        ecause := cause
        masked := true
        pend := dropIf (fun p => p.1 == v && p.2 == d) th1.pend
        fbuf := []
        head := none
        ecopy := some th1.pc.toNat
        nextRound := s2 + 1
        lastIssue := s2 }
      let c := (s'.core n).dropSlots t
      (s'.setCore n ((c.addSlot ⟨s1, lane, t, .seq⟩).addSlot ⟨s2, lane2, t, .seq⟩)).clearSource n v d
    | _, _ => s
  | _ => s
def execEventEntry (n t : Fin 16) (s : State) : Out := .next (eventEntryStep n t s)

/-! ## Waits -/

/-- A waiting thread whose wake condition holds issues its wait again (R127). -/
def waitWakeStep (n t : Nat) (s : State) : State :=
  let g := n * 16 + t
  let r := (s.core n).round
  let (tb, s1) := ((s.waitFill n t).chanDue n r).seeTb n
  if s.issues n && (s.thr g).active && s1.wakes n t r tb then
    let th := s1.thr g
    s1.setThr g { th with wait := 0, waited := th.wait == 3, nextRound := max th.nextRound r }
  else s
def execWaitWake (n t : Fin 16) (s : State) : Out := .next (waitWakeStep n t s)

/-! ## GO and STOP -/

/-- R155, R157: the thread leaves its present instruction at a round boundary: a wait, a hold, a park, a multi-beat instruction and a
latched entry are abandoned, and PC is that of the oldest abandoned instruction. -/
def Thread.abandon (t : Thread) : Thread :=
  { t.dropWork with
    pc := match t.entry with
      | some (_, epc, _) => epc
      | none => t.pc
    entry := none }

/-- R155: STOP takes an active thread to IDLE, not wakeable. -/
def State.stopThr (s : State) (n t : Nat) : State :=
  let g := n * 16 + t
  let th := s.thr g
  if th.active then
    (s.setThr g { th.abandon with
      prev := th.st, st := .idle, wakeable := false, nextRound := max th.nextRound (s.bound n th) }).endStep g
  else s

/-- R119: the state a code of THR_CTL.STATE names. -/
def goState (k : Nat) : Option TState := if k = 1 then some .operate else if k = 2 then some .service else none

/-- R156: the refusal of a GO, judged with the other fields of the write applied. -/
def State.goBar (s : State) (n t : Nat) : Check :=
  let th := s.thr (n * 16 + t)
  firstFail [failIf th.active 0x0130 (thrObj n t),
    failIf (goState (s.fld (spanOff n (0x400 + 0x40 * t)) 28 2) == none) 0x0131 (thrObj n t),
    failIf (s.det n t && !s.inCwin n t th.pc.toNat) 0x0304 (thrObj n t)]

/-- R155: GO starts the thread in the state of THR_CTL at the PC of THR_PC. -/
def State.goThr (s : State) (src : Src) (n t : Nat) : State :=
  let g := n * 16 + t
  let off := spanOff n (0x400 + 0x40 * t)
  match s.goBar n t with
  | some (code, d) => s.refuse src off code d
  | none =>
    let th := s.thr g
    match goState (s.fld off 28 2) with
    | none => s
    | some st => s.setThr g { th.abandon with
        pc := th.pc, st := st, prev := .idle, wakeable := false, masked := false, haltCause := 0
        nextRound := max th.nextRound (s.core n).round }

/-- A write of THR_CTL[t] (R155, R156, R466): STATE and CLASS by their own codes, then GO or STOP. -/
def thrCtlWrite (src : Src) (n t : Nat) (v : Word) (s : State) : State :=
  let off := spanOff n (0x400 + 0x40 * t)
  let s1 := s.plainWrite src off (v &&& 0x3FFFFFFF)
  match v.getLsbD 31, v.getLsbD 30 with
  | true, true => s1.refuse src off 0x0131 (thrObj n t)
  | true, false => s1.goThr src n t
  | false, true => s1.stopThr n t
  | false, false => s1

/-- A write of THR_CTL[t] with GO = 1. -/
def execThrGo (src : Src) (n t : Fin 16) (v : Word) (s : State) : Out := .next (s.via src fun s => s.gate n (thrCtlWrite src n t (v ||| 0x80000000)))
/-- A write of THR_CTL[t] with STOP = 1. -/
def execThrStop (src : Src) (n t : Fin 16) (v : Word) (s : State) : Out :=
  .next (s.via src fun s => s.gate n (thrCtlWrite src n t (v ||| 0x40000000)))

/-! ## Idle rounds -/

/-- A round passes in which no thread issues (R71, R73). -/
def idleRoundStep (n : Nat) (s : State) : State :=
  let r := (s.core n).round
  let s1 := (s.chanDue n r).servePorts n r
  if s.coreRuns n && s1.firstAct n r == .idle then s1.passRound n else s
def execIdleRound (n : Fin 16) (s : State) : Out := .next (idleRoundStep n s)

/-! ## Store buffers -/

/-- Writes the bytes an entry holds to its granule. -/
def sbFlush (n : Nat) (e : SbEntry) (m : List Host.Cell) : List Host.Cell :=
  iter (fun k m => if e.mask.getLsbD k then
      tabSet 0 m (memKey n (e.gran * 8 + k)) (BitVec.ofNat 8 (bits e.data (8 * k) 8)) else m) 8 m

/-- R82, R84: the oldest entry whose bank nothing else takes in the last round that is over. -/
def State.drainable (s : State) (n : Nat) : Option SbEntry :=
  let c := s.core n
  c.sb.find? fun e => !s.coreRuns n || (decide (e.round + 1 < c.round) && !c.busy (bankOf (e.gran * 8)) (c.round - 1))

/-- The oldest store-buffer entry is written to its bank (R82, R84). -/
def drainStep (n : Nat) (s : State) : State :=
  match s.drainable n with
  | none => s
  | some e =>
    let c := s.core n
    let s1 := s.setCore n { (if s.coreRuns n then c.take (bankOf (e.gran * 8)) (c.round - 1) else c) with
      sb := dropIf (fun q => q.gran == e.gran) c.sb }
    ({ s1 with mem := sbFlush n e s1.mem }).wroteGran n (e.gran * 8) (if e.mask = 0xFF then 8 else 1)
def execStoreBufferDrain (n : Fin 16) (s : State) : Out := .next (if s.clk.mainRst then s else drainStep n s)

/-! ## Lines -/

/-- R92: a line holds the present PC of a thread of Span n. -/
def State.pcLine (s : State) (n l : Nat) : Bool := (findBelow 16 fun t => lineOf (s.thr (n * 16 + t)).pc.toNat == l).isSome

/-- R92: the least recently used line of the buffer that no present PC needs leaves it. -/
def evictLine (keep : Nat → Bool) (l : List Nat) : List Nat :=
  match (l.reverse.find? fun q => !keep q) with
  | some q => dropIf (· == q) l
  | none => l

/-- R92: a line enters the buffer as the most recently used. -/
def State.putLine (s : State) (n l : Nat) : State :=
  let c := s.core n
  let lb := dropIf (· == l) c.lbuf
  let lb := if 32 ≤ lb.length then evictLine (s.pcLine n) lb else lb
  s.setCore n { c with lbuf := l :: lb, lreq := dropIf (fun q => q.line == l) c.lreq }

/-- R92: a request for a line ends without it. -/
def State.dropReq (s : State) (n l : Nat) : State :=
  let c := s.core n
  s.setCore n { c with lreq := dropIf (fun q => q.line == l) c.lreq }

/-- R92: a thread that is parked on a line for which it could not ask, two of its requests being outstanding, asks for it now. -/
def askParked (n t : Nat) (s : State) : State := match (s.thr (n * 16 + t)).park with
  | some (l, since, _) => s.setCore n ((s.core n).ask t l since)
  | none => s

/-- A thread parked on a line goes on when it has come: a load that waited completes (R131). -/
def unpark (n l t : Nat) (s : State) : State :=
  let g := n * 16 + t
  let th := s.thr g
  match th.park with
  | none => s
  | some (q, _, ld) =>
    if q ≠ l then s
    else
      let r := (s.core n).round
      let s1 := s.setThr g { th with park := none, nextRound := max th.nextRound r }
      match ld with
      | none => s1
      | some p =>
        let c := p.ctx s1 n t
        c.operandDone (max r (p.r + 4)) (readNat (s1.codeByte n) p.len p.addr) (c.onward s1)

/-- R399: a thread parked on a line that holds an uncorrectable doubleword traps when it issues again: ACCESS in ADR for a load,
FETCH in FET for a fetch. -/
def unparkBad (n l t : Nat) (s : State) : State :=
  let g := n * 16 + t
  let th := s.thr g
  match th.park with
  | none => s
  | some (q, _, ld) =>
    if q ≠ l then s
    else
      let s1 := s.setThr g { th with park := none }
      match s1.nextSlot n t (max (s1.core n).round th.nextRound) with
      | none => s1
      | some (r, lane) =>
        let s2 := s1.enterSlot n t r lane .seq
        match ld with
        | some p => s2.trapAt n t th.pc r 3 (6, p.addr % 2 ^ 24)
        | none => s2.trapAt n t th.pc r 1 (4, th.pc.toNat % 2 ^ 20)

/-- The first thread parked on a line, and whether a load waits for it. -/
def State.parkedOn (s : State) (n l : Nat) : Option (Nat × Bool) :=
  match findBelow 16 fun t => match (s.thr (n * 16 + t)).park with
    | some (q, _, _) => q == l
    | none => false with
  | none => none
  | some t => some (t, match (s.thr (n * 16 + t)).park with
    | some (_, _, some _) => true
    | _ => false)

/-- R433, R435: what the read of a boot-ROM line met is counted and recorded as an error of memory 5. -/
def State.romEcc (s : State) (ue : Bool) (l : Nat) : State := s.eccNote ue 5 0 (l * 32 - 0x1F000000)

/-- R399: a corrected read is counted. -/
def State.flashCe (s : State) (l : Nat) : State :=
  if (lineBank l).isNone then s.romEcc false l
  else { s with fp := { s.fp with corrected := satInc 0xFFFF s.fp.corrected } }

/-- R399: an uncorrectable read is counted and recorded. -/
def State.flashUe (s : State) (n l : Nat) : State :=
  if (lineBank l).isNone then s.romEcc true l
  else
  let s1 := { s with fp := { s.fp with uncorrectable := satInc 0xFFFF s.fp.uncorrectable } }
  let (o, k) := match s.parkedOn n l with
    | some (t, ld) => (thrObj n t, if ld then 1 else 0)
    | none => (0, 0)
  s1.offer 0x0601 o (BitVec.ofNat 32 (l * 32 % 2 ^ 25)) (BitVec.ofNat 32 k) 0

/-- R25: the older of two line requests, each with its Span; on a tie the first. -/
def olderReq (a b : Option (Nat × LineReq)) : Option (Nat × LineReq) := match a, b with
  | some x, some y => if y.2.since < x.2.since then some y else some x
  | none, b => b
  | a, none => a

/-- R25, R398: the line request that the flash port serves next: the oldest of those whose bank is not held busy, that of the lowest Span
on a tie. -/
def State.nextLine (s : State) : Option (Nat × LineReq) :=
  iter (fun n best =>
    if s.coreRuns n then (((s.core n).lreq.filter fun q => !s.lineBusy q.line).map fun q => some (n, q)).foldl olderReq best else best)
    16 none

/-- R92, R397, R399: the line that the flash port serves next arrives, with what its read reports; a line of a bank in FAULT comes as
none. -/
def lineFillStep (n l : Nat) (ecc : Ecc) (s : State) : State :=
  if (s.nextLine.map fun q => (q.1, q.2.line)) ≠ some (n, l) then s
  else
    let s1 := if s.lineFault l then iter (unparkBad n l) 16 (s.dropReq n l)
      else match ecc with
        | .clean => iter (unpark n l) 16 (s.putLine n l)
        | .corrected =>
          iter (unpark n l) 16 ((s.flashCe l).putLine n l)
        | .uncorrectable => iter (unparkBad n l) 16 ((s.flashUe n l).dropReq n l)
    iter (askParked n) 16 s1
def execLineFill (n : Fin 16) (line : Nat) (ecc : Ecc) (s : State) : Out := .next (lineFillStep n line ecc s)

/-- The age in ticks after which a park or a line fetch is recorded: 64 µs (R25, R96). -/
def parkLimit : Nat := 64000

/-- A thread parked longer than 64 µs on a bank that a FLASHOP holds busy gets a second TRACE entry (R96). -/
def parkLongStep (n t : Nat) (s : State) : State :=
  let th := s.thr (n * 16 + t)
  match th.park with
  | none => s
  | some (l, since, _) =>
    if s.running && s.lineBusy l && !th.parkLong && decide (since + parkLimit < s.clk.tb) then
      (s.setThr (n * 16 + t) { th with parkLong := true }).offer 0x0202 (thrObj n t)
        (BitVec.ofNat 32 ((l * 32 - 0x10000000) / 2 ^ 23)) (BitVec.ofNat 32 (l * 32)) 0
    else s
def execParkLong (n t : Fin 16) (s : State) : Out := .next (parkLongStep n t s)

/-- A line fetch that has waited longer than 64 µs behind other flash traffic is recorded and goes on waiting (R25). -/
def xipWaitStep (n t : Nat) (s : State) : State :=
  let th := s.thr (n * 16 + t)
  match th.park with
  | none => s
  | some (l, since, _) =>
    if s.running && !th.xipWait && decide (since + parkLimit < s.clk.tb) then
      (s.setThr (n * 16 + t) { th with xipWait := true }).offer 0x0203 (thrObj n t) (BitVec.ofNat 32 (l * 32)) 0 0
    else s
def execXipWait (n t : Fin 16) (s : State) : Out := .next (xipWaitStep n t s)

/-! ## Flushes and counters -/

/-- FETCH_CTRL.BTB_FLUSH empties the branch-target buffer (R93). -/
def btbFlush (n : Nat) (s : State) : State := s.setCore n { s.core n with btb := [] }
def execBtbFlush (n : Fin 16) (s : State) : Out := .next (s.gate n (btbFlush n))

/-- FETCH_CTRL.LBUF_FLUSH invalidates the lines that hold no present PC (R92). -/
def lbufFlush (n : Nat) (s : State) : State :=
  s.setCore n { s.core n with lbuf := (s.core n).lbuf.filter (s.pcLine n) }
def execLbufFlush (n : Fin 16) (s : State) : Out := .next (s.gate n (lbufFlush n))

/-- Any write of ARB_CNT clears both counts. -/
def arbCntClear (n : Nat) (s : State) : State := s.setCore n { s.core n with sbEntries := 0, retries := 0 }
def execArbCntClear (n : Fin 16) (s : State) : Out := .next (s.gate n (arbCntClear n))

end Sys2Proof.Machine
end

