-- ==== Sys2Proof/Machine/Channels.lean ====
section
/-! DEFINITION. Channel instructions and WAITE (R143, R147, R148, R162 to R165), enabling and disabling of channel ends (R161, R169),
the crossings of the Clove FIFOs (R199) and ABORT_MSG (R180). -/
namespace Sys2Proof.Machine

/-! ## Instructions -/

/-- R144, R148: an instruction names an end that is not the thread's: T and a Moraine entry at WARN; nothing else. -/
def Ctx.misuse (c : Ctx) (s : State) : State :=
  (c.fin [.fl mT mT] s).offer 0x0206 (thrObj c.n c.t) (BitVec.ofNat 32 c.d.f) (BitVec.ofNat 32 c.d.h0.toNat) 0

/-- R147, R163, R165: CIN reads and removes the next word of its end, or waits for one. -/
def cinBody (c : Ctx) (s : State) : State :=
  if !s.endMine c.n c.t c.d.f false then c.misuse s
  else
    let s1 := s.fillEnd c.n c.d.f
    let k := c.n * 128 + c.d.f
    let e := s1.chEnd k
    match e.buf with
    | (w, last, q) :: r =>
      if q ≤ c.r then
        let s2 := s1.setEnd k { e with
          buf := r, msgs := (e.msgs + b2n last) % 65536, freed := if e.buf.length = 8 then c.r + 6 else e.freed }
        (c.finLoad 0 [.a w] (c.fin [.fl 0b000111 (flNZ w ||| (if last then 1 else 0))] s2)).fillEnd c.n c.d.f
      else c.wait 1 c.d.f 0 s1
    | [] => c.wait 1 c.d.f 0 s1
def execCin (n t : Fin 16) (s : State) : Out := .next (strand .cin cinBody n t s)

/-- R143: WAITE ends on a ready word, which it leaves, or on the tick, which sets T. -/
def waiteBody (c : Ctx) (s : State) : State :=
  if !s.endMine c.n c.t c.d.f false then c.misuse s
  else
    let s1 := s.fillEnd c.n c.d.f
    let (tb, s2) := s1.seeTb c.n
    if (s1.chEnd (c.n * 128 + c.d.f)).ready c.r then c.fin [] s1
    else if c.tickAX ≤ tb then c.fin [.fl mT mT] s2
    else c.wait 2 c.d.f c.tickAX s2
def execWaite (n t : Fin 16) (s : State) : Out := .next (strand .waite waiteBody n t s)

/-- R162, R165: the message of an end is released in WBK; within the Span its words move at once, to be read two rounds later. -/
def Ctx.releaseEnd (c : Ctx) (s : State) : State := moveWords c.n c.d.f 16 (s.release c.n c.d.f (c.r + 8))

/-- R147, R148, R164, R180: COUT, and COUTE where `fin` is set. -/
def coutBody (fin : Bool) (c : Ctx) (s : State) : State :=
  if !s.endMine c.n c.t c.d.f true then c.misuse s
  else
    let s := moveWords c.n c.d.f 16 s
    let k := c.n * 128 + c.d.f
    let e := s.chEnd k
    if e.aborted then c.fin [.fl mT mT] (if fin then s.setEnd k { e with aborted := false } else s)
    else if 16 ≤ e.staged.length then c.fin [.fl mT mT] s
    else if 16 ≤ e.staged.length + e.store.length then c.hold s
    else
      let s1 := s.setEnd k { e with staged := e.staged ++ [c.th.a] }
      c.fin [] (if fin then c.releaseEnd s1 else s1)
def execCout (n t : Fin 16) (s : State) : Out := .next (strand .cout (coutBody false) n t s)
def execCoute (n t : Fin 16) (s : State) : Out := .next (strand .coute (coutBody true) n t s)

/-- R147, R148, R180: CEND releases the staged words and never holds. -/
def cendBody (c : Ctx) (s : State) : State :=
  if !s.endMine c.n c.t c.d.f true then c.misuse s
  else
    let k := c.n * 128 + c.d.f
    let e := s.chEnd k
    if e.aborted then c.fin [.fl mT mT] (s.setEnd k { e with aborted := false })
    else if e.staged = [] then c.fin [.fl mT mT] s
    else c.fin [] (c.releaseEnd s)
def execCend (n t : Fin 16) (s : State) : Out := .next (strand .cend cendBody n t s)

/-! ## Enabling and disabling (R161, R169) -/

/-- R161, R292: what holds a Clove channel in a direction: an enabled end, or a bound conduit. -/
def State.cloveBound (s : State) (n e c : Nat) (out : Bool) : Option Word :=
  match s.boundEnd n e c out with
  | some k => some (endObj n k)
  | none => (cdtFind 1 (if out then 0 else 1) n (e * 4 + c) s.host.cdts).map fun p => objWord 7 0 p.1

/-- R161: bits of CHE_PEER.LINK that the layout of a KIND requires to be 0, or an engine above 11. -/
def linkBad (kind link : Nat) : Bool :=
  (kind == 0 && decide (128 ≤ link)) || (kind == 1 && (decide (64 ≤ link) || decide (11 < link / 4 % 16)))
    || (kind == 3 && link != 0)

/-- R161: the conduit that an end of KIND conduit names fits it. -/
def State.cdtFits (s : State) (n e link : Nat) (out : Bool) : Bool :=
  let c := s.cdt link
  s.attached link && c.kind == 0 && c.span == n && c.unit == e && c.dir == b2n out

/-- R161: the check of an enable of an end with the word `v`; CHE_PEER gives REMOTE, NODE and SPAN no meaning at an end of KIND Clove or
Serac notice, so that they are reserved there (DEDUCED, log entry 45). -/
def State.cheBar (s : State) (n e : Nat) (v : Word) : Check :=
  let peer := s.reg (cheOff n e + 4)
  let kind := cheKind v
  let out := v.getLsbD 30
  let remote := peer.getLsbD 31
  let link := bits peer 0 12
  let ps := bits peer 15 4
  let tcfg := s.reg (cheOff ps (link % 128))
  let tpeer := s.reg (cheOff ps (link % 128) + 4)
  let tOk := tcfg.getLsbD 31 && !tcfg.getLsbD 30 && cheKind tcfg == 0 && !tpeer.getLsbD 31 && bits tpeer 15 4 == n
    && bits tpeer 0 12 == e
  firstFail [
    failIf (decide (3 < kind) || (kind == 3 && out) || linkBad kind link || ((kind == 1 || kind == 3) && bits peer 15 17 != 0)) 0x0120
      (endObj n e),
    failIf (kind == 0 && out && !remote && !tOk) 0x0122 (endObj n e),
    if kind = 1 then (s.cloveBound n (link / 4 % 16) (link % 4) out).map fun o => (0x0124, o) else none,
    failIf (kind == 2 && !remote && !s.cdtFits n e link out) 0x0125 (objWord 7 0 link),
    failIf (remote && !s.nodeKnown (bits peer 19 12)) 0x0905 (objWord 0xA 0 (bits peer 19 12))]

/-- R181: the notice end of a Span's watchdog is disabled. -/
def State.wdEndOff (s : State) (n e : Nat) : State :=
  let off := spanOff n 0x380
  if s.bit off 31 && s.fld off 0 7 == e then
    (s.setReg off (setBits (s.reg off) 31 1 0)).offer 0x010B (endObj n e) 0 0 0
  else s

/-- R169, R170: an end is disabled: staged words and words that wait at an output end, or the buffered words of an input end, are
discarded into DROPS. -/
def State.endOff (s : State) (n e : Nat) (out : Bool) : State :=
  let k := n * 128 + e
  let x := s.chEnd k
  if out then (s.setEnd k { x with staged := [], compl := [] }).addDrops k (x.staged.length + x.compl.length)
  else
    let l := x.landing.foldl (fun a m => a + m.2.1.length) 0
    (s.setEnd k { x with buf := [], landing := [], mid := false, evq := [] }).addDrops k (x.buf.length + l)

/-- A write of CHE_CFG[e] (R161, R169). -/
def cheCfgWrite (src : Src) (n e : Nat) (v : Word) (s : State) : State :=
  let off := cheOff n e
  let m := BitVec.ofNat 32 (fieldsMask (fun a => a == .rw) (regFields off))
  let old := s.reg off
  let k := n * 128 + e
  if old.getLsbD 31 then
    if v.getLsbD 31 then if v &&& m = old then s else s.refuse src off 0x0121 (endObj n e)
    else ((s.endOff n e (old.getLsbD 30)).setReg off (v &&& m)).wdEndOff n e
  else
    let s1 := s.setReg off (v &&& m &&& 0x7FFFFFFF)
    if v.getLsbD 31 then
      match s1.bothPass (fun s => s.cheBar n e v) with
      | some (code, d) => s1.refuse src off code d
      | none =>
        let x := s1.chEnd k
        (s1.setEnd k { x with drops := 0, credits := 16, freed := 0 }).setReg off (v &&& m)
    else s1

/-- A write of CHE_PEER[e]: refused as a whole where it would change a field of an enabled end (R169). -/
def chePeerWrite (src : Src) (n e : Nat) (v : Word) (s : State) : State :=
  let off := cheOff n e + 4
  let m := BitVec.ofNat 32 (fieldsMask (fun a => a == .rw) (regFields off))
  if s.bit (cheOff n e) 31 then if v &&& m = s.reg off then s else s.refuse src off 0x0121 (endObj n e)
  else s.setReg off (v &&& m)

/-! ## ABORT_MSG (R180) -/

/-- R180: the refusal of ABORT_MSG: its owner is not halted, no word is staged, or it is no enabled output end. -/
def State.abortBar (s : State) (n e : Nat) : Bool :=
  let x := s.chEnd (n * 128 + e)
  !s.endOn n e true || (s.thr (n * 16 + s.fld (cheOff n e) 20 4)).st != .halted || x.staged.isEmpty

/-- R180: the staged message of a halted thread's end is discarded; completion words that waited for the claim go (R170). -/
def abortMsg (n e : Nat) (s : State) : State :=
  let k := n * 128 + e
  let x := s.chEnd k
  let s1 := s.setEnd k ({ x with
    staged := [], aborted := true, drops := satAdd 0xFFFF x.drops x.staged.length }.flushCompl
      ((s.core n).round + 2) (cheKind (s.reg (cheOff n e))) (s.reg (cheOff n e + 4)))
  s1.offer 0x0208 (endObj n e) (BitVec.ofNat 32 x.staged.length) 0 0

/-! ## Clove FIFOs (R199) -/

/-- The output ends whose oldest word is for channel c of engine e: first one that is disabled or names another channel now (R169),
then the bound one. -/
def State.fifoSource (s : State) (n e c : Nat) : Option Nat :=
  let heads (k : Nat) : Bool := match (s.chEnd (n * 128 + k)).store with
    | w :: _ => w.kind == 1 && bits w.peer 0 6 == e * 4 + c
    | [] => false
  match findBelow 128 fun k => heads k && s.boundEnd n e c true != some k with
  | some k => some k
  | none => match s.boundEnd n e c true with
    | some k => if heads k then some k else none
    | none => none

/-- R199: room for a word in the in FIFO of an enabled channel. -/
def State.fifoRoom (s : State) (n e c : Nat) : Bool :=
  s.pinLogic n && s.chnEn n e c && !(s.chan (chanKey n e c)).stopping && Nat.blt (s.chan (chanKey n e c)).inF.length 8

/-- A word enters the in FIFO of a channel at the present tick. -/
def State.fifoPut (s : State) (n e c : Nat) (w : Word) : State :=
  let ch := s.chan (chanKey n e c)
  s.setChan (chanKey n e c) { ch with inF := ch.inF ++ [(w, s.clk.tb)] }

/-- R199: the oldest word of a channel's out FIFO reaches the bound input end as a message of one word (R167). -/
def fifoOut (n e c : Nat) (s : State) : State :=
  let ch := s.chan (chanKey n e c)
  match s.boundEnd n e c false, ch.outF with
  | some k, w :: r =>
    if (s.chEnd (n * 128 + k)).buf.length < 8 then
      (s.setChan (chanKey n e c) { ch with outF := r }).bufPut n k w true ((s.core n).round + 1)
    else s
  | _, _ => s

end Sys2Proof.Machine
end

