-- ==== Sys2Proof/Machine/Timed.lean ====
section
/-! DEFINITION. Timed ports: TQ, TQSR, TQGC and TQEV (R56 to R60, R145, R146), entry into a queue (R61), performance, guards and
squash (R62 to R69), and TP_CFG (R55, R70). -/
namespace Sys2Proof.Machine

/-! ## Operations -/

/-- R56: KIND of an operation word. -/
def opKind (opw : Word) : Nat := bits opw 24 4

/-- R58: the operation makes a record. -/
def opRecords (opw : Word) : Bool := opKind opw == 4 || opKind opw == 5

/-- R57, R62: the descriptors that TQ traps ILLEGAL. -/
def descIllegal (stamp : Nat) (opw guard : Word) : Bool :=
  let src := bits guard 28 2
  let idx := bits guard 0 9
  opKind opw == 0 || decide (5 < opKind opw) || bits opw 28 3 != 0 || bits opw 16 8 != 0 || bits guard 9 9 != 0
    || (opw.getLsbD 31 && decide (2 ^ 15 ≤ stamp)) || src == 3 || (src == 0 && decide (23 < idx)) || (src == 2 && decide (15 < idx))
    || ((src == 1 || src == 2) && decide (11 < bits guard 20 4))

/-- R51: the tick that a full stamp names, taken at a TB value. -/
def stampTick (tb stamp : Nat) : Int :=
  let d : Nat := (stamp / 8 + 2 ^ 61 - tb % 2 ^ 61) % 2 ^ 61
  (tb : Int) + (if d < 2 ^ 60 then (d : Int) else (d : Int) - 2 ^ 61)

/-- R51, R52: the tick and eighth of an operation. -/
def opTime (p : TPort) (rel : Bool) (tb stamp : Nat) : Int × Nat :=
  if rel then
    let e := p.ceighth + stamp % 2 ^ 15
    (p.ctick + ((e / 8 : Nat) : Int), e % 8)
  else (stampTick tb stamp, stamp % 8)

/-- Operations of port p on their way in the crossing. -/
def crossing (p : Nat) : List CrossItem → Nat
  | [] => 0
  | .op e :: r => b2n (e.port == p) + crossing p r
  | _ :: r => crossing p r

/-- R58: TQ holds. -/
def tqHolds (p : TPort) (inCross : Nat) (tick : Int) (tb : Nat) (opw : Word) : Bool :=
  decide ((tb : Int) + 4096 < tick) || Nat.ble 16 (p.queue.length + inCross) || (opRecords opw && Nat.ble 4 p.recOut)

/-- The address side effect of base XP (R146). -/
def tqPost (d : SDec) (x : Word) : List LandW := if d.mode = .xp then [.x (x + 16)] else []

/-- EXE of a TQ whose descriptor `v` has been read (R52, R58, R145, R146). -/
def tqExe (c : Ctx) (v : Nat) (s : State) : State :=
  let stamp := v % 2 ^ 64
  let opw : Word := BitVec.ofNat 32 (v / 2 ^ 64)
  let guard : Word := BitVec.ofNat 32 (v / 2 ^ 96)
  if descIllegal stamp opw guard then c.trap 4 (1, c.d.h0.toNat) s
  else match s.portOf c.n c.t c.d.f with
    | none => c.fin (tqPost c.d c.th.x ++ [.fl mT mT]) s
    | some p =>
      let (tb, s1) := s.seeTb c.n
      let k := c.n * 32 + p
      let q := s1.port k
      let (tick, e) := opTime q (opw.getLsbD 31) tb stamp
      if tqHolds q (crossing p (s1.thr c.g).cross) tick tb opw then c.hold s1
      else
        let s2 := s1.setPort k { q with ctick := tick, ceighth := e, recOut := q.recOut + b2n (opRecords opw) }
        let th := s2.thr c.g
        let ent : TqEnt := { port := p, wslot := c.d.f, tick := tick, eighth := e, opw := opw, guard := guard }
        c.fin (tqPost c.d c.th.x) (s2.setThr c.g { th with cross := th.cross ++ [.op ent] })

/-- R79, R82, R83: a 16-byte descriptor is read in the MEM round; `done` goes on with its bytes once they are read. -/
def Ctx.readDesc (c : Ctx) (a : Nat) (done : Ctx → Nat → State → State) (s : State) : State :=
  let co := s.core c.n
  if s.badGrans c.n a 16 then c.badLoad a 16 s
  else if s.phaseA c.n c.t c.r a 16 then done c (s.memRead c.n a 16) s
  else if co.busy (bankOf a) (c.r + 4) then c.toRetry (c.pend a 16 none) s
  else
    let s1 := s.setCore c.n (co.take (bankOf a) (c.r + 4))
    if bankOf (a + 15) = bankOf a then done c (s.memRead c.n a 16) s1
    else c.toRetry { c.pend a 16 none with part := some (s.memRead c.n a 8) } s1

/-- R56, R146: TQ. -/
def tqBody (c : Ctx) (s : State) : State :=
  match modeAddr (c.view s) c.n c.t c.d c.th.x c.th.y with
  | none => c.noWindow s
  | some a =>
    match spanTrap (c.view s) c.n c.t c.th.st false a 16 8 with
    | some tr => c.trap 3 tr s
    | none => c.readDesc a tqExe s
def execTq (n t : Fin 16) (s : State) : Out := .next (strand .tq tqBody n t s)

/-- R145: TQSR: the oldest record, a wait for it, or A = 0 with T where nothing is outstanding. -/
def tqsrBody (c : Ctx) (s : State) : State :=
  match s.portOf c.n c.t c.d.f with
  | none => c.finLoad 0 [.a 0] (c.fin [.fl (mNZ ||| mT) (flNZ 0 ||| mT)] s)
  | some p =>
    let k := c.n * 32 + p
    let q := s.port k
    if q.recOut = 0 then c.finLoad 0 [.a 0] (c.fin [.fl (mNZ ||| mT) (flNZ 0 ||| mT)] s)
    else match q.recs with
      | (_, some v) :: r =>
        c.finLoad 0 [.a v] (c.fin [.fl mNZ (flNZ v)] (s.setPort k { q with recs := r, recOut := q.recOut - 1 }))
      | _ => c.wait 4 c.d.f 0 s
def execTqsr (n t : Fin 16) (s : State) : Out := .next (strand .tqsr tqsrBody n t s)

/-- R68, R146: TQGC passes the crossing in issue order with the TQs of its thread. -/
def tqgcBody (c : Ctx) (s : State) : State :=
  let th := s.thr c.g
  c.fin [] (s.setThr c.g { th with cross := th.cross ++ [.reopen c.d.f] })
def execTqgc (n t : Fin 16) (s : State) : Out := .next (strand .tqgc tqgcBody n t s)

/-- R69: TQEV copies TW_EVT and clears VALID and OVF. -/
def tqevBody (c : Ctx) (s : State) : State :=
  let th := s.thr c.g
  c.finLoad 0 [.a th.twEvt]
    (c.fin [.fl mNZ (flNZ th.twEvt)] (s.setThr c.g { th with twEvt := setBits th.twEvt 14 2 0 }))
def execTqev (n t : Fin 16) (s : State) : Out := .next (strand .tqev tqevBody n t s)

/-! ## Entry into the queue (R61, R65) -/

/-- R61: the greater of two keys. -/
def keyMax (a b : Nat × Nat) : Nat × Nat := if a.1 < b.1 ∨ (a.1 = b.1 ∧ a.2 < b.2) then b else a

/-- R61: the effective key of an entry that reaches the queue at tick `e`, and whether it is late. -/
def effKey (p : TPort) (ent : TqEnt) (e : Nat) : Nat × Nat × Bool :=
  let own : Nat × Nat := (ent.tick.toNat, if ent.tick < 0 then 0 else ent.eighth)
  let k := keyMax (keyMax own (e + 2, 0)) (p.ktick, p.keighth)
  (k.1, k.2, !(decide ((k.1 : Int) = ent.tick) && k.2 == ent.eighth))

/-- The entry's group is squashed (R64). -/
def TqEnt.squashed (e : TqEnt) (sq : BitVec 8) : Bool := e.guard.getLsbD 27 && sq.getLsbD (bits e.guard 24 3)

/-- R56: a record word. -/
def recWord (tick : Int) (opw : Word) (lateExec dropped squashed : Bool) (levels : Nat) : Word :=
  BitVec.ofNat 32 ((tick % 65536).toNat * 2 ^ 16 + b2n (opKind opw == 5) * 2 ^ 11 + b2n lateExec * 2 ^ 10 + b2n dropped * 2 ^ 9
    + b2n squashed * 2 ^ 8 + levels)

/-- The record of an entry is ready for TQSR. -/
def TPort.fill (p : TPort) (e : TqEnt) (w : Word) : TPort := match e.recNo with
  | some k => { p with recs := p.recs.map fun r => if r.1 = k then (k, some w) else r }
  | none => p

/-- R65, R66: an entry is discarded or squashed: it counts, and its record says so. -/
def TPort.squash (p : TPort) (e : TqEnt) : TPort :=
  { p.fill e (recWord e.tick e.opw false false true 0) with sqCnt := satInc 255 p.sqCnt }

/-- R61, R65: an operation reaches the queue of its port at tick `e`. One that is discarded here does not count as the entry before the
next one (DESIGN CHOICE, log entry 46). -/
def TPort.arrive (p : TPort) (ent : TqEnt) (sq : BitVec 8) (e : Nat) : TPort :=
  let no := p.next
  let has := opRecords ent.opw
  let p := { p with next := no + 1, recs := if has then p.recs ++ [(no, none)] else p.recs }
  let ent := { ent with recNo := if has then some no else none, seq := no }
  if ent.squashed sq then p.squash ent
  else
    let (kt, ke, late) := effKey p ent e
    { p with ktick := kt, keighth := ke, queue := p.queue ++ [{ ent with ktick := kt, keighth := ke, late := late }] }

/-- R61, R68, R146: the oldest item of a thread's crossing arrives. -/
def tqEntryStep (n t : Nat) (s : State) : State :=
  let g := n * 16 + t
  let th := s.thr g
  if !s.pinLogic n then s
  else match th.cross with
    | [] => s
    | .reopen k :: r => s.setThr g { th with cross := r, squashed := setBits th.squashed k 1 0 }
    | .op e :: r =>
      let k := n * 32 + e.port
      (s.setThr g { th with cross := r }).setPort k ((s.port k).arrive e th.squashed s.clk.tb)
def execTqEntry (n t : Fin 16) (s : State) : Out := .next (tqEntryStep n t s)

/-! ## Performance (R61 to R69) -/

/-- R69: TW_EVT with a squash or late event of an entry. -/
def evtWord (p : Nat) (e : TqEnt) (late : Bool) : Word :=
  BitVec.ofNat 32 ((e.tick % 65536).toNat * 2 ^ 16 + 2 ^ 14 + b2n late * 2 ^ 13
    + (if e.guard.getLsbD 27 then bits e.guard 24 3 else 0) * 2 ^ 10 + e.wslot * 2 ^ 5 + p)

/-- R67, R69: a squash or late event of an entry of port p, in its owner. -/
def State.tqEvent (s : State) (n t p : Nat) (e : TqEnt) (late : Bool) : State :=
  let g := n * 16 + t
  let th := (s.thr g).settle (s.core n).round
  let w := if th.twEvt.getLsbD 14 then th.twEvt ||| 0x8000 else evtWord p e late
  let grp := if e.guard.getLsbD 27 then bits e.guard 24 3 else 0
  (s.setThr g { th with twEvt := w }).raiseEv g (if late then 0x17 else 0x16) (if late then p else p + grp * 2 ^ 5)

/-- R61, R437: the late event of an entry and what it records. -/
def State.tqLate (s : State) (n t p : Nat) (e : TqEnt) : State :=
  let k := n * 32 + p
  let q := s.port k
  let pol := s.fld (spanOff n (0x200 + 8 * p)) 29 2
  let lo : Word := BitVec.ofInt 32 e.tick
  let s1 := (s.setPort k { q with lateCnt := satInc 255 q.lateCnt }).tqEvent n t p e true
  let s2 := if pol = 1 then
    s1.offer 0x0209 (objWord 2 n p) lo (BitVec.ofNat 32 e.eighth) (BitVec.ofNat 32 e.ktick) else s1
  if s.det n t then s2.offer 0x0905 (objWord 2 n p) lo (BitVec.ofNat 32 e.ktick) (BitVec.ofNat 32 pol) else s2

/-- R62, R63: the level a guard reads at tick T; `pads` are the pad inputs captured at the edge of tick T − 2. -/
def State.guardLevel (s : State) (n : Nat) (g : Word) (pads : BitVec 24) (tick : Nat) : Bool :=
  let eng := bits g 20 4
  let c := bits g 18 2
  let idx := bits g 0 9
  let ch := (s.chan (chanKey n eng c)).seenAt tick
  match bits g 28 2 with
  | 0 => (pads &&& s.ieMask n).getLsbD idx
  | 1 => s.bitVar n eng c (s.chFlags n eng c ch) ch ch.pins idx
  | _ => (s.chFlags n eng c ch).getLsbD idx

/-- R65: a group is squashed: every entry of it in the queue of a port is discarded. -/
def TPort.dropGroup (p : TPort) (grp : Nat) : TPort :=
  let dead (e : TqEnt) : Bool := e.guard.getLsbD 27 && bits e.guard 24 3 == grp
  let p1 := (p.queue.filter dead).foldl TPort.squash p
  { p1 with queue := dropIf dead p.queue }

/-- R65: group `grp` of thread t is marked squashed. -/
def State.squashGroup (s : State) (n t grp : Nat) : State :=
  let g := n * 16 + t
  let th := s.thr g
  iter (fun p s =>
    let c := s.reg (spanOff n (0x200 + 8 * p))
    if c.getLsbD 31 && bits c 20 4 == t then s.setPort (n * 32 + p) ((s.port (n * 32 + p)).dropGroup grp) else s) 32
    (s.setThr g { th with squashed := setBits th.squashed grp 1 1 })

/-- R56: the pins and levels of an operation of port p. -/
def State.opPins (s : State) (n p : Nat) (opw : Word) : BitVec 24 × BitVec 24 :=
  let c := s.reg (spanOff n (0x200 + 8 * p))
  let w := bits c 8 3 + 1
  (BitVec.ofNat 24 ((bits opw 8 8 % 2 ^ w) <<< bits c 0 5), BitVec.ofNat 24 ((bits opw 0 8 % 2 ^ w) <<< bits c 0 5))

/-- R56: the effect of an entry at its stamp, and its record; `pads` are the pad levels at each
eighth of its tick, 24 bits for each (R45). -/
def State.tqPerform (s : State) (n p : Nat) (e : TqEnt) (pads : BitVec 192) : State :=
  let (m, v) := s.opPins n p e.opw
  let b := s.fld (spanOff n (0x200 + 8 * p)) 0 5
  let s1 := match opKind e.opw with
    | 1 => s.writeGpio n m v 0 0
    | 2 => s.writeGpio n 0 0 m v
    | 3 => s.writeGpio n m v m m
    | _ => s
  let lv := if opKind e.opw = 4 then (pads.extractLsb' (24 * e.keighth) 24 &&& s.ieMask n &&& m).toNat >>> b else 0
  let k := n * 32 + p
  s1.setPort k ((s1.port k).fill e (recWord e.ktick e.opw e.late false false lv))

/-- R64: the entry e of port p is discarded, dropped, squashed or performed. A late entry stays in the queue until its effective key,
and takes its late event there (DESIGN CHOICE, log entry 46). -/
def State.tqTake (s : State) (n t p : Nat) (e : TqEnt) (guardPads : BitVec 24) (pads : BitVec 192) : State :=
  let k := n * 32 + p
  let q := s.port k
  let s1 := s.setPort k { q with queue := dropIf (fun x => x.seq == e.seq) q.queue }
  let pol := s.fld (spanOff n (0x200 + 8 * p)) 29 2
  if e.squashed (s.thr (n * 16 + t)).squashed then s1.setPort k ((s1.port k).squash e)
  else
    let s2 := if e.late then s1.tqLate n t p e else s1
    if e.late && pol == 0 then s2.setPort k ((s2.port k).fill e (recWord e.tick e.opw false true false 0))
    else if e.guard.getLsbD 31 && s2.guardLevel n e.guard guardPads e.ktick != e.guard.getLsbD 30 then
      let s3 := (s2.setPort k ((s2.port k).squash e)).tqEvent n t p e false
      if e.guard.getLsbD 27 then s3.squashGroup n t (bits e.guard 24 3) else s3
    else s2.tqPerform n p e pads

/-- R64: entry `a` of port p goes before entry `b` of port q. -/
def entBefore (a b : TqEnt) : Bool :=
  decide (a.ktick < b.ktick) || (a.ktick == b.ktick && (decide (a.keighth < b.keighth) || (a.keighth == b.keighth &&
    (decide (a.wslot < b.wslot) || (a.wslot == b.wslot && decide (a.seq < b.seq))))))

/-- The first entry of the ports of thread t by R64, with its port. -/
def State.firstEntry (s : State) (n t : Nat) : Option (Nat × TqEnt) :=
  iter (fun p b =>
    let c := s.reg (spanOff n (0x200 + 8 * p))
    match (if c.getLsbD 31 && bits c 20 4 == t then (s.port (n * 32 + p)).queue else []), b with
    | e :: _, some (q, f) => if entBefore e f then some (p, e) else some (q, f)
    | e :: _, none => some (p, e)
    | [], b => b) 32 none

/-- R64: the entries of thread t due at tick `tick`, in their order. -/
def takeDue (n t tick : Nat) (guardPads : BitVec 24) (pads : BitVec 192) : Nat → State → State
  | 0, s => s
  | f + 1, s =>
    match s.firstEntry n t with
    | some (p, e) => if e.ktick = tick then takeDue n t tick guardPads pads f (s.tqTake n t p e guardPads pads) else s
    | none => s

/-- R63: the engines that guards due at tick `t` in the queues of Span n read have taken their steps before it. -/
def State.guardsReady (s : State) (n t : Nat) : Bool :=
  s.steppedTo (fun k => k / 12 == n && s.guardWaits n (k % 12) (256 * t)) t

/-- R64: the earliest tick at which entries of thread t are due is taken, once TB has reached it, before a switch instant that comes
later (R222). -/
def timedDueStep (n t : Nat) (guardPads : BitVec 24) (pads : BitVec 192) (s : State) : State :=
  if !s.pinLogic n then s
  else match s.firstEntry n t with
    | some (_, e) =>
      if e.ktick ≤ s.clk.tb ∧ s.beforeApply e.ktick = true ∧ s.beforeDirect n e.ktick = true ∧ s.guardsReady n e.ktick = true then
        takeDue n t e.ktick guardPads pads 512 s
      else s
    | none => s
def execTimedEntryDue (n t : Fin 16) (guardPins : BitVec 24) (pins : BitVec 192) (s : State) : Out :=
  .next (timedDueStep n t guardPins pins s)

/-! ## Setup (R55, R68, R70) -/

/-- R68: a write of TW_GRP reopens the groups whose bits are 1. -/
def reopenGroups (n t : Nat) (groups : BitVec 8) (s : State) : State :=
  let th := s.thr (n * 16 + t)
  s.setThr (n * 16 + t) { th with squashed := th.squashed &&& ~~~groups }
def execTwGrpReopen (n t : Fin 16) (groups : BitVec 8) (s : State) : Out := .next (s.gate n (reopenGroups n t groups))

/-- R55: the check of an enable of port p with the fields of `v`. Where the table names no owner, the object is the port (DESIGN CHOICE,
log entry 46). -/
def State.tpBar (s : State) (n p : Nat) (v : Word) : Check :=
  let base := bits v 0 5
  let w := bits v 8 3 + 1
  let self := objWord 2 n p
  let own := findFrom (fun q => decide (q < 24) && (ownerAt s.reg n q).isSome) w base
  let fn := findFrom (fun q => decide (q < 24) && s.funcOf n q != 0) w base
  firstFail [
    own.bind fun q => (ownerAt s.reg n q).map fun o => (0x0111, o),
    (s.portOf n (bits v 20 4) (bits v 16 3)).map fun q => (0x0112, objWord 2 n q),
    failIf fn.isSome 0x0410 self,
    failIf (decide (23 < base + w - 1)) 0x0411 self,
    failIf (v.getLsbD 30) 0x0413 self]

/-- Port p with its queue, records and cursor emptied (R70, R39). -/
def TPort.clear (p : TPort) : TPort :=
  { p with queue := [], recs := [], recOut := 0, ctick := 0, ceighth := 0, ktick := 0, keighth := 0 }

/-- The operations of a port that are in the crossing are discarded with it. -/
def crossWithout (p : Nat) (l : List CrossItem) : List CrossItem :=
  dropIf (fun i => match i with
    | .op e => e.port == p
    | _ => false) l

/-- R70: the port's queue and records are emptied without pin effect. -/
def State.clearPort (s : State) (n p : Nat) : State :=
  let k := n * 32 + p
  let g := n * 16 + s.fld (spanOff n (0x200 + 8 * p)) 20 4
  let th := s.thr g
  (s.setPort k (s.port k).clear).setThr g { th with cross := crossWithout p th.cross }

/-- A write of TP_CFG[p] (R55, R70). -/
def tpCfgWrite (src : Src) (n p : Nat) (v : Word) (s : State) : State :=
  let off := spanOff n (0x200 + 8 * p)
  let mask := BitVec.ofNat 32 (fieldsMask (fun _ => true) (regFields off))
  if s.bit off 31 then
    if v.getLsbD 31 then if v &&& mask = s.reg off then s else s.refuse src off 0x0412 (objWord 2 n p)
    else (s.clearPort n p).setReg off (v &&& mask)
  else
    let s1 := s.setReg off (v &&& mask &&& 0x7FFFFFFF)
    if v.getLsbD 31 then
      match s1.bothPass (fun s => s.tpBar n p v) with
      | some (code, d) => s1.refuse src off code d
      | none =>
        let s2 := s1.clearPort n p
        let q := s2.port (n * 32 + p)
        (s2.setPort (n * 32 + p) { q with lateCnt := 0, sqCnt := 0 }).setReg off (v &&& mask)
    else s1
def execTpEnable (n : Fin 16) (p : Fin 32) (v : Word) (s : State) : Out :=
  .next (s.gate n (tpCfgWrite .host n p (v ||| 0x80000000)))
def execTpDisable (n : Fin 16) (p : Fin 32) (v : Word) (s : State) : Out :=
  .next (s.gate n (tpCfgWrite .host n p (v &&& 0x7FFFFFFF)))

end Sys2Proof.Machine
end

