-- ==== Sys2Proof/Machine/Checks.lean ====
section
/-! DEFINITION. The consistency checks of Spans, pins, Clove channels, Guard targets, region entries, the decode table and the
lifetime counters (R77, R81, R123, R205, R220, R229, R234, R239, R324), and their order (R309). -/
namespace Sys2Proof.Machine

/-! ## Order -/

/-- The first failure of a class. -/
def firstOf (cl : Nat) : List Check → Check
  | [] => none
  | some f :: r => if f.1 / 256 = cl then some f else firstOf cl r
  | none :: r => firstOf cl r

/-- R309: the first failure by class, then in the order of the list. -/
def byClass (l : List Check) : Check := firstFail ((List.range 16).map fun c => firstOf c l)

/-! ## Spans (R77, R81) -/

/-- The threads a slot-table row names. -/
def rowThreads (w : Word) : List Nat :=
  ((List.range 4).filter fun l => w.getLsbD (8 * l + 7)).map fun l => bits w (8 * l) 4

/-- THR_DWIN.EN of a thread. -/
def State.dwinOn (s : State) (n t : Nat) : Bool := s.bit (spanOff n (0x80 + 4 * t)) 31

/-- A list names an element twice. -/
def hasTwice : List Nat → Bool
  | [] => false
  | a :: r => r.contains a || hasTwice r

/-- R77: the checks of a row. -/
def State.rowFails (s : State) (n r : Nat) : List Check :=
  let l := rowThreads (s.reg (spanOff n (0x800 + 4 * r)))
  [failIf (hasTwice l) 0x0201 (objWord 0xB n r),
   failIf (l.any fun t => t < 8 && l.contains (t + 8) && s.dwinOn n t && s.dwinOn n (t + 8)) 0x0202 (objWord 0xB n r)]

/-- R81: the checks of a thread. -/
def State.thrFails (s : State) (n t : Nat) : List Check :=
  let det := s.bit (spanOff n (0x400 + 0x40 * t)) 27
  let cw := s.reg (spanOff n (0x40 + 4 * t))
  let win (t : Nat) : Nat := s.fld (spanOff n (0x80 + 4 * t)) 0 3
  let bad := !cw.getLsbD 31 || decide (bits cw 16 10 < bits cw 0 10) || bits cw 0 10 / 128 != t % 8 || bits cw 16 10 / 128 != t % 8
  [failIf (det && bad) 0x0301 (objWord 1 n t),
   failIf (det && !s.dwinOn n t) 0x0302 (objWord 1 n t),
   failIf (decide (t < 8) && s.dwinOn n t && s.dwinOn n (t + 8) && win t == win (t + 8)) 0x0303 (objWord 1 n t)]

/-- The checks of the slot table and the windows of a Span. -/
def State.slotFails (s : State) (n : Nat) : List Check :=
  (List.range 64).flatMap (s.rowFails n) ++ (List.range 16).flatMap (s.thrFails n)

/-! ## Pins (R214, R220, R229) -/

/-- R214: function 14 exists on a pin. -/
def func14 (n p : Nat) : Bool := n == 0 && decide (p ≤ 10)

/-- R214, R220: the checks of a pin's pad setup and function. -/
def State.pinFails (s : State) (n p : Nat) : List Check :=
  let pad := s.reg (spanOff n (0x7404 + 0x10 * p))
  let vsel := s.bit (spanOff n 0x124) 0
  let ovt := pad.getLsbD 9
  let o := objWord 9 n p
  [failIf (s.funcOf n p == 14 && !func14 n p) 0x0421 o,
   failIf (bits pad 1 2 == 3) 0x0425 o,
   failIf (ovt && !vsel) 0x0422 o,
   failIf (ovt && !pad.getLsbD 6) 0x0423 o,
   failIf (ovt && bits pad 1 2 == 2) 0x0424 o,
   failIf (vsel != s.clk.sensed.getLsbD n) 0x0427 o]

/-- R229: in the state judged, pin p, whose function was `was`, is held by a unit that its function takes it from; gives the owner. -/
def State.takenFrom (s : State) (n p was : Nat) : Option Word :=
  let f := s.funcOf n p
  match (if f = 0 then none else (portAt s.reg n p).map (objWord 2 n)) with
  | some o => some o
  | none =>
    match findBelow 48 fun k => k / 4 + 1 != f && (s.reg (chnOff n (k / 4) (k % 4))).getLsbD 31 && chanHolds s.reg n (k / 4) (k % 4) p with
    | some k => some (objWord 3 n k)
    | none => if was ≠ 13 ∨ f = 13 then none else (captureAt s.reg n p).map (objWord 5 n)

/-- R229: the check of a change of a pin's function from `was`. -/
def State.funcFails (s : State) (n p was : Nat) : Check := (s.takenFrom n p was).map fun o => (0x0114, o)

/-! ## Clove channels (R205) -/

/-- The channels of an engine's schedule that hold an entry. -/
def State.weighted (s : State) (n e c : Nat) : Bool :=
  (List.range (s.fld (ceOff n e) 16 4 + 1)).any fun i => bits (s.reg (ceOff n e + 8)) (2 * i) 2 == c

/-- R205: a valid binding of the channel's target names the channel, as its posting or its flash-side channel. -/
def State.bindingNames (s : State) (n e c : Nat) : Bool :=
  let t := s.fld (chnOff n e c + 0x10) 0 8
  let is (b : Nat) : Bool :=
    let w := s.reg (gtOff t + 8 + 4 * b)
    w.getLsbD 31 && bits w 27 4 == n && ((bits w 23 4 == e && bits w 21 2 == c)
      || (!s.bit (gtOff t) 30 && bits w 16 4 == e && bits w 14 2 == c))
  is 0 || is 1

/-- R205: an end and a conduit, or two ends, hold one direction of a channel. -/
def State.twoBound (s : State) (n e c : Nat) (out : Bool) : Option Word := match s.boundEnd n e c out with
  | some k => (cdtFind 1 (if out then 0 else 1) n (e * 4 + c) s.host.cdts).map fun _ => endObj n k
  | none => none

/-- R205: the checks of a channel, in the order of its table. -/
def State.chanFails (s : State) (n e c : Nat) : List Check :=
  let o := chnOff n e c
  let b := s.fld o 8 5
  let w := s.fld o 0 3
  let self := objWord 3 n (e * 4 + c)
  let grp (j p : Nat) : Bool := let o := chnOff n e j; Nat.ble (s.fld o 8 5) p && Nat.ble p (s.fld o 8 5 + s.fld o 0 3)
  let other := findBelow 4 fun j => j != c && s.chnEn n e j && (List.range 24).any fun p => grp c p && grp j p
  let word := findBelow 256 fun a => clReserved (s.clWord n e a)
  [((s.twoBound n e c true).orElse fun _ => s.twoBound n e c false).map fun d => (0x0124, d),
   other.map fun j => (0x0113, objWord 3 n (e * 4 + j)),
   failIf ((List.range 24).any fun p => chanHolds s.reg n e c p && s.funcOf n p != e + 1) 0x0414 self,
   failIf (decide (23 < b + w)) 0x0411 self,
   word.map fun a => (0x0501, objWord 0xD n (e * 256 + a)),
   failIf (decide (s.fld (o + 4) 0 8 < s.fld (o + 4) 8 8)) 0x0503 self,
   failIf (decide (s.fld (ceOff n e + 4) 0 24 < 0x100)) 0x0505 self,
   failIf (!s.weighted n e c) 0x0506 self,
   failIf (s.bit (o + 0x10) 31 && !s.bindingNames n e c) 0x0605 self]

/-! ## Guard targets and entries (R234, R239) -/

/-- The channels that the valid bindings of a target name, as channel numbers. -/
def State.boundChans (s : State) (t : Nat) : List Nat :=
  let mon := s.bit (gtOff t) 30
  (List.range 2).flatMap fun b =>
    let w := s.reg (gtOff t + 8 + 4 * b)
    if w.getLsbD 31 then
      chanKey (bits w 27 4) (bits w 23 4) (bits w 21 2) ::
        (if mon then [] else [chanKey (bits w 27 4) (bits w 16 4) (bits w 14 2)])
    else []

/-- R234: a binding that the check refuses. -/
def bindBad (mon : Bool) (w : Word) : Bool :=
  w.getLsbD 31 && (decide (11 < bits w 23 4)
    || (if mon then bits w 16 4 != 0 || bits w 14 2 != 0 else decide (11 < bits w 16 4) || bits w 16 4 == bits w 23 4))

/-- R234: the checks of a target, in the order of its table. -/
def State.gtFails (s : State) (t : Nat) : List Check :=
  let cfg := s.reg (gtOff t)
  let pol := s.reg (gtOff t + 4)
  let b0 := s.reg (gtOff t + 8)
  let b1 := s.reg (gtOff t + 12)
  let mon := cfg.getLsbD 30
  let abits := bits cfg 21 6
  let self := objWord 6 0 t
  let mine := s.boundChans t
  let busy := findBelow 256 fun u => u != t && s.gtEn u && (s.boundChans u).any mine.contains
  let lane := if pol.getLsbD 19 then findBelow 256 fun u => u != t && s.laneOfTarget u == some (bits pol 15 4) else none
  let measures := bits pol 30 2 == 1 || (entsOf t s.regionLive).any fun x => entPol x.2 0 == 1
  [failIf (decide (4 < bits cfg 27 3) || abits == 0 || decide (42 < abits) || (bits cfg 27 3 == 3 && !mon)) 0x0601 self,
   failIf (decide (24 < bits cfg 16 5) || decide (abits < bits cfg 7 5) || decide (bits cfg 7 5 < bits cfg 12 4)) 0x0602 self,
   failIf ((!b0.getLsbD 31 && !b1.getLsbD 31) || bindBad mon b0 || bindBad mon b1) 0x0603 self,
   busy.map fun u => (0x0116, objWord 6 0 u),
   lane.map fun u => (0x0115, objWord 6 0 u),
   failIf (measures && !pol.getLsbD 19) 0x0B01 self,
   failIf (bits pol 30 2 == 3 || bits pol 28 2 == 3 || bits pol 26 2 == 3) 0x0606 self,
   failIf s.gd.sealed 0x0620 self]

/-- R239: the checks of one staged entry, in the order of its table. -/
def State.entFails (s : State) (i : Nat) (e : BitVec 128) : List Check :=
  let t := entTarget e
  let o := objWord 0xC 0 i
  if !e.getLsbD 127 || !s.gtEn t then []
  else
    [failIf (entPol e 0 == 3 || entPol e 1 == 3 || entPol e 2 == 3 || bits e 84 19 != 0) 0x0606 o,
     failIf (decide (entLimit e < entBase e) || decide (2 ^ s.fld (gtOff t) 21 6 ≤ entLimit e)) 0x0607 o,
     failIf (entPol e 0 == 1 && !s.bit (gtOff t + 4) 19) 0x0B01 o]

/-- The entries of `b` that differ from those of `a`, in both directions. -/
def entsChanged (a b : Tab (BitVec 128)) : List Nat :=
  ((b.filter fun x => tabGet 0 a x.1 != x.2).map (·.1)) ++ ((a.filter fun x => tabGet 0 b x.1 == 0).map (·.1))

/-! ## Decode table and counters (R123, R324) -/

/-- R123: a micro-operation that holds no reserved value; `last` for the one with END = 1. -/
def uopOk (u : DWord) (last : Bool) : Bool :=
  u.getLsbD 63 && (decide (bits u 57 5 ≤ 0x0D) || bits u 57 5 == 0x10) && decide (bits u 54 3 < 4) && bits u 40 2 != 3
    && (if last then decide (bits u 32 8 < 32) else bits u 32 8 == 0)

/-- R123: the XOPs the check accepts. -/
def State.xopOk (s : State) (x : Nat) : Bool :=
  if !(s.uop x 0).getLsbD 63 then true
  else match findBelow 32 fun k => (s.uop x k).getLsbD 62 with
    | some j => (List.range (j + 1)).all fun k => uopOk (s.uop x k) (k == j)
    | none => false

/-- A decode-table word would change. -/
def State.decodeChanges (s : State) : Bool :=
  s.dirty.any fun u => Nat.ble 0x4000 u && Nat.blt u 0x5000 && s.after u != s.reg u

/-- R323: settings 0 to 3 that a commit would change. -/
def State.pfChanges (s : State) : List Nat :=
  let a := s.after 0x420
  let b := s.reg 0x420
  (if s.decodeChanges then [0] else []) ++ (if a.getLsbD 1 != b.getLsbD 1 then [1] else [])
    ++ (if bits a 2 2 != bits b 2 2 then [2] else []) ++ (if a.getLsbD 0 != b.getLsbD 0 then [3] else [])

/-- R324: a staged change to an exhausted setting. -/
def State.pfFails (s : State) : List Check :=
  s.pfChanges.map fun k => failIf (!(s.frz.boot && k == 0) && decide (pfLimit k ≤ s.pfUsed k)) 0x0801 0

/-! ## The check of a Freeze (R314) -/

/-- A pin has a changed field; VSEL is a field of every pin of its bank. -/
def State.pinChanges (s : State) (n p : Nat) : Bool :=
  [spanOff n (0x7400 + p * 0x10), spanOff n (0x7404 + p * 0x10), spanOff n 0x124].any fun o =>
    s.dirty.contains o && s.after o != s.reg o

/-- The function of a pin changes. -/
def State.funcChanges (s : State) (n p : Nat) : Bool :=
  let o := spanOff n (0x7400 + p * 0x10)
  s.dirty.contains o && s.after o != s.reg o

/-- R234: a Freeze changes a target's fields, a binding or an entry that names it. -/
def State.gtChanges (s a : State) (t : Nat) : Bool :=
  ((List.range 4).any fun k => let o := gtOff t + 4 * k; s.dirty.contains o && s.after o != s.reg o)
    || (s.dirty.contains regionUnit && (entsChanged s.regionLive a.regionLive).any fun i =>
      entTarget (tabGet 0 s.regionLive i) == t || entTarget (tabGet 0 a.regionLive i) == t)

/-- R314: the checks of one Span; `s` is the state before and `a` the state the commit would make live. -/
def State.spanFrzFails (s a : State) (n : Nat) : List Check :=
  (if s.dirty.any fun u => u / 0x10000 == 16 + n then
    a.slotFails n
      ++ (List.range 24).flatMap (fun p => (if s.funcChanges n p then [a.funcFails n p (s.funcOf n p)] else [])
        ++ (if s.pinChanges n p then a.pinFails n p else []))
      ++ (List.range 12).flatMap (fun e => if s.engChanges n e then
        (List.range 4).flatMap fun c => if s.chnEn n e c then a.chanFails n e c else [] else [])
  else [])

/-- R234, R239, R240, R433: the checks of the Guard. -/
def State.gdFrzFails (s a : State) : List Check :=
  if s.dirty.any fun u => u == regionUnit || u / 0x1000 == 0x31 then
    ((List.range 256).flatMap fun t => if s.gtEn t && s.gtChanges a t then a.gtFails t else [])
      ++ (a.regionLive.flatMap fun x => a.entFails x.1 x.2)
      ++ [(s.badEntry !s.gd.liveBank).map fun i => (0x0606, objWord 0xC 0 i)]
      ++ (if s.gd.sealed then (entsChanged s.regionLive a.regionLive).map fun i => some (0x0620, objWord 0xC 0 i) else [])
  else []

/-- R314: the check of a Freeze. -/
def State.freezeBar (s : State) : Check :=
  let a := s.applied
  byClass ((List.range 16).flatMap (s.spanFrzFails a) ++ s.gdFrzFails a
    ++ [failIf (s.decodeChanges && !(List.range 16).all a.xopOk) 0x0810 0] ++ s.pfFails)

/-- R306: the check of SPAN_EN.EN[n]. -/
def State.spanBar (n : Nat) (s : State) : Check :=
  byClass (s.slotFails n ++ (List.range 24).flatMap (s.pinFails n))

end Sys2Proof.Machine
end

