-- ==== Sys2Proof/Machine/Pins.lean ====
section
/-! DEFINITION. The GPIO registers (R217), direct function writes (R224, R225), keepers (R223) and the Rime lock (R226, R227). -/
namespace Sys2Proof.Machine

/-! ## GPIO (R217) -/

/-- The bits of a bank that GPIO writes reach: those of pins that no enabled timed port owns. -/
def State.gpioMask (s : State) (n : Nat) : BitVec 24 := ~~~s.portPins n

/-- A write of GPIO value bits. -/
def gpioVal (n : Nat) (mask val : BitVec 24 → BitVec 24) (s : State) : State :=
  let old := (s.bank n).gv
  s.writeGpio n (mask old &&& s.gpioMask n) (val old) 0 0

/-- A write of GPIO enable bits. -/
def gpioEn (n : Nat) (mask val : BitVec 24 → BitVec 24) (s : State) : State :=
  let old := (s.bank n).ge
  s.writeGpio n 0 0 (mask old &&& s.gpioMask n) (val old)

/-- The low 24 bits of a written word. -/
def pins24 (v : Word) : BitVec 24 := v.truncate 24

def gpioAll (_ : BitVec 24) : BitVec 24 := BitVec.allOnes 24

def execGpioOut (n : Fin 16) (v : Word) (s : State) : Out := .next (s.gate n (gpioVal n gpioAll fun _ => pins24 v))
def execGpioOutSet (n : Fin 16) (v : Word) (s : State) : Out := .next (s.gate n (gpioVal n (fun _ => pins24 v) gpioAll))
def execGpioOutClr (n : Fin 16) (v : Word) (s : State) : Out := .next (s.gate n (gpioVal n (fun _ => pins24 v) fun _ => 0))
def execGpioOutTgl (n : Fin 16) (v : Word) (s : State) : Out := .next (s.gate n (gpioVal n (fun _ => pins24 v) fun o => ~~~o))
def execGpioOe (n : Fin 16) (v : Word) (s : State) : Out := .next (s.gate n (gpioEn n gpioAll fun _ => pins24 v))
def execGpioOeSet (n : Fin 16) (v : Word) (s : State) : Out := .next (s.gate n (gpioEn n (fun _ => pins24 v) gpioAll))
def execGpioOeClr (n : Fin 16) (v : Word) (s : State) : Out := .next (s.gate n (gpioEn n (fun _ => pins24 v) fun _ => 0))
def execGpioOeTgl (n : Fin 16) (v : Word) (s : State) : Out := .next (s.gate n (gpioEn n (fun _ => pins24 v) fun o => ~~~o))

/-! ## Direct function writes (R224, R225) -/

/-- The offset of PIN_MUX of a pin; PIN_PAD, PIN_DIRECT and PIN_STS follow. -/
def pinOff (n p : Nat) : Nat := spanOff n (0x7400 + p * 0x10)

/-- R220, R229: the check of a direct write of function f. -/
def State.directBar (n p f : Nat) (s : State) : Check :=
  let s1 := s.setReg (pinOff n p) (BitVec.ofNat 32 f)
  byClass (s1.funcFails n p (s.funcOf n p) :: s1.pinFails n p)

/-- A write of PIN_DIRECT of a pin. It applies 3 or 4 bank cycles on; which is free. -/
def pinDirectWrite (src : Src) (n p : Nat) (v : Word) (s : State) : State :=
  let off := pinOff n p + 8
  let f := bits v 0 4
  if (s.bank n).rimeLock.getLsbD p then s.refuse src off 0x0420 (objWord 9 n p)
  else if !v.getLsbD 31 then s
  else match s.bothPass (State.directBar n p f) with
    | some (code, d) => s.refuse src off code d
    | none =>
      let b := s.bank n
      let t := b.direct.foldl (fun m d => max m d.2.2) (s.clk.tb + 3 + bits s.free 0 1)
      let s1 := (s.setBank n { b with direct := b.direct ++ [(p, f, t)] }).drawn
      if s.firnBar src = none then s1.setStg (pinOff n p) (BitVec.ofNat 32 f) else s1
def execPinDirect (src : Src) (n : Fin 16) (pin : Fin 24) (v : Word) (s : State) : Out :=
  .next (s.via src fun s => s.gate n (pinDirectWrite src n pin v))

/-- R222, R224: what falls in bank n before tick `t` has been done. -/
def State.bankTo (s : State) (n t : Nat) : Bool := s.steppedTo (fun k => k / 12 == n) t && s.queuedTo (· == n) t

/-- R224, R225: the oldest direct write of a bank applies at its tick and switches its pin; a commit that changes the pin will replace
it. -/
def directSwitchStep (n : Nat) (s : State) : State :=
  let b := s.bank n
  match b.direct with
  | [] => s
  | (p, f, t) :: r =>
    if s.clk.tb < t ∨ s.beforeApply t = false ∨ s.bankTo n t = false then s
    else
      let s1 := s.setBank n { b with
        direct := r
        directOver := if s.committing && s.funcChanges n p then b.directOver ||| (1#24 <<< p) else b.directOver }
      let s2 := s1.setReg (pinOff n p) (BitVec.ofNat 32 f)
      (s2.freezePaths n (leftPath s s2 n)).keepAfter s n t
def execDirectSwitch (n : Fin 16) (s : State) : Out := .next (if s.clk.mainRst then s else directSwitchStep n s)

/-- R223: a keeper whose 64 bank cycles are over lets go. -/
def keeperStep (n p : Nat) (s : State) : State :=
  let b := s.bank n
  if tabGet 0 b.keep p ≠ 0 ∧ tabGet 0 b.keep p ≤ s.clk.tb then s.setBank n { b with keep := tabDel p b.keep } else s
def execKeeperRelease (n : Fin 16) (pin : Fin 24) (s : State) : Out := .next (keeperStep n pin s)

/-! ## The pad-control bus (R454) -/

/-- The word of the bus for a pad setup. -/
def padByte (w : Word) : Nat := bits w 0 3 + bits w 4 2 * 2 ^ 3 + bits w 7 3 * 2 ^ 5

/-- Words of the bus, one every 2 cycles after tick `t`. -/
def busWords (t : Nat) : List (Nat × Nat) → List (Nat × Nat × Nat)
  | [] => []
  | (sel, d) :: r => (t + 2, sel, d) :: busWords (t + 2) r

/-- The bus of bank n sends the pad setup of pins, in their order, and then the bank word where `bank`, from tick `t` on and after what it
has still to send (DESIGN CHOICE, log entry 48). -/
def State.sendPads (s : State) (n t : Nat) (pins : List Nat) (bank : Bool) : State :=
  let b := s.bank n
  let l := (pins.map fun p => (p, padByte (s.reg (pinOff n p + 4)))) ++ if bank then [(0x1F, s.fld (spanOff n 0x124) 0 1)] else []
  if l = [] then s
  else s.setBank n { b with pcb := b.pcb ++ busWords (b.pcb.foldl (fun m w => max m w.1) t) l }

/-! ## The Rime lock (R226, R227) -/

/-- R226: the sequence of a Span fails. -/
def State.rimeFail (s : State) (n : Nat) : State :=
  let b := s.bank n
  let f := satInc 255 b.rimeFails
  (s.setBank n { b with rimeSeq := 0, rimeFails := f }).offer 0x0107 (objWord 9 n 0) (BitVec.ofNat 32 f) 0 0

/-- R226: 4,096 ticks after a key write with no next write the sequence fails. -/
def rimeTimeoutStep (n : Nat) (s : State) : State :=
  let b := s.bank n
  if b.rimeSeq ≠ 0 ∧ b.rimeTick + 4096 ≤ s.clk.tb then s.rimeFail n else s
def execRimeTimeout (n : Fin 16) (s : State) : Out := .next (if s.clk.mainRst then s else rimeTimeoutStep n s)

/-- A write of RIME_KEY to a sequence in time. -/
def rimeKeyPut (n : Nat) (v : Word) (s : State) : State :=
  let b := s.bank n
  if b.rimeSeq = 0 ∧ v = 0x1CE5 then s.setBank n { b with rimeSeq := 1, rimeTick := s.clk.tb }
  else if b.rimeSeq = 1 ∧ v = 0xC01D then s.setBank n { b with rimeSeq := 2, rimeTick := s.clk.tb }
  else s.rimeFail n

/-- A write of RIME_KEY. -/
def rimeKeyWrite (n : Nat) (v : Word) (s : State) : State := rimeKeyPut n v (rimeTimeoutStep n s)
def execRimeKey (n : Fin 16) (v : Word) (s : State) : Out := .next (s.gate n (rimeKeyWrite n v))

/-- R227: a locked pin's staged setup becomes its live setup. -/
def lockPin (n p : Nat) (s : State) : State :=
  let undo (o : Nat) (s : State) : State :=
    let s1 := s.setStg o (s.reg o)
    { s1 with dirty := dropIf (· == o) s1.dirty }
  undo (pinOff n p) (undo (pinOff n p + 4) s)

/-- A write of RIME_SET to a sequence in time: it locks the pins of its mask, or fails. -/
def rimeSetPut (n : Nat) (v : Word) (s : State) : State :=
  let b := s.bank n
  if b.rimeSeq = 2 ∧ bits v 24 8 = 0xA5 then
    let m := pins24 v
    let s1 := s.setBank n { b with rimeSeq := 0, rimeLock := b.rimeLock ||| m }
    (iter (fun p s => if m.getLsbD p then lockPin n p s else s) 24 s1).offer 0x0106 (objWord 9 n 0) (m.zeroExtend 32) 0 0
  else s.rimeFail n

/-- A write of RIME_SET. -/
def rimeSetWrite (n : Nat) (v : Word) (s : State) : State := rimeSetPut n v (rimeTimeoutStep n s)
def execRimeSet (n : Fin 16) (v : Word) (s : State) : Out := .next (s.gate n (rimeSetWrite n v))

/-! ## Status (R218, R222) -/

/-- PIN_STS of a pin. -/
def State.pinSts (s : State) (n p : Nat) : Word :=
  let b := s.bank n
  BitVec.ofNat 32 (b2n ((s.padIn n).getLsbD p) + 2 ^ 5 * b2n (b.direct.any fun d => d.1 == p)
    + 2 ^ 6 * b2n (b.rimeLock.getLsbD p) + 2 ^ 7 * b2n (decide (tabGet 0 b.keep p ≠ 0)))

end Sys2Proof.Machine
end

