-- ==== Sys2Proof/Machine/Enable.lean ====
section
/-! DEFINITION. Enabling and disabling Spans (R39, R40), Clove channels (R205 to R207) and Serac's watchdog notice (R181). -/
namespace Sys2Proof.Machine

/-! ## Spans -/

/-- A change of SPAN_EN. -/
def State.setSpanEn (s : State) (n : Nat) (b : Bool) : State := s.setReg 0x10 (setBits (s.reg 0x10) n 1 (b2n b))

/-- R39: an enabled target that a Clove channel of Span n serves. -/
def State.servedTarget (s : State) (n : Nat) : Option Nat :=
  findBelow 256 fun t => s.gtEn t && (s.boundChans t).any fun k => k / 48 == n

/-- R39, R157: a thread of a Span that stops: it keeps its state and leaves its present instruction. -/
def pauseThr (n t : Nat) (s : State) : State :=
  let g := n * 16 + t
  let th := s.thr g
  if th.active then s.setThr g { th.abandon with nextRound := max th.nextRound (s.bound n th) } else s

/-- R39: a timed port of a Span that stops: its queue, records and cursor are emptied. -/
def dropPort (n p : Nat) (s : State) : State := s.clearPort n p

/-- R39: the pins that the Span's engines and timed ports drive are let go. -/
def State.dropPins (s : State) (n : Nat) : State :=
  let b := s.bank n
  (s.setBank n { b with ce := 0, ge := b.ge &&& ~~~s.portPins n }).keepAfter s n s.clk.tb

/-- R39: the write of EN[n] from 1 to 0. -/
def spanStop (src : Src) (n : Nat) (s : State) : State :=
  match s.servedTarget n with
  | some _ => s.refuse src 0x10 0x0604 (objWord 0 n 0)
  | none =>
    let s1 := iter (dropPort n) 32 (iter (pauseThr n) 16 s)
    let c := s1.core n
    let s2 := (s1.dropPins n).setCore n { c with stopping := true }
    -- R207: a disable of a channel that waits for a step takes effect
    let s3 := iter (fun q s => if (s.chan (n * 48 + q)).stopping then s.chanOff n (q / 4) (q % 4) s.clk.tb else s) 48 s2
    (iter (fun e s => s.setEngine (n * 12 + e) { s.engine (n * 12 + e) with running := false }) 12 s3).setSpanEn n false
def execSpanDisable (n : Fin 16) (s : State) : Out :=
  .next (if s.clk.mainRst || !s.spanEn n then s else spanStop .host n s)

/-- R40: an engine of a Span that is enabled starts at this tick where its RUN is 1. -/
def startEngine (n e : Nat) (s : State) : State :=
  let g := s.engine (n * 12 + e)
  s.setEngine (n * 12 + e) { g with running := s.bit (ceOff n e) 31, origin := s.clk.tb, k := 0 }

/-- R39, R40: the write of EN[n] from 0 to 1. -/
def spanOn (src : Src) (n : Nat) (s : State) : State :=
  match s.bothPass (State.spanBar n) with
  | some (code, d) => s.refuse src 0x10 code d
  | none =>
    let c := s.core n
    let s1 := (iter (startEngine n) 12 (s.setCore n { c with stopping := false, before := [] })).setSpanEn n true
    if n = 0 then { s1 with clk := { s1.clk with bootExc := false } } else s1
def execSpanEnable (n : Fin 16) (s : State) : Out := .next (if s.clk.mainRst || s.spanEn n then s else spanOn .host n s)

/-- R39: an instruction of a thread of Span n is in flight: a data request of it waits, a setup access of it is not answered (R108), or a
result has not landed. -/
def State.inFlight (s : State) (n t : Nat) : Bool :=
  let th := s.thr (n * 16 + t)
  th.retry.isSome || th.setup.isSome || th.land.any fun p => decide ((s.core n).round < p.1)

/-- R39: the core stops completing rounds once nothing is in flight. -/
def coreStopStep (n : Nat) (s : State) : State :=
  let c := s.core n
  if c.stopping && (List.range 16).all fun t => !s.inFlight n t then s.setCore n { c with stopping := false } else s
def execSpanCoreStop (n : Fin 16) (s : State) : Out := .next (if s.clk.mainRst then s else coreStopStep n s)

/-- A write of SPAN_EN: each bit that changes. -/
def spanEnWrite (src : Src) (v : Word) (s : State) : State :=
  iter (fun n s => if v.getLsbD n then (if s.spanEn n then s else spanOn src n s) else if s.spanEn n then spanStop src n s else s) 16 s

/-! ## Clove channels -/

/-- R205: the check of an enable of a channel. -/
def State.chanBar (n e c : Nat) (s : State) : Check := byClass (s.chanFails n e c)

/-- R185, R206: an enabled channel as it starts; words of the out FIFO are kept, and a Guard answer still to land (R201). -/
def freshChan (wrap : Word) (old : Chan) : Chan :=
  { pc := bits wrap 8 8, rwb := bits wrap 8 8, rwe := bits wrap 0 8, outF := old.outF, answers := old.answers }

/-- R185: an event of a channel that is pending in a thread of its Span is so no longer. -/
def State.clearEv (s : State) (n v d : Nat) : State :=
  iter (fun t s => let th := s.thr (n * 16 + t)
    if th.pend.contains (v, d) then s.setThr (n * 16 + t) { th with pend := dropIf (· == (v, d)) th.pend } else s) 16 s

/-- A write of CHN_CFG of a channel: the RWF fields are staged; EN by R205 and R207. -/
def chnCfgWrite (src : Src) (n e c : Nat) (v : Word) (s : State) : State :=
  let off := chnOff n e c
  let k := chanKey n e c
  let s1 := stageFields src off v (regFields off) s
  if s.bit off 31 then
    if v.getLsbD 31 then s1
    else
      let s2 := s1.setReg off (s1.reg off &&& 0x7FFFFFFF)
      if (s2.engine (n * 12 + e)).running && s2.spanEn n then s2.setChan k { s2.chan k with stopping := true }
      else s2.chanOff n e c s.clk.tb
  else if v.getLsbD 31 then
    match s1.bothPass (State.chanBar n e c) with
    | some (code, d) => s1.refuse src off code d
    | none =>
      let s2 := if (s1.chan k).stopping then s1.chanOff n e c s.clk.tb else s1
      ((s2.setReg off (s2.reg off ||| 0x80000000)).setChan k (freshChan (s2.reg (off + 4)) (s2.chan k))).clearEv n 0x12 (e * 4 + c)
  else s1
def execCloveChannelEnable (src : Src) (n : Fin 16) (e : Fin 12) (c : Fin 4) (v : Word) (s : State) : Out :=
  .next (s.via src fun s => s.gate n (chnCfgWrite src n e c (v ||| 0x80000000)))
def execCloveChannelDisable (src : Src) (n : Fin 16) (e : Fin 12) (c : Fin 4) (v : Word) (s : State) : Out :=
  .next (s.via src fun s => s.gate n (chnCfgWrite src n e c (v &&& 0x7FFFFFFF)))

/-- A write of CHN_STS clears ERR, SHIFT_CARRY and STALE where written as 1. -/
def chnStsWrite (n e c : Nat) (v : Word) (s : State) : State :=
  let k := chanKey n e c
  let ch := s.chan k
  s.setChan k { ch with flags := ch.flags &&& ~~~(v.truncate 16 &&& 0x40C) }

/-! ## Serac's watchdog (R181) -/

/-- The fields of SERAC_CTL. -/
def seracMask : Word := 0xE0F0007F

/-- A write of SERAC_CTL. -/
def seracCtlWrite (src : Src) (n : Nat) (v : Word) (s : State) : State :=
  let off := spanOff n 0x380
  let e := bits v 0 7
  let ok := s.endMine n (bits v 20 4) e false && cheKind (s.reg (cheOff n e)) == 3
  if v.getLsbD 31 && !s.bit off 31 && !ok then
    (s.setReg off (v &&& seracMask &&& 0x7FFFFFFF)).refuse src off 0x0126 (endObj n e)
  else s.setReg off (v &&& seracMask)
def execSeracWdEnable (src : Src) (n : Fin 16) (v : Word) (s : State) : Out :=
  .next (s.via src fun s => s.gate n (seracCtlWrite src n (v ||| 0x80000000)))

end Sys2Proof.Machine
end

