-- ==== Sys2Proof/Machine/Link.lean ====
section
/-! DEFINITION. Frames of the link (R370), a port's transmit queue and credits (R381, R382) and sending along routes (R379). -/
namespace Sys2Proof
open Machine

/-! ## Frames (R370) -/

def Frame.typ (f : Frame) : Nat := bits f.header 60 4
def Frame.tc (f : Frame) : Nat := bits f.header 58 2
def Frame.len (f : Frame) : Nat := bits f.header 54 4
def Frame.dst (f : Frame) : Nat := bits f.header 42 12
def Frame.src (f : Frame) : Nat := bits f.header 30 12
def Frame.arg (f : Frame) : Nat := bits f.header 0 30

/-- Body word k. -/
def Frame.b (f : Frame) (k : Nat) : DWord := nth 0 f.body k

/-- R370: eight steps of the reflected CRC-32 register. -/
def crc32Bits : Nat → Nat → Nat
  | 0, r => r
  | k + 1, r => crc32Bits k (if r % 2 = 1 then (r / 2) ^^^ 0xEDB88320 else r / 2)

/-- R370: the CRC-32 of bytes. -/
def crc32 (l : List Byte) : Nat := (l.foldl (fun r b => crc32Bits 8 (r ^^^ b.toNat)) 0xFFFFFFFF) ^^^ 0xFFFFFFFF

/-- R370: the words of a frame on the link: header, body and trailer. A command carries a frame whose trailer is right; one whose trailer
is wrong is the frame cause of a link reset (log entry 41). -/
def Frame.wire (f : Frame) : List DWord :=
  f.header :: f.body ++ [BitVec.ofNat 64 (crc32 ((f.header :: f.body).flatMap fun w => leBytes 8 w.toNat))]

/-- R381: the words of a frame in a buffer: header, body and trailer. -/
def Frame.words (f : Frame) : Nat := f.body.length + 2

/-- R370: the traffic class of a frame type. -/
def typeTc (t : Nat) : Nat := if t = 7 then 1 else if t = 0xB then 2 else 0

/-- R370: LEN fits the type of the frame. -/
def Frame.lenOk (f : Frame) : Bool :=
  let k := f.body.length
  f.len == k + 1 && match f.typ with
    | 1 => k == 2
    | 2 => k == 2
    | 3 => k == 1
    | 4 => k == 1
    | 5 => k == 0
    | 6 => k == 2
    | 7 => k == ((f.arg / 2 ^ 25) % 16 + 2) / 2
    | 8 => k == 0
    | 9 => k == (if f.arg / 2 ^ 27 % 8 = 0 then 3 else 2)
    | 0xA => k == 1
    | 0xB => if f.arg.testBit 29 then decide (1 ≤ k) && decide (k ≤ 8) else k == 0
    | 0xC => k == 1
    | _ => false

/-- R371: the frame is valid. -/
def Frame.ok (f : Frame) : Bool := f.tc == typeTc f.typ && f.lenOk

end Sys2Proof

namespace Sys2Proof.Machine

/-- A frame of a type from this node. -/
def State.frame (s : State) (t dst arg : Nat) (body : List DWord) : Frame :=
  { header := BitVec.ofNat 64 (t * 2 ^ 60 + typeTc t * 2 ^ 58 + (body.length + 1) * 2 ^ 54 + dst % 4096 * 2 ^ 42
      + s.casc.node * 2 ^ 30 + arg % 2 ^ 30), body := body }

def dw (x : Nat) : DWord := BitVec.ofNat 64 x

/-! ## Sending (R381, R382) -/

/-- R381: the words of a class's receive buffer. -/
def classCap (tc : Nat) : Nat := nth 64 [32, 160, 64] tc

/-- The port's credits cover a frame; CREDIT needs none. -/
def LPort.covers (x : LPort) (f : Frame) : Bool := f.typ == 5 || decide (tabGet 0 x.cred f.tc + f.words ≤ classCap f.tc)

/-- The oldest waiting frame of a class. -/
def LPort.head (x : LPort) (tc : Nat) : Option (Frame × Nat) := x.tx.find? fun q => q.1.tc == tc

/-- R382: the frame that goes next. -/
def LPort.next (x : LPort) (tb : Nat) : Option (Frame × Nat) :=
  let heads := ((List.range 3).filterMap x.head).filter fun q => x.covers q.1
  match (heads.filter fun q => decide (q.2 + 128 ≤ tb)) with
  | a :: r => some (r.foldl (fun a b => if b.2 < a.2 then b else a) a)
  | [] => heads.head?

/-- R381, R382: frames whose credits are there are presented to the PHY, at most `f`. -/
def pumpPort (tb : Nat) : Nat → LPort → LPort
  | 0, x => x
  | f + 1, x => match x.next tb with
    | some q =>
      let g := q.1
      pumpPort tb f { x with
        tx := dropFirst q x.tx, out := x.out ++ [g], lastTx := tb
        cred := if g.typ = 5 then x.cred else tabSet 0 x.cred g.tc (tabGet 0 x.cred g.tc + g.words) }
    | none => x

/-- A frame enters the transmit queue of a port that is up to carrying it. -/
def State.enqueue (s : State) (p : Nat) (f : Frame) : State :=
  let x := s.lport p
  if x.st < 2 then s
  else s.setLport p (pumpPort s.clk.tb (x.tx.length + 1) { x with tx := x.tx ++ [(f, s.clk.tb)] })

/-- The ports of this node in state DOWNSTREAM. -/
def State.downPorts (s : State) : List Nat := (List.range 4).filter fun p => (s.lport p).st == 5

/-- A frame down every DOWNSTREAM port. -/
def State.sendDown (s : State) (f : Frame) : State := s.downPorts.foldl (fun s p => s.enqueue p f) s

/-- R374: a port in UPSTREAM or DOWNSTREAM carries all traffic. -/
def LPort.carries (x : LPort) : Bool := x.st == 4 || x.st == 5

/-- R372, R374, R379, R380: a frame from this node to a node; an unrooted node routes no TC1 frame, and a port that does not carry all
traffic carries none. -/
def State.sendTo (s : State) (f : Frame) : State := match s.route f.dst with
  | .port p => if (s.lport p).carries && (f.tc != 1 || s.casc.rooted) then s.enqueue p f else s
  | _ => s

/-! ## Receiving -/

/-- R381: a port received a frame: its words are taken from the buffer at once and become credits to return. -/
def State.received (s : State) (p : Nat) (f : Frame) : State :=
  let x := s.lport p
  let fresh := x.freed.isEmpty
  s.setLport p { x with
    lastRx := s.clk.tb
    freed := if f.typ = 5 then x.freed else tabSet 0 x.freed f.tc (tabGet 0 x.freed f.tc + f.words)
    freedAt := if fresh then s.clk.tb else x.freedAt }

/-- R379: a frame for another node goes on to the port of its route, or is dropped and counted at the port it came by. -/
def State.forward (s : State) (p : Nat) (f : Frame) : State := match s.route f.dst with
  | .port q => s.enqueue q f
  | _ => let x := s.lport p; s.setLport p { x with drop := satInc 0xFFFFFFFF x.drop }

/-! ## Entries of group 0x08 (R394) -/

/-- A cascade entry: the far or failing node, the port or Freeze ID, and two arguments. -/
def State.cascEntry (s : State) (code node a0 a1 a2 : Nat) : State :=
  s.offer code (objWord 0xA 0 node) (BitVec.ofNat 32 a0) (BitVec.ofNat 32 a1) (BitVec.ofNat 32 a2)

/-- R387, R394: TIME_OK changes. -/
def State.setTimeOk (s : State) (v : Bool) : State :=
  if s.casc.timeOk = v then s
  else (s.setCasc { s.casc with timeOk := v }).offer 0x0807 (objWord 0xA 0 s.casc.node) (BitVec.ofNat 32 s.casc.up)
    (BitVec.ofNat 32 (b2n v)) (BitVec.ofInt 32 s.casc.delta)

/-- R372: a port changes its state. -/
def State.portState (s : State) (p st : Nat) : State :=
  let x := s.lport p
  if x.st = st then s else (s.setLport p { x with st := st }).cascEntry 0x0801 x.far p x.st st

end Sys2Proof.Machine
end

