-- ==== Sys2Proof/Machine/Timers.lean ====
section
/-! DEFINITION. Span timers (R333 to R345) and the reads of TB and LF with their snapshots (R329). -/
namespace Sys2Proof.Machine

/-- The offset of TM_CFG of a timer channel; its other registers follow. -/
def tmOff (n k : Nat) : Nat := spanOff n (0x7000 + k * 0x20)

/-- The number of timer channel k of Span n. -/
def tmKey (n k : Nat) : Nat := n * 8 + k

/-- R334: the channel is running. -/
def State.tmRuns (s : State) (n k : Nat) : Bool := !s.inRst n && s.bit (tmOff n k) 31 && s.bit (tmOff n k) 30

/-- R340: channel k is the high channel of a pair. -/
def State.tmHigh (s : State) (n k : Nat) : Bool := k % 2 == 1 && s.bit (tmOff n k) 29

/-- R340: channel k is the low channel of a pair. -/
def State.tmLow (s : State) (n k : Nat) : Bool := k % 2 == 0 && s.tmHigh n (k + 1)

/-- R344: a source of the channel's TIMER event. -/
def State.tmEvent (s : State) (n k src : Nat) : State :=
  let cfg := s.reg (tmOff n k)
  let t := s.timer (tmKey n k)
  if !cfg.getLsbD (20 + src) || t.pend then s
  else (s.setTimer (tmKey n k) { t with pend := true }).raiseEv (n * 16 + bits cfg 16 4) 0x11 k

/-- R338: an action on OUT: none, set, clear or toggle. -/
def outAct (a : Nat) (o : Bool) : Bool := nth o [o, true, false, !o] a

/-- R34: SLEEP ends. -/
def State.endSleep (s : State) : State :=
  if s.clk.sleeping then { s with clk := { s.clk with sleeping := false, sleepAck := false } } else s

/-- R335, R337, R340: a match of channel k: MATCH, ACT_CMP, its event, and the end of SLEEP where WAKE is 1. -/
def State.tmMatch (s : State) (n k : Nat) : State :=
  let cfg := s.reg (tmOff n k)
  let t := s.timer (tmKey n k)
  let s1 := (s.setTimer (tmKey n k) { t with matchF := true, out := outAct (bits cfg 26 2) t.out }).tmEvent n k 0
  if cfg.getLsbD 23 then s1.endSleep else s1

/-- R335: a TOP wrap of channel k: TOPF, ACT_TOP and its event. -/
def State.tmTop (s : State) (n k : Nat) : State :=
  let t := s.timer (tmKey n k)
  (s.setTimer (tmKey n k) { t with topF := true, out := outAct (s.fld (tmOff n k) 24 2) t.out }).tmEvent n k 1

/-- R335: a CMP above TOP ≠ 0 never matches. -/
def State.tmOver (s : State) (n k : Nat) : Bool :=
  let top := s.reg (tmOff n k + 8)
  top != 0 && BitVec.ult top (s.timer (tmKey n k)).cmp

/-- R335, R340: COUNT equals CMP, in both halves for a pair. -/
def State.tmEqual (s : State) (n k : Nat) : Bool :=
  let eq (k : Nat) : Bool := (s.timer (tmKey n k)).count == (s.timer (tmKey n k)).cmp
  eq k && (!s.tmLow n k || eq (k + 1)) && !s.tmOver n k

/-- R335: the increment of a channel wraps. -/
def State.tmWraps (s : State) (n k : Nat) : Bool :=
  let top := s.reg (tmOff n k + 8)
  (s.timer (tmKey n k)).count == (if top = 0 then BitVec.allOnes 32 else top)

/-- R340: the high channel of a pair counts a wrap of its low one, while it is running. -/
def State.tmCarry (s : State) (n k : Nat) : State :=
  if s.tmLow n k && s.tmRuns n (k + 1) then
    let h := s.timer (tmKey n (k + 1))
    s.setTimer (tmKey n (k + 1)) { h with count := h.count + 1 }
  else s

/-- R335, R336: one increment of channel k, its wrap and its compare. -/
def State.tmInc (s : State) (n k : Nat) : State :=
  let t := s.timer (tmKey n k)
  let w := s.tmWraps n k
  let s1 := s.setTimer (tmKey n k) { t with count := if w then 0 else t.count + 1 }
  let s2 := if w then s1.tmCarry n k else s1
  let s3 := if w && s.reg (tmOff n k + 8) != 0 then s2.tmTop n k else s2
  if s3.tmEqual n k then s3.tmMatch n k else s3

/-- R333: the first tick after `l` at which a channel with PRE and PHASE increments. -/
def nextInc (pre phase l : Nat) : Nat :=
  let p := pre + 1
  l + 1 + (phase % p + p - (l + 1) % p) % p

/-- R333, R334: the tick of the next increment of channel k. -/
def State.tmDue (s : State) (n k : Nat) : Option Nat :=
  if s.tmRuns n k && !s.tmHigh n k && !s.bit (tmOff n k) 28 then
    some (nextInc (s.fld (tmOff n k + 4) 16 16) (s.fld (tmOff n k + 4) 0 16) (s.timer (tmKey n k)).lastInc)
  else none

/-- R341: the tick of the next sample of channel k's capture block. -/
def State.capTick (s : State) (n k : Nat) : Nat :=
  let z := 2 ^ s.fld (tmOff n k) 5 4
  ((s.timer (tmKey n k)).lastSmp / z + 1) * z

/-- R341, R342: the capture block of channel k takes samples. -/
def State.capOn (s : State) (n k : Nat) : Bool := s.running && !s.inRst n && s.bit (tmOff n k) 31 && !s.tmHigh n k

/-- R336: a sample of an earlier tick that may make a capture event comes before an increment at tick `d`. -/
def State.capFirst (s : State) (n k d : Nat) : Bool :=
  s.capOn n k && s.fld (tmOff n k) 11 2 != 3 && s.fld (tmOff n k) 9 2 != 0 && Nat.blt (s.capTick n k) d

/-- The increment of channel k at tick `d`. -/
def State.tmIncAt (s : State) (n k d : Nat) : State :=
  let s1 := s.tmInc n k
  s1.setTimer (tmKey n k) { s1.timer (tmKey n k) with lastInc := d }

/-- The next increment of a channel, once TB has reached its tick. -/
def tmIncrementStep (n k : Nat) (s : State) : State :=
  match s.tmDue n k with
  | some d => if d ≤ s.clk.tb ∧ s.capFirst n k d = false then s.tmIncAt n k d else s
  | none => s
def execTimerIncrement (n : Fin 16) (k : Fin 8) (s : State) : Out := .next (tmIncrementStep n k s)

/-- R336, R337: every increment of a channel that is due before tick `t`, at most `f`. -/
def tmCatch (n k t : Nat) : Nat → State → State
  | 0, s => s
  | f + 1, s => match s.tmDue n k with
    | some d => if d < t then tmCatch n k t f (s.tmIncAt n k d) else s
    | none => s

/-- R337: a step of TB by `d` ticks applies the increments of every timer of the block. -/
def State.tmCatchAll (s : State) (d : Nat) : State := iter (fun q => tmCatch (q / 8) (q % 8) (s.clk.tb + 1) d) 128 s

/-- R336: the increments of channel k before the present tick come before a write that lands now. -/
def State.tmLand (s : State) (n k : Nat) : State := tmCatch n k s.clk.tb (s.clk.tb - (s.timer (tmKey n k)).lastInc) s

/-! ## Writes and reads of CMP and COUNT (R336, R340) -/

/-- A write of TM_CMP lands: that of a high channel is held for the low one. -/
def tmCmpPut (n k : Nat) (v : Word) (s0 : State) : State :=
  let s := s0.tmLand n k
  let t := s.timer (tmKey n k)
  if s.tmHigh n k then s.setTimer (tmKey n k) { t with heldCmp := some v }
  else
    let s1 := s.setTimer (tmKey n k) { t with cmp := v }
    if s.tmLow n k then
      let h := s.timer (tmKey n (k + 1))
      s1.setTimer (tmKey n (k + 1)) { h with cmp := h.heldCmp.getD h.cmp, heldCmp := none }
    else s1
def execTmCmp (n : Fin 16) (k : Fin 8) (v : Word) (s : State) : Out := .next (s.gate n (tmCmpPut n k v))

/-- A write of TM_CMP_NOW matches at once where COUNT equals the new CMP. -/
def tmCmpNowPut (n k : Nat) (v : Word) (s : State) : State :=
  let s1 := tmCmpPut n k v s
  if !s1.tmHigh n k && s1.tmEqual n k then s1.tmMatch n k else s1
def execTmCmpNow (n : Fin 16) (k : Fin 8) (v : Word) (s : State) : Out := .next (s.gate n (tmCmpNowPut n k v))

/-- A write of TM_COUNT lands and replaces an increment due at its edge. -/
def tmCountPut (n k : Nat) (v : Word) (s0 : State) : State :=
  let s := s0.tmLand n k
  let t := s.timer (tmKey n k)
  if s.tmHigh n k then s.setTimer (tmKey n k) { t with heldCount := some v }
  else
    let s1 := s.setTimer (tmKey n k) { t with count := v, lastInc := max t.lastInc s.clk.tb }
    if s.tmLow n k then
      let h := s.timer (tmKey n (k + 1))
      s1.setTimer (tmKey n (k + 1)) { h with count := h.heldCount.getD h.count, heldCount := none }
    else s1
def execTmCountWrite (n : Fin 16) (k : Fin 8) (v : Word) (s : State) : Out := .next (s.gate n (tmCountPut n k v))

/-- R340: what a read of TM_COUNT returns. -/
def State.tmCount (s : State) (n k : Nat) : Word :=
  let t := s.timer (tmKey n k)
  if s.tmHigh n k then t.hiSnap else t.count

/-- R340: a read of a linked low COUNT copies the high count into HI_SNAP. -/
def State.tmCountRead (s : State) (n k : Nat) : State :=
  if s.tmLow n k then
    let h := s.timer (tmKey n (k + 1))
    s.setTimer (tmKey n (k + 1)) { h with hiSnap := h.count }
  else s
def execTmCountRead (n : Fin 16) (k : Fin 8) (s : State) : Out :=
  .next (s.gate n fun s => { s.tmCountRead n k with spRdata := s.tmCount n k, spErr := false })

/-! ## Capture (R339, R341, R342) -/

/-- R341: a capture event of channel k. -/
def State.tmCapture (s : State) (n k : Nat) : State :=
  let s1 := if s.bit (tmOff n k) 28 && s.tmRuns n k then s.tmInc n k else s
  let t := s1.timer (tmKey n k)
  let s2 := s1.setTimer (tmKey n k) { t with cap := t.count, ovr := t.ovr || t.capV, capV := true }
  let s3 := if s2.tmLow n k then
    let h := s2.timer (tmKey n (k + 1))
    s2.setTimer (tmKey n (k + 1)) { h with cap := h.count }
    else s2
  s3.tmEvent n k 2

/-- R341: an accepted edge that EDGE selects. -/
def State.tmEdge (s : State) (n k : Nat) : State :=
  let t := s.timer (tmKey n k)
  let full := decide (2 ^ s.fld (tmOff n k) 1 2 ≤ t.presc + 1)
  let s1 := s.setTimer (tmKey n k) { t with edges := (t.edges + 1) % 65536, presc := if full then 0 else t.presc + 1 }
  if full then s1.tmCapture n k else s1

/-- R341: a sample of level `v` at a channel. -/
def State.tmSample (s : State) (n k : Nat) (v : Bool) : State :=
  let t := s.timer (tmKey n k)
  let need := 2 ^ s.fld (tmOff n k) 3 2 - 1
  let hist := (v :: t.hist).take 8
  if t.fresh then s.setTimer (tmKey n k) { t with level := v, fresh := false, hist := hist }
  else
    let ok := decide (need ≤ t.hist.length) && (t.hist.take need).all (· == v) && t.level != v
    let s1 := s.setTimer (tmKey n k) { t with hist := hist, level := if ok then v else t.level }
    if ok && (s.fld (tmOff n k) 9 2).testBit (if v then 0 else 1) then s1.tmEdge n k else s1

/-- R213, R218, R223, R339: the level of a channel's source: that of its pin where the pin is at function 13 and its input buffer on;
where it has left function 13, the sample at which the path is frozen. -/
def State.tmSource (s : State) (n k : Nat) (level : Bool) : Bool :=
  let c := s.reg (tmOff n k)
  let p := bits c 13 3 + 8 * bits c 11 2
  bits c 11 2 != 3 &&
    if s.funcOf n p = 13 then (s.ieMask n).getLsbD p && level else (s.bank n).held.getLsbD p

/-- R336: an increment of channel k at tick `t` or before it has not been taken. -/
def State.incFirst (s : State) (n k t : Nat) : Bool := match s.tmDue n k with
  | some d => Nat.ble d t
  | none => false

/-- R336, R341, R342: the capture block of channel k takes its next sample, after the increment of that tick. -/
def captureStep (n k : Nat) (level : Bool) (s : State) : State :=
  let a := s.capTick n k
  if !s.capOn n k || Nat.blt s.clk.tb a || s.incFirst n k a then s
  else (s.setTimer (tmKey n k) { s.timer (tmKey n k) with lastSmp := a }).tmSample n k (s.tmSource n k level)
def execCaptureSample (n : Fin 16) (k : Fin 8) (level : Bool) (s : State) : Out := .next (captureStep n k level s)

/-! ## Enable (R343) -/

/-- R343: the check of an enable of channel k. -/
def State.tmBar (n k : Nat) (s : State) : Check :=
  let c := s.reg (tmOff n k)
  if bits c 11 2 = 3 ∨ bits c 9 2 = 0 then none
  else
    let p := bits c 13 3 + 8 * bits c 11 2
    (findBelow 8 fun j =>
      let d := s.reg (tmOff n j)
      j != k && d.getLsbD 31 && bits d 11 2 != 3 && bits d 9 2 != 0 && bits d 13 3 + 8 * bits d 11 2 == p).map
      fun j => (0x0117, objWord 5 n j)

/-- The RW fields of TM_CFG but EN. -/
def tmRw : Word := 0x2000FE00

/-- A write of TM_CFG[k]: the RWF fields are staged; LINK, CSRC, CSEL and EDGE change while EN is 0; EN by R343. -/
def tmCfgWrite (src : Src) (n k : Nat) (v : Word) (s : State) : State :=
  let off := tmOff n k
  let old := s.reg off
  let stg (s : State) : State := stageFields src off v (regFields off) s
  if old.getLsbD 31 then
    if v.getLsbD 31 then stg s
    else
      let s1 := s.tmLand n k
      (stg (s1.setReg off (s1.reg off &&& 0x7FFFFFFF))).keepAfter s1 n s.clk.tb
  else
    let s1 := stg (s.setReg off ((old &&& ~~~tmRw) ||| (v &&& tmRw)))
    if v.getLsbD 31 then
      match s1.bothPass (fun s => s.tmBar n k) with
      | some (code, d) => s1.refuse src off code d
      | none =>
        let t := s1.timer (tmKey n k)
        ((s1.setReg off (s1.reg off ||| 0x80000000)).setTimer (tmKey n k)
          { t with fresh := true, hist := [], presc := 0, lastInc := s.clk.tb, lastSmp := s.clk.tb }).letGo n
    else s1
def execTimerEnable (src : Src) (n : Fin 16) (k : Fin 8) (v : Word) (s : State) : Out :=
  .next (s.via src fun s => s.gate n (tmCfgWrite src n k (v ||| 0x80000000)))
def execTimerDisable (src : Src) (n : Fin 16) (k : Fin 8) (v : Word) (s : State) : Out :=
  .next (s.via src fun s => s.gate n (tmCfgWrite src n k (v &&& 0x7FFFFFFF)))

/-- TM_STS of a channel. -/
def State.tmSts (s : State) (n k : Nat) : Word :=
  let t := s.timer (tmKey n k)
  BitVec.ofNat 32 (t.edges % 65536 + 2 ^ 24 * b2n t.pend + 2 ^ 25 * b2n (s.tmRuns n k) + 2 ^ 26 * b2n t.level + 2 ^ 27 * b2n t.out
    + 2 ^ 28 * b2n t.ovr + 2 ^ 29 * b2n t.capV + 2 ^ 30 * b2n t.topF + 2 ^ 31 * b2n t.matchF)

/-- A write of TM_STS clears the flags written as 1. -/
def tmStsWrite (n k : Nat) (v : Word) (s : State) : State :=
  let t := s.timer (tmKey n k)
  s.setTimer (tmKey n k) { t with
    matchF := t.matchF && !v.getLsbD 31, topF := t.topF && !v.getLsbD 30, capV := t.capV && !v.getLsbD 29
    ovr := t.ovr && !v.getLsbD 28 }

/-! ## TB and LF (R329) -/

/-- A read of TB_LO by a requester: the low word, with the high word latched. -/
def State.tbLoRead (s : State) (q : Nat) : Word × State :=
  (BitVec.ofNat 32 s.clk.tb, { s with clk := { s.clk with tbSnap := tabSet 0 s.clk.tbSnap q (BitVec.ofNat 32 (s.clk.tb / 2 ^ 32)) } })

/-- A read of LF_LO by a requester. -/
def State.lfLoRead (s : State) (q : Nat) : Word × State :=
  (BitVec.ofNat 32 s.clk.lf,
    { s with clk := { s.clk with lfSnap := tabSet 0 s.clk.lfSnap q (BitVec.ofNat 32 (s.clk.lf / 2 ^ 32 % 2 ^ 16)) } })

/-- The answer of a read of the setup window. -/
def State.answer (r : Word × State) : State := { r.2 with spRdata := r.1, spErr := false }

def execTbLoRead (src : Src) (s : State) : Out := .next (s.via src fun s => State.answer (s.tbLoRead (srcReq src)))
def execLfLoRead (src : Src) (s : State) : Out := .next (s.via src fun s => State.answer (s.lfLoRead (srcReq src)))

end Sys2Proof.Machine
end

