-- ==== Sys2Proof/Machine/FreezeBase.lean ====
section
/-! DEFINITION. The end of a Freeze: refusal, abort, the choice of F (R315), the apply (R210, R222, R238, R316, R334) and charge records
(R325). -/
namespace Sys2Proof.Machine

def State.setFrz (s : State) (z : Frz) : State := { s with frz := z }

/-- R319: the controller returns to IDLE with LAST and LAST_CODE. -/
def State.frzEnd (s : State) (last : FrzLast) (code : Nat) : State :=
  let s1 := s.setFrz { s.frz with st := .idle, last := last, lastCode := code, commit := false, charged := [], who := .host }
  { s1 with banks := tabMap {} (fun _ => true) (fun b => { b with directOver := 0 }) s1.banks }

/-- R310, R319, R320: a commit is aborted with a code: REASON, LAST, FRZ_CNT and its entry. -/
def State.frzAbort (s : State) (code : Nat) (detail : Word) : State :=
  let f := s.frz.tick
  let s1 := ((s.refuse s.frz.who 0x100 code detail).offer 0x0103 0 (BitVec.ofNat 32 code) (BitVec.ofNat 32 f)
    (BitVec.ofNat 32 (f / 2 ^ 32))).frzEnd .aborted code
  s1.setFrz { s1.frz with aborted := satInc 0xFFFF s1.frz.aborted }

/-- R314, R319: a check fails. -/
def State.frzCheckFail (s : State) (code : Nat) (detail : Word) : State :=
  (s.refuse s.frz.who 0x100 code detail).frzEnd .checkFail code

/-- FRZ_TICK. -/
def State.frzTick (s : State) : Nat := (s.reg 0x108).toNat + (s.reg 0x10C).toNat * 2 ^ 32

/-- R315: F is written back to FRZ_TICK and the commit is armed. -/
def State.frzArm (s : State) (f : Nat) : State :=
  let s1 := (s.setReg 0x108 (BitVec.ofNat 32 f)).setReg 0x10C (BitVec.ofNat 32 (f / 2 ^ 32))
  s1.setFrz { s1.frz with st := .armed, tick := f }

/-- R315: the choice of F of a local commit at tick N. -/
def State.frzChoose (s : State) : State :=
  let n := s.clk.tb
  if s.frz.atF then
    let f := s.frzTick
    if f < n + 256 ∨ n + 2 ^ 32 < f then (s.setFrz { s.frz with tick := f }).frzAbort 0x0103 0 else s.frzArm f
  else s.frzArm (n + 256)

/-- FRZ_DIRTY (R311). -/
def State.frzDirty (s : State) : Word :=
  s.dirty.foldl (fun w u => w ||| (if u = regionUnit ∨ u / 0x1000 = 0x31 then 0x10000
    else if u / 0x1000 = 4 then 0x20000
    else if 0x100000 ≤ u then BitVec.ofNat 32 (2 ^ ((u - 0x100000) / 0x10000)) else 0x40000)) 0

/-! ## Apply -/

/-- R185, R210: a channel of a changed engine. -/
def restartChan (s : State) (n e c : Nat) : State :=
  let k := chanKey n e c
  let ch := s.chan k
  let o := chnOff n e c
  let carry := !atBoundary (s.fld o 28 2) ch.shcnt
  s.setChan k { ch with
    pc := s.fld (o + 4) 8 8, rwb := s.fld (o + 4) 8 8, rwe := s.fld (o + 4) 0 8, dly := 0
    flags := setFlags ch.flags 0x80A (if carry then 8 else 0) }

/-- R210: an engine that the commit changes; `s` is the state after the fields are live. -/
def restartEngine (f n e : Nat) (imem : Bool) (s : State) : State :=
  let g := s.engine (n * 12 + e)
  let run := s.bit (ceOff n e) 31
  let s1 := s.setEngine (n * 12 + e) { g with
    running := run, origin := if run then f else g.origin, k := if run then 0 else g.k, ibank := g.ibank != imem }
  iter (fun c s => restartChan s n e c) 4 s1

/-- The engines that the commit changes restart; `old` is the state before. -/
def restartEngines (old : State) (f : Nat) (s : State) : State :=
  iter (fun q s =>
    let n := q / 12
    let e := q % 12
    if old.engChanges n e then restartEngine f n e (old.dirty.contains (spanOff n (0x4000 + e * 0x400))) s else s) 192 s

/-- R334: RWF timer fields become live at F. -/
def restartTimer (old : State) (f n k : Nat) (s : State) : State :=
  let off := tmOff n k
  let t := s.timer (tmKey n k)
  if s.bit off 30 && !old.bit off 30 then s.setTimer (tmKey n k) { t with out := s.bit off 0, lastInc := f }
  else if s.reg off != old.reg off || s.reg (off + 4) != old.reg (off + 4) || s.reg (off + 8) != old.reg (off + 8) then
    s.setTimer (tmKey n k) { t with lastInc := max t.lastInc (f - 1) }
  else s

/-- R78: the first round of Span n that goes by what a commit makes live now: a core that completes rounds has begun the two rounds from
its present one on (log entry 42). -/
def State.firstRound (s : State) (n : Nat) : Nat := (s.core n).round + (if s.coreRuns n then 2 else 0)

/-- R78, R101, R122: the slot-table banks that a commit swaps; the rounds that have begun go by the words from before. -/
def swapTable (old : State) (n : Nat) (s : State) : State :=
  let c := s.core n
  s.setCore n { c with
    liveBank := c.liveBank != old.dirty.contains (spanOff n 0x800)
    before := if old.coreRuns n then c.before ++ [(old.firstRound n, old.regs)] else c.before }

/-- R221: the pins of a bank whose pad fields other than OD a commit changes. -/
def padsChanged (old s : State) (n : Nat) : List Nat :=
  (List.range 24).filter fun p => (s.reg (pinOff n p + 4) ^^^ old.reg (pinOff n p + 4)) &&& ~~~0x40 != 0

/-- R225: the direct writes of a bank that meet a commit at `f`: one that applies there on a pin it changes is discarded, and one that
has applied before is replaced. Both are recorded. -/
def replaceDirect (old : State) (f n : Nat) (s : State) : State :=
  let b := s.bank n
  let lost (d : Nat × Nat × Nat) : Bool := d.2.2 == f && old.funcChanges n d.1
  let rec1 (s : State) (p v : Nat) : State := s.offer 0x0109 (objWord 9 n p) (BitVec.ofNat 32 v) 0 0
  let s1 := (b.direct.filter lost).foldl (fun s d => rec1 s d.1 d.2.1) s
  let s2 := iter (fun p s => if b.directOver.getLsbD p then rec1 s p (old.funcOf n p) else s) 24 s1
  s2.setBank n { b with directOver := 0, direct := dropIf lost b.direct }

/-- R221 to R223, R225: what a commit at `f` does to the pins of a bank. -/
def switchPins (old : State) (f n : Nat) (s : State) : State :=
  let s1 := (replaceDirect old f n s).freezePaths n (leftPath old s n)
  (s1.keepAfter old n f).sendPads n f (padsChanged old s n) (s.bit (spanOff n 0x124) 0 != old.bit (spanOff n 0x124) 0)

/-- R238: a commit with staged entries or target fields swaps the banks of the region table. -/
def swapRegion (old : State) (s : State) : State :=
  if old.dirty.any fun u => u == regionUnit || u / 0x1000 == 0x31 then
    { s with
      regionStaged := if old.dirty.contains regionUnit then old.regionLive else s.regionStaged
      gd := { s.gd with
        liveBank := !s.gd.liveBank
        sync := true } }
  else s

/-- R325: the mark doubleword of the last record of a setting. The record index is the number of records before it. -/
def State.optPut (s : State) (a k v : Nat) : State := { s with opt := writeNat 0xFF k a v s.opt }

/-- The first free record of OA1 (R407). -/
def State.oa1Free (s : State) : Nat := (findBelow 512 fun i => readNat s.optByte 8 (0x2000 + 16 * i) == 2 ^ 64 - 1).getD 512

/-- R323: the value that a charge record of setting k holds, from the word PF_SET. -/
def pfValue (k : Nat) (w : Word) : Nat := match k with
  | 1 => bits w 1 1
  | 2 => bits w 2 2
  | 3 => bits w 0 1
  | _ => 0

/-- R325, R407: a charge record of setting k is written, and PF_CNT counts it. -/
def chargeOne (s : State) (k : Nat) : State :=
  let i := s.oa1Free
  let u := s.pfUsed k + 1
  let v := pfValue k (s.after 0x420)
  let s1 := s.optPut (0x2000 + 16 * i) 8 (0x43 * 2 ^ 56 + k * 2 ^ 48 + u * 2 ^ 32 + v)
  (s1.setFrz { s1.frz with used := tabSet 0 s1.frz.used k u }).offer 0x0104 0 (BitVec.ofNat 32 k) (BitVec.ofNat 32 u) (BitVec.ofNat 32 v)

/-- R325: after the apply the records of this commit take their marks. -/
def markCharges (j : Nat) (s : State) : State :=
  let i := s.oa1Free
  iter (fun q s => let r := i - 1 - q; s.optPut (0x2000 + 16 * r + 8) 8 (0x4D41524B * 2 ^ 32 + r)) j s

/-- R320: the entry of an apply. -/
def State.applyEntry (s old : State) (f : Nat) : State :=
  let h (n : Nat) : Nat := if old.dirty.contains (spanOff n 0x800) then old.firstRound n % 65536 else 0
  s.offerEntry {
    tb := s.clk.tb
    code := 0x0102
    payload := BitVec.ofNat 384 (f % 2 ^ 64 + old.frzDirty.toNat * 2 ^ 64
      + ((List.range 16).map fun n => h n * 2 ^ (128 + 16 * n)).sum) }

/-- R322, R388, R394: the node's part of a cascade Freeze ends with the apply. -/
def State.cascApplied (s : State) (f : Nat) : State := match s.casc.frz with
  | none => s
  | some z =>
    let s1 := (s.setCasc { s.casc with frz := none }).cascEntry 0x0808 s.casc.node z.id f (f / 2 ^ 32)
    s1.setReg 0x50030 (s1.reg 0x50030 &&& 0x7FFFFFFF)

/-- R433: what a check reads: the Firn store and the staged bank of the region table. -/
def State.readStaged (s : State) : State := s.readFirn.readRegion !s.gd.liveBank

/-- R316, R433: everything staged becomes live at tick `f`, and the SYNC step begins. -/
def State.frzApply (start : State) (f : Nat) : State :=
  let old := start.readFirn
  let s0 := old.applied
  let s1 := iter (switchPins old f) 16 (iter (fun q => restartTimer old f (q / 8) (q % 8)) 128 (restartEngines old f s0))
  let s2 := swapRegion old (iter (swapTable old) 16 s1)
  let s3 := (markCharges old.frz.charged.length s2).applyEntry old f
  let s4 := s3.setFrz { s3.frz with
    st := .sync, discard := false, lastTick := f, charged := []
    applied := satInc 0xFFFF s3.frz.applied }
  s4.cascApplied f

/-- R331: the tick at which a commit that is due applies: F, or the value of TB in LF mode. -/
def State.applyTick (s : State) (f : Nat) : Nat := if s.clk.lfMode then s.clk.tb else f

/-- R334: a commit changes the fields of timer channel k of Span n. -/
def State.tmChanges (s : State) (n k : Nat) : Bool := [0, 4, 8].any fun d => s.dirty.contains (tmOff n k + d)

/-- R334: the increments before tick `t` of the timer channels that a commit changes have been taken. -/
def State.timersTo (s : State) (t : Nat) : Bool :=
  (List.range 128).all fun q => !s.tmChanges (q / 8) (q % 8) || match s.tmDue (q / 8) (q % 8) with
    | some d => Nat.ble t d
    | none => true

/-- R210, R211, R222, R334: everything that falls before tick `t` has been done. -/
def State.readyAt (s : State) (t : Nat) : Bool :=
  s.clk.lfMode || (s.steppedTo (fun _ => true) t && s.queuedTo (fun _ => true) t && s.timersTo t
    && s.banks.all fun x => x.2.direct.all fun d => Nat.ble t d.2.2)

/-- FRZ_DRAIN_LIMIT. -/
def State.drainLimit (s : State) : Nat := s.fld 0x110 0 24

end Sys2Proof.Machine
end

