-- ==== Sys2Proof/Machine/OptionBase.lean ====
section
/-! DEFINITION. Option load (R406 to R409, R323, R325): the option block, the charge records and the readout-protection records. -/
namespace Sys2Proof.Machine

/-! ## The option block (R408, R409) -/

/-- Bytes of the option area. -/
def State.optBytes (s : State) (a k : Nat) : List Byte := (List.range k).map fun i => s.optByte (a + i)

/-- A field of a byte list, little-endian. -/
def le (l : List Byte) (a k : Nat) : Nat := leNat ((l.drop a).take k)

/-- R409: the fields of an option block, but for MAGIC, FORMAT and SELF. -/
def optFieldsOk (l : List Byte) : Bool :=
  let img := le l 8 4
  let cnt := le l 12 2
  let ring := le l 14 2
  let sec := img / 8192
  decide (le l 6 1 < 4) && le l 7 1 == 0 && le l 16 8 == 0 && img % 8192 == 0 && decide (ring ≤ 4032) && decide (cnt ≤ 4096)
    && decide (sec + cnt ≤ 4096) && (cnt == 0 || decide (sec + cnt ≤ ring) || decide (ring + 64 ≤ sec))

/-- R408: MAGIC and FORMAT. -/
def optMagic (l : List Byte) : Bool := l.take 6 == [0x56, 0x58, 0x4F, 0x50, 1, 0]

/-- R408: the block that bytes describe. -/
def optBlock (l : List Byte) : OptBlock :=
  { role := le l 6 1 % 4, bootImg := le l 8 4, imgSectors := le l 12 2, ringBase := le l 14 2, rime := BitVec.ofNat 384 (le l 24 48)
    digests := iter (fun k t => tabSet 0 t k (BitVec.ofNat 384 (le l (72 + 48 * k) 48))) 16 [], valid := true }

/-- R399, R433: a doubleword of the option area fails as uncorrectable. -/
def State.optUe (s : State) (i : Nat) : Bool := tabGet 0 s.upset (upKey 16 i) == 2

/-- R399, R407: the uncorrectable doublewords that option load reads, in its order: OA2, OA1, then the option block. -/
def State.optEcc (s : State) : List Nat :=
  let l := ((s.upsetsOf 16 fun _ => true).filter fun x => x.2 == 2).map fun x => x.1
  (l.filter fun i => decide (2048 ≤ i) && decide (i < 3072)) ++ (l.filter fun i => decide (1024 ≤ i) && decide (i < 2048))
    ++ l.filter fun i => decide (i < 112)

/-- R409: why OA0 is bad, as the OPT_BAD entry codes it. -/
def State.optWhy (s : State) (l : List Byte) : Option Nat :=
  if (List.range 112).any s.optUe then some 2
  else if !optMagic l then some 0
  else if sha384Bytes (l.take 840) != (l.drop 840).take 48 then some 1
  else if !optFieldsOk l || le l 888 8 != 0 then some 3
  else none

/-- R407, R409: OA0 is read. Gives the code of its OPT_BAD entry where it is bad. -/
def State.loadBlock (s : State) : Option Nat × OptSt :=
  let l := s.optBytes 0 896
  if l.all (· == 0xFF) && !(List.range 112).any s.optUe then (none, { s.optn with blk := {}, blank := true, bad := false })
  else match s.optWhy l with
    | none => (none, { s.optn with blk := optBlock l, blank := false, bad := false })
    | some c => (some c, { s.optn with blk := {}, blank := false, bad := true })

/-! ## Readout-protection records (R407) -/

/-- What OA2 says so far: records taken, LEVEL, USED, the index of the last one, and whether it is a lowering. -/
structure Oa2 where
  any : Bool := false
  level : Nat := 0
  used : Nat := 0
  last : Nat := 0
  lowering : Bool := false
  deriving DecidableEq, Repr

/-- The doubleword at an offset of the option area. -/
def State.optDw (s : State) (a : Nat) : Nat := readNat s.optByte 8 a

/-- R407: record i of OA2. -/
def oa2Step (s : State) (i : Nat) (o : Oa2) : Oa2 :=
  let d := s.optDw (0x4000 + 16 * i)
  let used := d / 2 ^ 48 % 2 ^ 8
  let level := d / 2 ^ 40 % 2 ^ 8
  if d / 2 ^ 56 != 0x52 || s.optUe (2048 + 2 * i) || decide (2 < level) || (o.any && used != o.used && used != o.used + 1) then o
  else { any := true, level := level, used := used, last := i, lowering := if o.any then used == o.used + 1 else used == 1 }

/-- OA2 as option load reads it. -/
def State.readOa2 (s : State) : Oa2 := iter (oa2Step s) 512 {}

/-- R407: the mark of record i of OA2. -/
def oa2Mark (i : Nat) : Nat := 0x444F4E45 * 2 ^ 32 + i

/-- R414: the last record is a lowering without its mark. -/
def State.resumes (s : State) : Bool :=
  let o := s.readOa2
  o.any && o.lowering && (s.optDw (0x4000 + 16 * o.last + 8) != oa2Mark o.last || s.optUe (2049 + 2 * o.last))

/-! ## Charge records (R325) -/

/-- The PF_SET word with the value of setting k. -/
def pfPut (k v : Nat) (w : Word) : Word := match k with
  | 1 => setBits w 1 1 v
  | 2 => setBits w 2 2 v
  | 3 => setBits w 0 1 v
  | _ => w

/-- A charge record as option load takes it: its number, setting, USED and value. -/
def State.oa1Rec (s : State) (used : Tab Nat) (i : Nat) : Option (Nat × Nat × Nat) :=
  let d := s.optDw (0x2000 + 16 * i)
  let k := d / 2 ^ 48 % 2 ^ 8
  let u := d / 2 ^ 32 % 2 ^ 16
  if d / 2 ^ 56 == 0x43 && decide (k < 4) && !s.optUe (1024 + 2 * i) && u == tabGet 0 used k + 1 then some (k, u, d % 2 ^ 32) else none

/-- R325, R407: OA1 is read: USED of each setting, PF_SET, and the records without a mark. -/
def oa1Step (s : State) (i : Nat) (r : Tab Nat × Word × List (Nat × Nat × Nat)) : Tab Nat × Word × List (Nat × Nat × Nat) :=
  match s.oa1Rec r.1 i with
  | none => r
  | some (k, u, v) =>
    let marked := s.optDw (0x2000 + 16 * i + 8) == 0x4D41524B * 2 ^ 32 + i && !s.optUe (1025 + 2 * i)
    (tabSet 0 r.1 k u, pfPut k v r.2.1, if marked then r.2.2 else r.2.2 ++ [(k, u, v)])

/-- R375: the cascade role after option load; gives whether a master was demoted. -/
def State.cascInit (s : State) : Bool × State :=
  let role := s.optn.blk.role
  let master := role == 1 && s.bit 0x420 1
  (role == 1 && !master,
    s.setCasc { s.casc with
      role := role, master := master, rooted := master, assigned := master
      tag := if master then s.clk.tb % 2 ^ 32 else 0 })

/-- R407: option load. Gives what the boot ROM and the recorder report: the OPT_BAD code, unmarked charge records and a demotion. -/
def State.optionLoad (s : State) : (Option Nat × List (Nat × Nat × Nat) × Bool) × State :=
  let o := s.readOa2
  let (used, pf, un) := iter (oa1Step s) 512 ([], 0, [])
  let (why, st) := s.loadBlock
  let s1 := { s with optn := { st with level := o.level } }
  let s2 := s1.setFrz { s1.frz with used := tabSet 0 used 4 o.used }
  let (dem, s3) := ((s2.setReg 0x420 pf).setStg 0x420 pf).cascInit
  ((why, un, dem), s3)

end Sys2Proof.Machine
end

