-- ==== Sys2Proof/Machine/Ecdsa.lean ====
section
/-! DEFINITION. ECDSA over P-384 with SHA-384 and the deterministic nonce, which R262 takes from FIPS 186-5. Its constants and steps come
from that standard and from RFC 6979 (PRESUMED, log entry 7). -/
namespace Sys2Proof.Machine

/-! ## The curve -/

/-- The prime of P-384. -/
def p384Prime : Nat := 2 ^ 384 - 2 ^ 128 - 2 ^ 96 + 2 ^ 32 - 1

/-- R262: the order n of P-384. -/
def p384Order : Nat :=
  0xFFFFFFFFFFFFFFFFFFFFFFFFFFFFFFFFFFFFFFFFFFFFFFFFC7634D81F4372DDF581A0DB248B0A77AECEC196ACCC52973

/-- The base point of P-384. -/
def p384Base : Nat × Nat :=
  (0xAA87CA22BE8B05378EB1C71EF320AD746E1D3B628BA79B9859F741E082542A385502F25DBF55296C3A545E3872760AB7,
   0x3617DE4A96262C6F5D9E98BF9292DC29F8F41DBD289A147CE9DA3113B5F0B8C00A60B1CE1D7E819D7A431D7C90EA0E5F)

/-- A difference modulo m. -/
def subMod (m a b : Nat) : Nat := (a + m - b % m) % m

/-- The bits of a number below 2^384, highest first. -/
def bits384 (x : Nat) : List Bool := (List.range 384).map fun i => x.testBit (383 - i)

/-- A power modulo m; the exponent as bits, highest first. -/
def powMod (m b : Nat) (e : List Bool) : Nat := e.foldl (fun r d => let q := r * r % m; if d then q * b % m else q) 1

/-- The inverse modulo a prime (Fermat). -/
def invMod (m a : Nat) : Nat := powMod m (a % m) (bits384 (m - 2))

/-- A point in Jacobian coordinates: (x / z², y / z³), or infinity where z is 0. -/
structure EcPoint where
  x : Nat
  y : Nat
  z : Nat
  deriving DecidableEq, Repr

/-- The point at infinity. -/
def ecZero : EcPoint := ⟨1, 1, 0⟩

/-- Twice a point, on a curve with a = −3. -/
def ecDouble (a : EcPoint) : EcPoint :=
  if a.z = 0 ∨ a.y = 0 then ecZero
  else
    let m := p384Prime
    let d := a.z * a.z % m
    let g := a.y * a.y % m
    let b := a.x * g % m
    let t := 3 * (subMod m a.x d) * (a.x + d) % m
    let x := subMod m (t * t) (8 * b)
    ⟨x, subMod m (t * subMod m (4 * b) x) (8 * g * g), subMod m ((a.y + a.z) * (a.y + a.z)) (g + d)⟩

/-- The sum of two points. -/
def ecAdd (a b : EcPoint) : EcPoint :=
  if a.z = 0 then b
  else if b.z = 0 then a
  else
    let m := p384Prime
    let za := a.z * a.z % m
    let zb := b.z * b.z % m
    let u := a.x * zb % m
    let s := a.y * b.z % m * zb % m
    let h := subMod m (b.x * za) u
    let r := subMod m (b.y * a.z % m * za) s
    if h = 0 then if r = 0 then ecDouble a else ecZero
    else
      let h2 := h * h % m
      let h3 := h2 * h % m
      let v := u * h2 % m
      let x := subMod m (r * r) (h3 + 2 * v)
      ⟨x, subMod m (r * subMod m v x) (s * h3), a.z * b.z % m * h % m⟩

/-- k times the base point. -/
def ecMulBase (k : Nat) : EcPoint :=
  (bits384 k).foldl (fun q d => let t := ecDouble q; if d then ecAdd t ⟨p384Base.1, p384Base.2, 1⟩ else t) ecZero

/-- The x coordinate of a point that is not at infinity. -/
def EcPoint.affineX (a : EcPoint) : Nat := let i := invMod p384Prime a.z; a.x * (i * i % p384Prime) % p384Prime

/-! ## The nonce (RFC 6979, which FIPS 186-5 takes over) -/

/-- HMAC-SHA-384 under a key of at most 128 bytes. -/
def hmac384 (key msg : List Byte) : List Byte :=
  let k := key ++ List.replicate (128 - key.length) 0
  sha384Bytes (k.map (· ^^^ 0x5C) ++ sha384Bytes (k.map (· ^^^ 0x36) ++ msg))

/-- The key and value of the generator after one of its updates. -/
def nonceUpdate (kv : List Byte × List Byte) (data : List Byte) : List Byte × List Byte :=
  let k := hmac384 kv.1 (kv.2 ++ data)
  (k, hmac384 k kv.2)

/-- The generator as a private key and a hash seed it. -/
def nonceSeed (x e : Nat) : List Byte × List Byte :=
  let d := beBytes 48 x ++ beBytes 48 (e % p384Order)
  nonceUpdate (nonceUpdate (List.replicate 48 0, List.replicate 48 1) (0 :: d)) (1 :: d)

/-- The signature of hash `e` under a nonce: r and s. -/
def ecdsaWith (x e k : Nat) : Nat × Nat :=
  let n := p384Order
  let r := (ecMulBase k).affineX % n
  (r, invMod n k * ((e + r * x) % n) % n)

/-- Candidates for the nonce are drawn until one is in range and gives neither r nor s as 0. More than `f` draws do not occur: each
candidate is out of range with a chance below 2^−190. -/
def ecdsaDraw (x e : Nat) : Nat → List Byte × List Byte → Nat × Nat
  | 0, _ => (0, 0)
  | f + 1, (key, v) =>
    let v1 := hmac384 key v
    let k := beNat v1
    if k = 0 ∨ p384Order ≤ k then ecdsaDraw x e f (nonceUpdate (key, v1) [0])
    else
      let (r, s) := ecdsaWith x e k
      if r = 0 ∨ s = 0 then ecdsaDraw x e f (nonceUpdate (key, v1) [0]) else (r, s)

/-- R262: the signature of a message under a private key. -/
def ecdsaSign (key : Digest) (msg : List Byte) : Nat × Nat :=
  let e := beNat (sha384Bytes msg)
  ecdsaDraw key.toNat e 16 (nonceSeed key.toNat e)

end Sys2Proof.Machine
end

