-- ==== Sys2Proof/Machine/Flash.lean ====
section
/-! DEFINITION. FLASHOP (R150, R151, R400 to R405), flash time-outs (R397), and the service of retry registers (R83). -/
namespace Sys2Proof.Machine

/-! ## Hand-off -/

/-- R400: the operation of a FLASHOP mnemonic. -/
def flashKind (m : Mn) : Nat :=
  match m with
  | .flashErase => 1
  | .flashBlank => 2
  | .flashM0 => 3
  | .flashM1 => 4
  | _ => 0

/-- R400: PROGRAM and MARGIN_READ use BUF. -/
def usesBuf (k : Nat) : Bool := k == 0 || k == 3 || k == 4

/-- R150: the operation that a descriptor asks for. -/
def flashOpOf (c : Ctx) (desc v epoch : Nat) : FlashOp :=
  { n := c.n, t := c.t, kind := flashKind c.d.mn, faddr := v % 2 ^ 32, count := v / 2 ^ 32 % 2 ^ 16, notify := v / 2 ^ 48 % 2 ^ 8,
    buf := v / 2 ^ 64 % 2 ^ 32, desc := desc, epoch := epoch }

/-- R401, check 1: the fields of the descriptor. -/
def State.flashFieldBad (s : State) (o : FlashOp) (byte7 : Nat) : Bool :=
  let al := if o.kind = 1 then 8192 else 8
  decide (2 ^ 25 ≤ o.faddr) || byte7 != 0 || o.count == 0 || decide (1024 < o.count) || (o.kind == 1 && o.count != 1)
    || o.faddr % al != 0 || decide (2 ^ 25 < o.faddr + 8 * o.count)
    || (usesBuf o.kind && (o.buf % 8 != 0 || decide (2 ^ 20 < o.buf + 8 * o.count)))
    || (decide (128 ≤ o.notify) && !s.endMine o.n o.t (o.notify % 128) true)

/-- The bytes of flash that an operation covers: first and last. -/
def FlashOp.last (o : FlashOp) : Nat := o.faddr + (if o.kind = 1 then 8192 else 8 * o.count) - 1

/-- An operation's range meets `k` sectors from sector `q` on. -/
def FlashOp.inSectors (o : FlashOp) (q k : Nat) : Bool :=
  k != 0 && Nat.blt (o.faddr / 8192) (q + k) && Nat.ble q (o.last / 8192)

/-- R411: what readout protection refuses of FLASHOP. -/
def State.rdpBars (s : State) (o : FlashOp) (romExempt : Bool) : Bool :=
  let b := s.optn.blk
  let alters := o.kind == 0 || o.kind == 1
  !romExempt && decide (1 ≤ s.optn.level) && ((alters && o.inSectors b.ringBase 64)
    || (decide (2 ≤ s.optn.level) && ((alters && o.inSectors (b.bootImg / 8192) b.imgSectors) || o.kind == 3 || o.kind == 4)))

/-- R401: the checks at hand-off, for an instruction at `pc`. -/
def State.flashBar (s : State) (o : FlashOp) (byte7 pc : Nat) : Option Nat :=
  if s.flashFieldBad o byte7 then some 0x0A01
  else if s.rdpBars o (o.n == 0 && o.t == 0 && areaOf pc == .rom && !s.boot.done) then some 0x0A02
  else if areaOf pc = .flash ∧ o.touches ((pc - 0x10000000) / 2 ^ 23) = true then some 0x0A03
  else if (findBelow 4 fun b => s.fp.fault.getLsbD b && o.touches b).isSome then some 0x0A08
  else none

/-- R151: the STATUS word. -/
def flashStatus (cnt code : Nat) : Nat := 2 ^ 31 + cnt % 2 ^ 11 * 2 ^ 16 + code % 2 ^ 16

/-- R151, R170: STATUS is written through the fabric port, then the completion word is sent or discarded. -/
def State.flashDone (s : State) (o : FlashOp) (cnt code : Nat) (refusedNotify : Bool) : State :=
  let st := flashStatus cnt code
  let s1 := s.fabricWrite o.n 4 (o.desc + 12) st
  let e := o.notify % 128
  if o.notify < 128 || refusedNotify then s1
  else if s1.endMine o.n o.t e true && o.epoch == (s1.core o.n).epoch then s1.postCompl o.n e (BitVec.ofNat 32 st)
  else s1.addDrops (o.n * 128 + e) 1

/-- R150: an earlier FLASHOP of a thread is not complete. -/
def State.flashPending (s : State) (n t : Nat) : Bool := s.fp.q.any fun o => o.n == n && o.t == t

/-- EXE and WBK of a FLASHOP whose descriptor `v` has been read: it holds, is refused, or is handed off (R150, R401). -/
def flashExe (c : Ctx) (v : Nat) (s : State) : State :=
  if s.flashPending c.n c.t then c.hold s
  else
    let o := flashOpOf c c.th.x.toNat v (s.core c.n).epoch
    let b7 := v / 2 ^ 56 % 2 ^ 8
    let s1 := c.fin [] s
    match s.flashBar o b7 c.pc.toNat with
    | some code => s1.flashDone o 0 code (code == 0x0A01 && !s.endMine o.n o.t (o.notify % 128) true)
    | none => { s1 with fp := { s1.fp with q := s1.fp.q ++ [o] } }

/-- R150: FLASHOP. -/
def flashBody (c : Ctx) (s : State) : State :=
  let a := c.th.x.toNat
  if c.th.st = .operate then c.trap 2 (2, 0xFE) s
  else match spanTrap (c.view s) c.n c.t c.th.st false a 16 8 with
    | some tr => c.trap 3 tr s
    | none => c.readDesc a flashExe s
def execFlashopProgram (n t : Fin 16) (s : State) : Out := .next (strand .flashProgram flashBody n t s)
def execFlashopEraseSector (n t : Fin 16) (s : State) : Out := .next (strand .flashErase flashBody n t s)
def execFlashopBlankCheck (n t : Fin 16) (s : State) : Out := .next (strand .flashBlank flashBody n t s)
def execFlashopMarginReadM0 (n t : Fin 16) (s : State) : Out := .next (strand .flashM0 flashBody n t s)
def execFlashopMarginReadM1 (n t : Fin 16) (s : State) : Out := .next (strand .flashM1 flashBody n t s)

/-! ## Completion -/

/-- A doubleword of flash. -/
def State.flashDw (s : State) (a : Nat) : Nat := readNat s.flashByte 8 a

/-- Writes the `k` low bytes of a number into flash. -/
def State.flashPut (s : State) (a k v : Nat) : State := { s with flash := writeNat 0xFF k a v s.flash }

/-- `k` bytes of flash from `a` on are erased with margin. -/
def State.flashErase (s : State) (a k : Nat) : State :=
  let hit (x : Nat) : Bool := Nat.ble a x && Nat.blt x (a + k)
  { s with
    flash := tabDrop hit s.flash
    fp := { s.fp with weak := dropIf (fun d => hit (8 * d)) s.fp.weak } }

/-- Two free words as a doubleword. -/
def State.freeDw (s : State) : Nat × State := (s.free.toNat + s.drawn.free.toNat * 2 ^ 32, s.drawn.drawn)

/-- R405: the cells of a doubleword need not be programmed or erased with margin. -/
def State.flashWeak (s : State) (a : Nat) : State :=
  if s.fp.weak.contains (a / 8) then s else { s with fp := { s.fp with weak := s.fp.weak ++ [a / 8] } }

/-- A doubleword of flash takes a pattern that the spec leaves open. -/
def State.flashFree (s : State) (a : Nat) : State :=
  let (v, s1) := s.freeDw
  (s1.flashPut a 8 v).flashWeak a

/-- R400: a doubleword as a margin read finds it: at M0 a cell reads 0 only if it is programmed with margin, at M1 a cell reads 1 only if
it is erased with margin. How a cell without margin reads is free. -/
def State.marginDw (s : State) (m1 : Bool) (a : Nat) : Nat × State :=
  let v := s.flashDw a
  if s.fp.weak.contains (a / 8) then
    let (f, s1) := s.freeDw
    (if m1 then v &&& f else v ||| f, s1)
  else (v, s)

/-- The first of `k` doublewords from `a` on that is not erased, by its index. -/
def State.firstProgrammed (s : State) (a k : Nat) : Option Nat := findBelow k fun i => s.flashDw (a + 8 * i) != 2 ^ 64 - 1

/-- R400, R433: doubleword i of BUF as a PROGRAM reads it through the fabric port; what an uncorrectable one gives is free. -/
def State.bufDw (s : State) (o : FlashOp) (i : Nat) : Nat × State :=
  let a := o.buf + 8 * i
  let v := s.memRead o.n a 8
  let (good, s1) := (s.fabricTurn o.n a).readGrans o.n a 8
  if good then (v, s1) else s1.freeDw

/-- R400: the first `k` doublewords of a PROGRAM are programmed from BUF. -/
def State.programDws (s : State) (o : FlashOp) (k : Nat) : State :=
  iter (fun i s =>
    let (v, s1) := s.bufDw o i
    s1.flashPut (o.faddr + 8 * i) 8 v) k s

/-- R404: doublewords of a PROGRAM that lie in its first bank. -/
def FlashOp.firstPart (o : FlashOp) : Nat := min o.count ((2 ^ 23 - o.faddr % 2 ^ 23) / 8)

/-- R404: the code of a PROGRAM that failed after `k` verified doublewords, with what it records. -/
def State.partialCode (s : State) (o : FlashOp) (k code : Nat) : Nat × State :=
  if o.firstPart < o.count ∧ o.firstPart ≤ k then
    (0x0707, s.offer 0x0602 (thrObj o.n o.t) (BitVec.ofNat 32 o.faddr) (BitVec.ofNat 32 k) (BitVec.ofNat 32 code))
  else (code, s)

/-- R400 to R405: the effect of an operation on the array and on BUF, with DONE_CNT and CODE. -/
def State.flashRun (s : State) (o : FlashOp) (res : FlashResult) : Nat × Nat × State :=
  match o.kind with
  | 0 =>
    match s.firstProgrammed o.faddr o.count with
    | some _ => (0, 0x0A04, s)
    | none =>
      match res with
      | .allVerified => (o.count, 0, s.programDws o o.count)
      | .failedAfter k =>
        if o.count ≤ k then (o.count, 0, s.programDws o o.count)
        else
          let (code, s1) := ((s.programDws o k).flashFree (o.faddr + 8 * k)).partialCode o k 0x0A07
          (k, code, s1)
  | 1 =>
    match res with
    | .allVerified => (1, 0, s.flashErase o.faddr 8192)
    | .failedAfter _ => (0, 0x0A07, iter (fun i s => s.flashFree (o.faddr + 8 * i)) 1024 s)
  | 2 =>
    match s.firstProgrammed o.faddr o.count with
    | some i => (i, 0x0A05, s)
    | none => (o.count, 0, s)
  | _ => (o.count, 0, iter (fun i s =>
      let (v, s1) := s.marginDw (o.kind == 4) (o.faddr + 8 * i)
      s1.fabricWrite o.n 8 (o.buf + 8 * i) v) o.count s)

/-- R92, R405: the lines of a range leave every core's line buffer. -/
def State.dropLines (s : State) (a b : Nat) : State :=
  let lo := (0x10000000 + a) / 32
  let hi := (0x10000000 + b) / 32
  iter (fun n s =>
    let c := s.core n
    s.setCore n { c with lbuf := dropIf (fun l => Nat.ble lo l && Nat.ble l hi) c.lbuf }) 16 s

/-- R25: the running operation leaves the port, and the lines it altered are invalidated; a ring write that waits comes next. -/
def State.flashNext (s : State) (o : FlashOp) : State :=
  let s1 := { s with fp := { s.fp with q := s.fp.q.drop 1, ringRuns := s.meas.ring.isSome } }
  if o.kind = 0 ∨ o.kind = 1 then s1.dropLines o.faddr o.last else s1

/-- R151, R398: the running operation ends. -/
def flashCompleteStep (res : FlashResult) (s : State) : State :=
  match s.flashRuns with
  | none => s
  | some o =>
    let (cnt, code, s1) := s.flashRun o res
    (s1.flashNext o).flashDone o cnt code false
def execFlashopComplete (res : FlashResult) (s : State) : Out := .next (if s.running then flashCompleteStep res s else s)

/-- R399, R397: a thread parked on a line of bank `b` traps when it issues again. -/
def failParked (b g : Nat) (s : State) : State :=
  match (s.thr g).park with
  | some (l, _, _) =>
    if lineBank l = some b then unparkBad (g / 16) l (g % 16) (s.dropReq (g / 16) l) else s
  | none => s

/-- R397: what a timed-out operation leaves: a PROGRAM or an erase leaves its cells open, and how many doublewords a PROGRAM had
verified is not known. -/
def State.flashLost (s : State) (o : FlashOp) : State :=
  match o.kind with
  | 0 =>
    let k := s.free.toNat % (o.count + 1)
    let s1 := iter (fun i s => s.flashFree (o.faddr + 8 * i)) o.count s.drawn
    let (code, s2) := s1.partialCode o k 0x0A08
    (s2.flashNext o).flashDone o k code false
  | 1 => ((iter (fun i s => s.flashFree (o.faddr + 8 * i)) 1024 s).flashNext o).flashDone o 0 0x0A08 false
  | _ => (s.flashNext o).flashDone o 0 0x0A08 false

/-- R397: an operation that waits for its turn and names a bank in FAULT is refused. -/
def State.refuseWaiting (s : State) (b : Nat) : State :=
  let k := b2n s.flashRuns.isSome
  let bad := (s.fp.q.drop k).filter fun o => o.touches b
  bad.foldl (fun s o => s.flashDone o 0 0x0A08 false)
    { s with fp := { s.fp with q := s.fp.q.take k ++ dropIf (fun o => o.touches b) (s.fp.q.drop k) } }

/-- R397, R436: a request of the flash port breaks its bound. `kind` 0 is a line read; any other is a request of the operation that
runs (DESIGN CHOICE, log entry 36: the spec gives request kinds no coding). -/
def flashTimeoutStep (b kind : Nat) (s : State) : State :=
  let s1 := { s with fp := { s.fp with fault := setBits s.fp.fault b 1 1 } }
  let s2 := (s1.offer 0x0603 0 (BitVec.ofNat 32 b) (BitVec.ofNat 32 kind) 0).refuseWaiting b
  let s3 := match s2.flashRuns with
    | some o => if kind ≠ 0 ∧ o.touches b = true then s2.flashLost o else s2
    | none => s2
  iter (failParked b) 256 s3
def execFlashTimeout (bank : Fin 4) (kind : Nat) (s : State) : Out :=
  .next (if s.running then flashTimeoutStep bank kind s else s)

/-! ## Retry registers (R79, R82, R83) -/

/-- R124: the waiting ULD of a beat has been served in round `q`: the next beat is to come, or the XOP commits. -/
def uldDone (c : Ctx) (q v : Nat) (s : State) : State := match (s.thr c.g).multi with
  | some ⟨_, .xop (w :: rest) u fl⟩ =>
    let r := uldStep w s.free v u fl
    match c.commitTrap w r.1 s with
    | some tr => c.trap 3 tr s.drawn
    | none => c.uopEnd q w rest r.1 r.2 s.drawn
  | _ => s

/-- A waiting request of thread t has its bytes `v`, served in round `q` (R83). -/
def retryDone (n t : Nat) (p : Pend) (q v : Nat) (s : State) : State :=
  let c := p.ctx s n t
  let late : Ctx := { c with r := max p.r (q - 4) }
  if p.dec.mn = .tq then tqExe late v s
  else if p.dec.handsOff then flashExe late v s
  else if p.dec.mn = .mts then s
  else if p.dec.mn = .xop then uldDone c q v (s.readGrans n p.addr p.len).2
  else c.operandDone q v (s.readGrans n p.addr p.len).2

/-- R82, R85: the round in which a waiting request is served at the present round of its core: the one planned, or, where a wipe has held
the bank since, the next turn of the bank. -/
def Core.turn (c : Core) (p : Pend) : Nat := if c.round + 4 ≤ p.q then p.q else c.freeRound p.bank (c.round + 4)

/-- The request in a thread's retry register is served once its turn has come (R79, R83, R85); the thread issues again from the round
after. -/
def retryStep (n t : Nat) (s : State) : State :=
  let g := n * 16 + t
  match s.seek n (fun u => (u.thr g).retry.isSome) 512 with
  | (.retry u, s0) =>
    match (if u = t then (s0.thr g).retry else none) with
    | none => s
    | some p =>
      let co := s0.core n
      let q := co.turn p
      let th := s0.thr g
      let s1 := (s0.setCore n (co.take p.bank q)).setThr g { th with retry := none, nextRound := max th.nextRound (q + 1) }
      (match p.store with
      | some v => s1.storeBank n q true p.addr p.len v
      | none =>
        if p.len = 16 ∧ p.part = none ∧ bankOf p.addr ≠ bankOf (p.addr + 15) then
          let p1 := { p with part := some (s1.memRead n p.addr 8) }
          let q1 := (s1.core n).freeRound p1.bank (q + 1)
          (s1.setCore n ((s1.core n).take p1.bank q1)).setThr g { s1.thr g with retry := some { p1 with q := q1 } }
        else
          let v := match p.part with
            | some lo => lo + s1.memRead n (p.addr + 8) 8 * 2 ^ 64
            | none => s1.memRead n p.addr p.len
          retryDone n t p q v s1).stepDone n t
  | _ => s
def execRetryService (n t : Fin 16) (s : State) : Out := .next (retryStep n t s)

end Sys2Proof.Machine
end

