-- ==== Sys2Proof/Machine/Guard.lean ====
section
/-! DEFINITION. The Region Guard's commands: lookups and answers (R201, R245 to R247, R252, R253), targets (R234, R235), region entries
(R236 to R240) and the probe (R266). -/
namespace Sys2Proof.Machine

/-! ## Lookups and answers -/

def State.tgt (s : State) (t : Nat) : Target := tabGet {} s.gd.tgts t
def State.setTgt (s : State) (t : Nat) (x : Target) : State := { s with gd := { s.gd with tgts := tabSet {} s.gd.tgts t x } }

/-- R245: post `a` is taken before post `b`. -/
def postBefore (a b : Post) : Bool :=
  decide (a.p8 < b.p8) || (a.p8 == b.p8 && (decide (a.e < b.e) || (a.e == b.e && decide (a.c < b.c))))

/-- The first post of a queue in the order of R245. -/
def firstPost : List Post → Option Post
  | [] => none
  | q :: r => match firstPost r with
    | some p => some (if postBefore p q then p else q)
    | none => some q

/-- R245, R253, R433: a lookup unit takes a post, which its target counts, and reads the live bank. -/
def guardLookupStep (n : Nat) (s0 : State) : State :=
  let sl := s0.slice n
  match if sl.units.length < 2 then firstPost sl.queue else none with
  | none => s0
  | some q =>
    let s := s0.readRegion s0.gd.liveBank
    let t := s.tgt q.target
    (s.setSlice n { queue := dropFirst q sl.queue, units := sl.units ++ [q] }).setTgt q.target {
      lookups := (t.lookups + 1) % 2 ^ 32
      denies := if q.code = 2 then satInc 0xFFFF t.denies else t.denies
      oor := if q.oor then satInc 0xFFFF t.oor else t.oor }
def execGuardLookup (n : Fin 16) (s : State) : Out := .next (if s.inRst n then s else guardLookupStep n s)

/-- R299: a decision record. -/
def decisionRecord (q : Post) (lost : Nat) : List Byte :=
  leBytes 1 q.op ++ leBytes 1 q.code
    ++ leBytes 1 (b2n (q.monitored && q.code == 2) + 2 * b2n q.oor + 4 * b2n (lost != 0)) ++ leBytes 1 q.b
    ++ leBytes 4 lost ++ leBytes 8 q.addr ++ leBytes 8 (q.p8 / 8) ++ leBytes 2 q.ent ++ leBytes 1 q.target ++ leBytes 5 0

/-- R298: a record for the Guard conduit of the target. -/
def State.guardConduit (s : State) (q : Post) : State := match cdtGuard q.target s.host.cdts with
  | none => s
  | some (d, c) =>
    if c.recs.length < 64 then s.setCdt d { c with recs := c.recs ++ [decisionRecord q 0] }
    else s.setCdt d { c with lost := satInc 0xFFFFFFFF c.lost }

/-- R253: an entry of an answer. -/
def State.guardEntry (s : State) (q : Post) (code : Nat) : State :=
  s.offerAt (q.p8 / 8) code (objWord 6 0 q.target) (BitVec.ofNat 32 q.addr)
    (BitVec.ofNat 32 (q.addr / 2 ^ 32 + q.op * 2 ^ 16 + q.b * 2 ^ 20)) (BitVec.ofNat 32 q.ent)

/-- R252, R253: what an answer records. -/
def State.guardRecord (s : State) (q : Post) : State :=
  let s1 :=
    if q.code = 2 then
      if q.monitored then (s.guardEntry q 0x0404).setMeas { (s.guardEntry q 0x0404).meas with unenf := true }
      else s.guardEntry q (if q.op = 0 then 0x0402 else 0x0403)
    else if q.code = 1 ∧ q.op ≠ 0 then s.guardEntry q 0x0401
    else s
  let s2 := if q.oor then s1.guardEntry q 0x0405 else s1
  let s3 := if q.code = 2 ∨ q.oor = true ∨ (q.code = 1 ∧ q.op ≠ 0) then s2.guardConduit q else s2
  if q.notify && q.code == 2 then
    s3.notify 0 { code := 0x8002, result := [], payload := decisionRecord q 0 }
  else s3

/-- R201: the answer on one channel, seen by steps of later ticks. -/
def State.answerOn (s : State) (k : Nat) (mask : BitVec 16) (code : Nat) : State :=
  let ch := s.chan k
  s.setChan k { ch with
    answers := ch.answers
      ++ [(s.clk.tb, mask, BitVec.ofNat 16 (0x80 + 0x100 * b2n (decide (code ≤ 1)) + 0x200 * b2n (code == 1)))] }

/-- R201, R247, R255: the answer that a unit has ready lands. -/
def guardAnswerStep (n : Nat) (s : State) : State :=
  let sl := s.slice n
  match sl.units with
  | [] => s
  | q :: r =>
    let s1 := (s.setSlice n { sl with units := r }).answerOn (chanKey n q.e q.c) 0x3C0 q.code
    let s2 := match q.fside with
      | some (fe, fc) => s1.answerOn (chanKey n fe fc) 0x380 q.code
      | none => s1
    (if q.code = 1 ∧ q.op = 0 then s2.openTxn n q else s2).guardRecord q
def execGuardAnswer (n : Fin 16) (s : State) : Out := .next (if s.inRst n then s else guardAnswerStep n s)

/-! ## Targets (R234, R235) -/

/-- R234: the check of an enable of target t. -/
def State.gtBar (t : Nat) (s : State) : Check := byClass (s.gtFails t)

/-- A write of GT_CFG[t]. -/
def gtCfgWrite (src : Src) (t : Nat) (v : Word) (s : State) : State :=
  let off := gtOff t
  let s1 := stageFields src off v (regFields off) s
  if s.gtEn t then
    if v.getLsbD 31 then s1
    else if s.gd.sealed then s1.refuse src off 0x0620 (objWord 6 0 t)
    else (s1.setReg off (s1.reg off &&& 0x7FFFFFFF)).endTxns s.clk.tb fun x => x.target == t
  else if v.getLsbD 31 then
    match s1.bothPass (State.gtBar t) with
    | some (code, d) => s1.refuse src off code d
    | none => (s1.setReg off (s1.reg off ||| 0x80000000)).setTgt t {}
  else s1
def execGuardTargetEnable (src : Src) (target : Fin 256) (v : Word) (s : State) : Out :=
  .next (s.via src (gtCfgWrite src target (v ||| 0x80000000)))
def execGuardTargetDisable (src : Src) (target : Fin 256) (v : Word) (s : State) : Out :=
  .next (s.via src (gtCfgWrite src target (v &&& 0x7FFFFFFF)))

/-! ## Region entries (R237 to R240) -/

/-- R237: a word of the write buffer. -/
def gdDataPut (k : Nat) (v : Word) (s : State) : State := { s with gd := { s.gd with buf := tabSet 0 s.gd.buf k v } }
def execGdDataWrite (k : Fin 3) (v : Word) (s : State) : Out := .next (if s.clk.mainRst then s else gdDataPut k v s)

/-- GD_IDX.INDEX. -/
def State.gdIndex (s : State) : Nat := s.fld 0x30010 0 15

/-- R237: INDEX increments where AINC is 1. -/
def State.gdAdvance (s : State) : State :=
  if s.bit 0x30010 30 then s.setReg 0x30010 (setBits (s.reg 0x30010) 0 15 (s.gdIndex + 1)) else s

/-- R237: the entry of the write buffer and a fourth word. -/
def State.gdEntry (s : State) (v : Word) : BitVec 128 :=
  let w (k : Nat) : Nat := (tabGet 0 s.gd.buf k).toNat
  BitVec.ofNat 128 (w 0 + w 1 * 2 ^ 32 + w 2 * 2 ^ 64 + v.toNat * 2 ^ 96)

/-- R237, R238, R313, R317: a staged entry takes the written words. -/
def State.stageEntry (s : State) (src : Src) (i : Nat) (e : BitVec 128) : State :=
  if s.gd.sync then s.refuse src 0x3002C 0x0610 (objWord 0xC 0 i)
  else if tabGet 0 s.regionStaged i = e then s
  else match s.firnBar src with
    | some code => s.refuse src 0x3002C code 0
    | none => { s.freshGrans 2 (· == 32768 * b2n (!s.gd.liveBank) + i) with
        regionStaged := tabSet 0 s.regionStaged i e
        dirty := dirtyAdd regionUnit s.dirty }

/-- A write of GD_DATA3. -/
def gdData3Put (src : Src) (v : Word) (s : State) : State := (s.stageEntry src s.gdIndex (s.gdEntry v)).gdAdvance
def execGdData3Write (src : Src) (v : Word) (s : State) : Out := .next (s.via src (gdData3Put src v))

/-- R237: word k of the entry that GD_IDX names, live or staged. -/
def State.gdWord (s : State) (k : Nat) : Word :=
  BitVec.ofNat 32 ((tabGet 0 (if s.bit 0x30010 31 then s.regionStaged else s.regionLive) s.gdIndex).toNat / 2 ^ (32 * k))

def execGdData3Read (s : State) : Out :=
  .next (if s.clk.mainRst then s else { s.gdAdvance with spRdata := s.gdWord 3, spErr := false })

/-- R238: the copy of the new live bank ends. -/
def regionSyncStep (s : State) : State :=
  if s.gd.sync then
    { s.freshGrans 2 (inRegionBank !s.gd.liveBank) with regionStaged := s.regionLive, gd := { s.gd with sync := false } }
  else s
def execRegionSyncDone (s : State) : Out := .next (if s.clk.mainRst then s else regionSyncStep s)

/-- R240: the Guard is sealed. -/
def sealGuard (s : State) : State := { s with gd := { s.gd with sealed := true } }
def execGuardSeal (s : State) : Out := .next (if s.clk.mainRst then s else sealGuard s)

/-- GD_STS. -/
def State.gdSts (s : State) : Word :=
  BitVec.ofNat 32 (2 ^ 31 * b2n (s.bit 0x420 0) + 2 ^ 30 * b2n s.gd.sealed + 2 ^ 29 * b2n s.gd.sync + 2 ^ 28 * b2n s.gd.liveBank
    + (s.regionLive.filter fun x => x.2.getLsbD 127).length % 2 ^ 16)

/-! ## Probe (R266) -/

/-- GD_PROBE_RES of a decision. -/
def probeWord (d : Decision) : Word :=
  BitVec.ofNat 32 (2 ^ 31 + d.code * 2 ^ 29 + d.comp * 2 ^ 23 + 2 ^ 22 * b2n (d.ent == defaultEnt) + d.ent % 2 ^ 15)

/-- A write of GD_PROBE_HI. -/
def gdProbeWrite (v : Word) (s : State) : State :=
  let s1 := s.setReg 0x30044 (v &&& 0x7FE003FF)
  if !v.getLsbD 31 || s.gd.probe.isSome || bits v 29 2 == 3 then s1
  else
    let a := (s.reg 0x30040).toNat + bits v 0 10 * 2 ^ 32
    { s1 with gd := { s1.gd with probe := some (probeWord (s1.judge (bits v 21 8) (bits v 29 2) a)), probeRes := 0 } }
def execGdProbe (v : Word) (s : State) : Out := .next (if s.clk.mainRst then s else gdProbeWrite (v ||| 0x80000000) s)

/-- The probe ends. -/
def probeDoneStep (s : State) : State := match s.gd.probe with
  | some w => { s with gd := { s.gd with probe := none, probeRes := w } }
  | none => s
def execProbeDone (s : State) : Out := .next (if s.clk.mainRst then s else probeDoneStep s)

end Sys2Proof.Machine
end

