-- ==== Sys2Proof/Machine/MorBase.lean ====
section
/-! DEFINITION. The Moraine recorder: entries as bytes (R350), the log store, its blocks, chain and overwrite (R351, R358, R362, R363),
the entries of a record close and of a boot record (R359, R360) and acknowledgement (R365). -/
namespace Sys2Proof.Machine

def State.setMor (s : State) (m : Mor) : State := { s with mor := m }

/-- R350: the 64 bytes of an entry. -/
def MorEntry.bytes (e : MorEntry) : List Byte :=
  leBytes 8 e.tb ++ leBytes 4 e.seq ++ leBytes 2 e.code
    ++ [BitVec.ofNat 8 (e.sev + 8 * b2n e.pin + 16 * b2n e.replay + 32 * b2n e.snapErr), BitVec.ofNat 8 e.supp]
    ++ digestBytes e.payload

/-- R351: the entries of logical block b that are held, in SEQ order. -/
def Mor.blockEntries (m : Mor) (b : Nat) : List MorEntry :=
  (m.log.filter fun x => x.1 / 64 == b).map (·.2)

/-- R360, R362: a block holds a pinned entry. -/
def Mor.pinned (m : Mor) (b : Nat) : Bool :=
  m.runs.any fun r => decide (r.1 / 64 ≤ b) && decide (b ≤ r.2 / 64) && decide (m.ack ≤ r.2)

/-- R362: a block is protected, with MOR_CFG.KEEP. -/
def Mor.guarded (m : Mor) (keep b : Nat) : Bool :=
  m.pinned b || (m.blockEntries b).any fun e => decide (m.ack ≤ e.seq) && decide (keep ≤ e.sev)

/-- R367: a block is held for a reader of MOR_RDATA. -/
def Mor.heldFor (m : Mor) (tb b : Nat) : Bool := match m.hold with
  | some (q, t) => q / 64 == b && decide (tb < t + 64000)
  | none => false

/-- The first block of a list that satisfies `p`. -/
def firstBlock (p : Nat → Bool) : List Nat → Option Nat
  | [] => none
  | b :: r => if p b then some b else firstBlock p r

/-- A block's slot is taken: its entries go. -/
def Mor.evict (m : Mor) (b : Nat) : Mor :=
  { m with log := tabDrop (fun k => k / 64 == b) m.log, blocks := dropIf (· == b) m.blocks }

/-- R362, R363: the unacknowledged entries of a block taken for a privileged entry count as overwritten. -/
def Mor.overwrite (m : Mor) (b : Nat) : Mor × Nat :=
  let l := (m.blockEntries b).filter fun e => decide (m.ack ≤ e.seq)
  let first := tabGet 0 m.since 4 == 0
  let lo := (l.head?.map (·.seq)).getD m.lowOver
  let hi := (l.getLast?.map (·.seq)).getD m.highOver
  let m1 := l.foldl (fun m _ => morCount m 4) m
  ({ m1.evict b with lowOver := if first then lo else min lo m.lowOver, highOver := if first then hi else max hi m.highOver }, l.length)

/-- R362: a slot for the next logical block; `none` where the log is full for an ordinary entry. Gives the entries overwritten. -/
def Mor.alloc (m : Mor) (keep tb : Nat) (priv : Bool) : Option (Mor × Nat) :=
  let m' := { m with blocks := m.blocks ++ [m.next / 64] }
  if m.blocks.length < 128 then some (m', 0)
  else match firstBlock (fun b => !m.guarded keep b && !m.heldFor tb b) m.blocks with
    | some b => some (m'.evict b, 0)
    | none =>
      if priv then (firstBlock (fun b => !m.pinned b && !m.heldFor tb b) m.blocks).map fun b => m'.overwrite b
      else none

/-- R351, R358: an entry is written at the next SEQ; the chain value follows the last entry of a block. -/
def Mor.emit (m : Mor) (tb : Nat) (e : MorEntry) : Mor :=
  let m1 := { m with log := tabSet {} m.log m.next { e with seq := m.next }, next := (m.next + 1) % 2 ^ 32, lastWrite := some tb }
  if m.next % 64 = 63 then { m1 with chain := sha384 ((m1.blockEntries (m.next / 64)).flatMap MorEntry.bytes) } else m1

/-- R358: a SEAL entry with a chain value. -/
def sealEntry (tb : Nat) (c : Digest) : MorEntry := { tb := tb, code := 1, sev := 1, payload := c }

/-- R351, R362: an entry is stored, after a SEAL where it begins a block; gives the entries overwritten for it. An ordinary entry that
finds no block is dropped. -/
def Mor.store (m : Mor) (keep tb : Nat) (e : MorEntry) : Mor × Nat :=
  if m.next % 64 ≠ 0 then (m.emit tb e, 0)
  else match m.alloc keep tb (morSure e.code) with
    | none => (morCount m e.sev, 0)
    | some (m1, k) => ((m1.emit tb (sealEntry tb m.chain)).emit tb e, k)

/-- R363: a count since the last DROPS entry is nonzero. -/
def Mor.dropping (m : Mor) : Bool := !m.since.isEmpty

/-- R363: the DROPS entry of the present counts. -/
def Mor.dropsEntry (m : Mor) (tb : Nat) : MorEntry :=
  let c (k : Nat) : Nat := tabGet 0 m.since k % 2 ^ 32
  { tb := tb, code := 2, sev := 1,
    payload := BitVec.ofNat 384 (c 0 + c 1 * 2 ^ 32 + c 2 * 2 ^ 64 + c 3 * 2 ^ 96 + c 4 * 2 ^ 128 + c 5 * 2 ^ 160
      + m.lowOver * 2 ^ 192 + m.highOver * 2 ^ 224) }

/-- R363: a DROPS entry is written and the counts restart. -/
def Mor.writeDrops (m : Mor) (keep tb : Nat) : Mor × Nat :=
  let e := m.dropsEntry tb
  ({ m with since := [], lowOver := 0, highOver := 0 }).store keep tb e

/-- R449: a LOSS entry. -/
def lossEntry (tb : Nat) (origin : Word) (kept lost cause rule arg : Nat) : MorEntry :=
  { tb := tb, code := 7, sev := 3,
    payload := morPayload origin (BitVec.ofNat 32 (lost + kept * 16 + cause * 256)) (BitVec.ofNat 32 rule) (BitVec.ofNat 32 arg) }

/-- R363, R449: after a privileged entry has overwritten a block, DROPS follows at once, then LOSS. -/
def Mor.settleLoss (m : Mor) (keep tb k : Nat) (fill : MorEntry → MorEntry) : Mor :=
  if k = 0 then m
  else
    let (m1, j) := m.writeDrops keep tb
    (m1.store keep tb (fill (lossEntry tb 0 3 5 4 359 (k + j)))).1

/-- R361 to R363: the recorder writes an entry, after a DROPS entry where one is due; `fill` takes the snapshot of an entry of its own
(R356). -/
def Mor.write (m : Mor) (keep tb : Nat) (e : MorEntry) (fill : MorEntry → MorEntry) : Mor :=
  let priv := morPrivileged e.code
  let room := decide (m.next % 64 ≠ 0) || (m.alloc keep tb false).isSome
  let m1 := if !priv && m.dropping && room then (m.writeDrops keep tb).1 else m
  let (m2, k) := m1.store keep tb e
  m2.settleLoss keep tb k fill

/-- MOR_CFG.KEEP. -/
def State.morKeep (s : State) : Nat := s.fld 0x40000 0 3

/-- The recorder writes an entry past its queue. -/
def State.morWrite (s : State) (e : MorEntry) (fill : MorEntry → MorEntry) : State :=
  s.setMor (s.mor.write s.morKeep s.clk.tb { e with sev := morSev e.code } fill)

/-- R433: an entry of the log store is exported: an error in it is counted and recorded, and its stored bits go out as they are. -/
def State.noteExport (s : State) (seq : Nat) : State :=
  match tabGet 0 s.upset (upKey 3 seq) with
  | 0 => s
  | k => s.eccNote (k == 2) 3 0 (seq % 8192)

/-- R358: the genesis value. -/
def genesis (tb cause : Nat) : Digest :=
  sha384 ([0x56, 0x58, 0x4D, 0x52] ++ leBytes 4 0x56581602 ++ leBytes 8 tb ++ [BitVec.ofNat 8 cause, 0, 0, 0])

/-- R358, R351: the log opens with the SEAL of block 0. -/
def State.morGenesis (s : State) : State :=
  s.setMor (({ s.mor with blocks := [0] } : Mor).emit s.clk.tb (sealEntry s.clk.tb (genesis s.clk.tb s.clk.cause)))

/-- R359: DROPS where a count stands, then CLOSE; gives MOR_HEAD. -/
def State.morClose (s : State) (c seq : Nat) (fill : MorEntry → MorEntry) : Digest × State :=
  let (m1, k) := if s.mor.dropping then s.mor.writeDrops s.morKeep s.clk.tb else (s.mor, 0)
  let s1 := s.setMor (m1.settleLoss s.morKeep s.clk.tb k fill)
  let s2 := s1.morWrite (fill { tb := c, code := 3, payload := morPayload 0 (BitVec.ofNat 32 seq) 0 0 }) fill
  let at_ := s2.mor.log.filter fun x => x.2.code == 3 && bits x.2.payload 32 32 == seq % 2 ^ 32
  let q := ((at_.getLast?).map (·.1)).getD 0
  (sha384 (((s2.mor.blockEntries (q / 64)).filter fun e => decide (e.seq ≤ q)).flatMap MorEntry.bytes), s2)

/-- R360: the payload of BR_BODY entries, 48 bytes each. -/
def chunks48 : Nat → List Byte → List (List Byte)
  | 0, _ => []
  | k + 1, l => l.take 48 :: chunks48 k (l.drop 48)

/-- R360: entries are stored one after another, with nothing between them but the SEAL entries that begin blocks. Gives the entries
overwritten for them. -/
def Mor.storeRun (keep tb : Nat) (l : List MorEntry) (m : Mor) : Mor × Nat :=
  l.foldl (fun r e => let (m1, k) := r.1.store keep tb { e with sev := morSev e.code }; (m1, r.2 + k)) (m, 0)

/-- R360, R363, R364: the run of a signed record put into the ring, and how many entries it overwrote; the oldest of two pinned runs is
unpinned. -/
def Mor.putRun (keep tb seq : Nat) (rec : List Byte) (m : Mor) : Mor × Nat :=
  let live := m.runs.filter fun r => decide (m.ack ≤ r.2)
  let n := (rec.length + 47) / 48
  let first := m.next
  let head : MorEntry :=
    { tb := tb, code := 4, pin := true,
      payload := digestOf (leBytes 4 seq ++ leBytes 2 rec.length ++ leBytes 2 n ++ (rec.drop (rec.length - 96)).take 40) }
  let open_ : Mor := { m with runs := (if 2 ≤ live.length then live.drop 1 else live) ++ [(first, first + n + 8)] }
  let body := (chunks48 n rec).map fun b => ({ tb := tb, code := 5, pin := true, payload := digestOf b } : MorEntry)
  let p := open_.storeRun keep tb (head :: body)
  ({ p.1 with runs := p.1.runs.map fun r => if r.1 = first then (first, p.1.next - 1) else r }, p.2)

/-- R360, R364, R367: the run, then DROPS and LOSS where it has overwritten entries; the log's port is busy until the run is written. -/
def State.morRun (s : State) (seq : Nat) (rec : List Byte) (fill : MorEntry → MorEntry) : State :=
  let p := s.mor.putRun s.morKeep s.clk.tb seq rec
  s.setMor { p.1.settleLoss s.morKeep s.clk.tb p.2 fill with
    lastWrite := some (s.clk.tb + 16 * ((rec.length + 47) / 48)) }

/-- R365: ACK_SEQ rises to a value, no further than MOR_NEXT. -/
def State.morAckTo (s : State) (v : Nat) : State :=
  let m := s.mor
  let a := min v m.next
  if m.ack < a then s.setMor { m with ack := a } else s

end Sys2Proof.Machine
end

