-- ==== Sys2Proof/Machine/Record.lean ====
section
/-! DEFINITION. Folds (R256), the close of a boot record (R260, R261), its signing (R262, R265), its ring slot (R263, R264) and its
delivery (R265). -/
namespace Sys2Proof.Machine

/-! ## Folds (R256) -/

/-- R257: a lane has absorbed every byte of a transaction. -/
def State.absorbed (s : State) (x : Txn) : Bool := s.meas.segs.all fun g => g.txn != x.id || decide (g.start + g.count ≤ s.clk.tb)

/-- R256: a post that will open a transaction of component `x.comp` before `x`. -/
def postBeforeTxn (x : Txn) (q : Post) : Bool :=
  q.code == 1 && q.op == 0 && q.comp == x.comp && (Nat.blt q.p8 x.p8 || (q.p8 == x.p8 && Nat.blt q.b x.b))

/-- R256: a post that waits for its answer may still open a transaction before `x`. -/
def State.postWaits (s : State) (x : Txn) : Bool := s.gd.slices.any fun sl => (sl.2.queue ++ sl.2.units).any (postBeforeTxn x)

/-- R256: no transaction of the same component that began earlier waits, none can still be opened, and no engine has a step before the
instant of `x` to take. -/
def State.foldable (s : State) (x : Txn) : Bool :=
  x.ended && s.absorbed x && (s.meas.txns.all fun y => y.id == x.id || y.comp != x.comp || !txnBefore y x) && !s.postWaits x
    && s.steppedTo (fun _ => true) (x.p8 / 8 + 1)

/-- The first ended transaction of a binding is folded, once its turn has come. -/
def foldStep (target b : Nat) (s : State) : State :=
  match firstTxn (fun x => x.target == target && x.b == b && x.ended) s.meas.txns none with
  | some x => if s.foldable x then s.setMeas (s.meas.fold x) else s
  | none => s
def execTransactionFold (target : Fin 256) (b : Fin 2) (s : State) : Out :=
  .next (if s.clk.mainRst then s else foldStep target b s)

/-! ## Close (R260, R261) -/

/-- R260: the part of a split transaction that goes into the closing record. With no byte so far nothing is folded, and the entry of its
component carries SPLIT_OUT alone (DEDUCED, log entry 49). -/
def Meas.splitFold (m : Meas) (x : Txn) : Meas :=
  if x.data = [] then
    let c := tabGet {} m.comps x.comp
    { m with
      comps := tabSet {} m.comps x.comp { c with flags := c.flags ||| 4 }
      txns := dropIf (fun y => y.id == x.id) m.txns }
  else m.fold { x with splitOut := true }

/-- R260: the rest of a split transaction is a new one, with a number of its own. -/
def splitRest (id : Nat) (x : Txn) : Txn :=
  { x with
    id := id
    data := []
    gap := 0
    gapped := false
    splitIn := true }

/-- R260: every transaction is folded into the closing record, at most `f`; the rest of an open one starts the next record. -/
def foldAll : Nat → Meas → List Txn → Meas × List Txn
  | 0, m, rest => (m, rest)
  | f + 1, m, rest =>
    match firstTxn (fun _ => true) m.txns none with
    | none => (m, rest)
    | some x =>
      if x.ended then foldAll f (m.fold x) rest
      else
        let m1 := m.splitFold x
        foldAll f { m1 with nextId := m1.nextId + 1 } (rest ++ [splitRest m1.nextId x])

/-- R261: the entry of an image. -/
def imageEntry (slot : Nat) (i : Image) : List Byte :=
  leBytes 1 1 ++ leBytes 1 slot ++ leBytes 2 (8 * b2n i.rejected) ++ leBytes 4 i.version ++ leBytes 8 i.length ++ leBytes 4 1
    ++ leBytes 4 0 ++ leBytes 1 0xFF ++ leBytes 7 0 ++ digestBytes i.digest

/-- R261: the entry of a component. -/
def compEntry (c version : Nat) (x : Comp) : List Byte :=
  leBytes 1 2 ++ leBytes 1 c ++ leBytes 2 x.flags ++ leBytes 4 version ++ leBytes 8 x.bytes ++ leBytes 4 x.txns ++ leBytes 4 x.gap
    ++ leBytes 1 x.target ++ leBytes 7 0 ++ digestBytes x.m

/-- R261: component c is listed. -/
def State.compListed (s : State) (m : Meas) (c : Nat) : Bool :=
  decide (0 < (tabGet {} m.comps c).txns) || s.bit (0x33104 + 8 * c) 31

/-- R261: the entries of a record, in their order. -/
def State.recEntries (s : State) (m : Meas) : List (List Byte) :=
  ((List.range 16).filterMap fun k => (tabGet none m.images k).map (imageEntry k))
    ++ ((List.range 64).filter (s.compListed m)).map fun c => compEntry c (s.reg (0x33100 + 8 * c)).toNat (tabGet {} m.comps c)

/-- R261: header flags GAP, SPLIT, IMAGE_REJECTED and UNENFORCED. -/
def State.recFlags (s : State) (m : Meas) : Nat :=
  let any (bit : Nat) : Bool := (List.range 64).any fun c => s.compListed m c && (tabGet {} m.comps c).flags.testBit bit
  let rej := (List.range 16).any fun k => match tabGet none m.images k with
    | some i => i.rejected
    | none => false
  4 * b2n (any 0) + 8 * b2n (any 2) + 16 * b2n rej + 64 * b2n m.unenf

/-- R261: NODE. -/
def State.recNode (s : State) : Nat := if s.casc.assigned then s.casc.node else 0

/-- R260, R359: the record closes at tick `c`. -/
def State.closeRecord (s : State) (c : Nat) (fill : MorEntry → MorEntry) : State :=
  let (m1, rest) := foldAll s.meas.txns.length s.meas []
  let (head, s1) := s.morClose c s.meas.seq fill
  let es := s.recEntries m1
  let r : Rec := { seq := m1.seq, tb := c, node := s.recNode, count := es.length, entries := es.flatten, flags := s.recFlags m1,
                   head := head, folded := m1.comps.any fun x => decide (0 < x.2.txns) }
  s1.setMeas { m1 with
    txns := rest, comps := [], unenf := false, seq := (m1.seq + 1) % 2 ^ 32, closing := true
    queue := m1.queue ++ [r] }

/-- R392: a close requested on the master closes every node of the cascade. -/
def State.cascadeClose (s : State) : Bool := s.bit 0x50010 0 && s.casc.master && s.casc.rooted

/-! ## Signing (R262, R265) -/

/-- R262: a valid private key. -/
def keyOk (k : Digest) : Bool := decide (0 < k.toNat) && decide (k.toNat < p384Order)

/-- R261: the bytes of a record before its signature. -/
def recBody (r : Rec) (flags : Nat) (prev : Digest) : List Byte :=
  [0x56, 0x58, 0x42, 0x52] ++ leBytes 2 1 ++ leBytes 2 r.count ++ leBytes 4 (128 + 80 * r.count + 96) ++ leBytes 4 r.seq ++ leBytes 8 r.tb
    ++ leBytes 2 r.node ++ leBytes 2 flags ++ leBytes 4 0x00020001 ++ digestBytes prev ++ digestBytes r.head ++ r.entries

/-- R261, R262: the signed record. -/
def signRec (key : Digest) (r : Rec) (flags : Nat) (prev : Digest) : List Byte :=
  let b := recBody r flags prev
  let (x, y) := ecdsaSign key b
  b ++ beBytes 48 x ++ beBytes 48 y

/-- R288: fragment k of a record: 0 holds its first 4,032 bytes, 1 the rest. -/
def recFrag (rb : List Byte) (k : Nat) : List Byte := if k = 0 then rb.take 4032 else rb.drop 4032

/-- R300: the BOOT_RECORD notice of a record; it is written as two fragments. -/
def bootNotice (seq : Nat) (rb : List Byte) : Notice :=
  { code := 0x8003, result := leBytes 4 seq ++ leBytes 2 rb.length, payload := rb }

/-- R265, R285: the admin session is open and takes boot records. -/
def State.recTaker (s : State) : Bool := (s.ses 0).st == .opened && (s.ses 0).feat / 2 % 2 == 1

/-- R300: the notice of a record waits to be written. -/
def State.recQueued (s : State) (rb : List Byte) : Bool := s.host.notices.any fun x => x.code == 0x8003 && x.payload == rb

/-- R265: the notice of the latest signed record is queued, once its ring write has ended; the record is held until the notice is
written. -/
def State.deliverRec (s : State) : State := match s.meas.held with
  | none => s
  | some rb =>
    if s.recTaker && s.meas.ring.isNone && !s.recQueued rb then s.queueNotice (bootNotice (leNat ((rb.drop 12).take 4)) rb) else s

/-- R265: signing is abandoned. -/
def State.signFail (s : State) (seq : Nat) : State :=
  (s.setMeas { s.meas with closing := false, last := 2 }).offer 0x0408 0 (BitVec.ofNat 32 seq) 0 0

/-- R14, R265, R449: Avalanche keeps a signature from its key. -/
def State.signLoss (s : State) (seq : Nat) : State := (s.signFail seq).offerEntry (lossEntry s.clk.tb 0 1 3 2 23 seq)

/-- R25: the flash port takes the ring write at once where no operation runs; otherwise it comes next. -/
def State.ringStart (s : State) : State := { s with fp := { s.fp with ringRuns := s.fp.q.isEmpty } }

/-- R263, R265: the oldest closed record is signed with `key`; the entries of Moraine come first, then the ring. -/
def State.signed (s : State) (key : Digest) (r : Rec) (rest : List Rec) (fill : MorEntry → MorEntry) : State :=
  let m := s.meas
  let rb := signRec key r (r.flags + b2n m.chainStart + 2 * b2n m.priorLost + 32 * b2n m.priorRing) m.prev
  let s1 := s.setMeas { m with
    queue := rest, prev := sha384 rb, chainStart := false, priorLost := false, priorRing := false, ring := some (r.seq, rb)
    held := some rb
    brOpen := rest.any (·.folded) || m.comps.any fun x => decide (0 < x.2.txns) }
  (s1.morRun r.seq rb fill).ringStart

/-- R262, R265: signing ends, with the key that the key port supplied. -/
def signStep (key : Option Digest) (fill : MorEntry → MorEntry) (s : State) : State :=
  match s.meas.queue with
  | [] => s
  | r :: rest =>
    if !s.meas.closing || s.meas.ring.isSome then s
    else if s.alm.keysOff then s.signLoss r.seq
    else match key with
      | some k => if keyOk k then s.signed k r rest fill else s.signFail r.seq
      | none => s.signFail r.seq

/-! ## The flash ring (R263, R264) -/

/-- R264: the writes of a record into its slot. -/
def State.ringPut (s : State) (seq : Nat) (rb : List Byte) : State :=
  let a := s.ringSlot seq
  ((s.flashErase a 8192).flashPut a ((rb.length + 7) / 8 * 8) (leNat rb)).flashPut (a + 0x1FF8) 8 (seq * 2 ^ 32 + 0x43525856)

/-- R264: the slot of a write that failed holds what the spec leaves open. -/
def State.ringLost (s : State) (seq : Nat) : State := iter (fun i s => s.flashFree (s.ringSlot seq + 8 * i)) 1024 s

/-- R265: CLOSING ends once no record waits for its signature. -/
def State.closeOver (s : State) (last : Nat) : State :=
  s.setMeas { s.meas with ring := none, closing := s.meas.closing && s.meas.queue != [], last := last }

/-- R264, R397: the ring write of a record fails, on a bank marked FAULT with 0x0A08. -/
def State.ringFail (s : State) (seq : Nat) (fault : Bool) : State :=
  let s1 := ((s.ringLost seq).closeOver 3).offer 0x0409 0 (BitVec.ofNat 32 seq) (if fault then 0x0A08 else 0x0A07) 0
  s1.setMeas { s1.meas with priorRing := true }

/-- R397: the bank of the ring write is marked FAULT. -/
def State.ringFaulty (s : State) : Bool := match s.ringBank with
  | some b => s.fp.fault.getLsbD b
  | none => false

/-- R25, R264, R265: the ring write that the port runs ends, and the record goes to the host whatever its outcome. -/
def ringStep (ok : Bool) (s : State) : State := match (if s.fp.ringRuns then s.meas.ring else none) with
  | none => s
  | some (seq, rb) =>
    let s1 := { s with fp := { s.fp with ringRuns := false } }
    (if ok && !s.ringFaulty then (s1.ringPut seq rb).closeOver 1 else s1.ringFail seq s.ringFaulty).deliverRec
def execRingWriteDone (ok : Bool) (s : State) : Out := .next (if s.clk.mainRst then s else ringStep ok s)

/-! ## Registers -/

/-- GM_STS. -/
def State.gmSts (s : State) : Word :=
  BitVec.ofNat 32 (2 ^ 31 * b2n s.meas.closing + s.meas.last * 2 ^ 28
    + 2 ^ 27 * b2n (s.meas.held.isSome || s.casc.fwdRec.isSome || (!s.meas.closing && s.meas.queue != [])))

/-- GM_LANE of a lane. -/
def State.gmLane (s : State) (l : Nat) : Word :=
  let busy := s.meas.txns.any fun x => x.lane == l
  match findBelow 256 fun t => s.laneOfTarget t == some l with
  | some t => BitVec.ofNat 32 (2 ^ 31 + t * 2 ^ 23 + 2 ^ 22 * b2n busy)
  | none => BitVec.ofNat 32 (2 ^ 22 * b2n busy)

/-- GM_COMP word 1 of a component. -/
def State.gmComp (s : State) (c : Nat) : Word :=
  (s.reg (0x33104 + 8 * c) &&& 0x80000000) ||| BitVec.ofNat 32 (min 0xFFFF (tabGet {} s.meas.comps c).txns)

end Sys2Proof.Machine
end

