-- ==== Sys2Proof/Machine/Reset.lean ====
section
/-! DEFINITION. Reset and power: MAIN, SPAN[n] and BACKUP reset (R29 to R32, R41, R458, R459, R464, R467), SLEEP (R34) and LF mode (R330,
R331). -/
namespace Sys2Proof.Machine

def State.setClk (s : State) (c : Clk) : State := { s with clk := c }

/-! ## What a reset interrupts -/

/-- R405: a PROGRAM that a MAIN reset interrupts: how far it had come is free, and the doubleword in progress holds some of its new
bits. -/
def State.tornProgram (s : State) (o : FlashOp) : State :=
  if (s.firstProgrammed o.faddr o.count).isSome then s
  else
    let k := s.free.toNat % o.count
    let s1 := s.drawn.programDws o k
    let v := (s1.programDws o (k + 1)).flashDw (o.faddr + 8 * k)
    let (f, s2) := s1.freeDw
    (s2.flashPut (o.faddr + 8 * k) 8 (v ||| f)).flashWeak (o.faddr + 8 * k)

/-- R405: the FLASHOP that runs when MAIN reset is asserted. -/
def State.tornFlash (s : State) : State := match s.flashRuns with
  | none => s
  | some o =>
    if o.kind = 0 then s.tornProgram o
    else if o.kind = 1 then iter (fun i s => s.flashFree (o.faddr / 8192 * 8192 + 8 * i)) 1024 s
    else s

/-- R264: a ring write that MAIN reset interrupts is complete, or leaves no valid slot; which is free. One that the port has not begun
writes nothing. -/
def State.tornRing (s : State) : State := match (if s.fp.ringRuns then s.meas.ring else none) with
  | none => s
  | some (seq, rb) =>
    if s.free.getLsbD 0 then s.drawn.ringPut seq rb
    else (s.drawn.ringLost seq).flashErase (s.ringSlot seq + 0x1FF8) 8

/-- A doubleword of the option area takes a free value, with or without valid ECC. -/
def optFree (i : Nat) (s : State) : State :=
  let (v, s1) := s.freeDw
  let s2 := s1.drawn.optPut (8 * i) 8 v
  { s2 with upset := tabSet 0 s2.upset (upKey 16 i) (2 * bits s1.free 0 1) }

/-- An option write that MAIN reset interrupts leaves OA0 open. -/
def State.tornOption (s : State) : State := if s.optn.writing.isSome then iter optFree 112 s else s

/-! ## MAIN reset (R29, R30, R467) -/

/-- R84: the store buffers of a Span are drained and the stores of its retry registers are written. -/
def State.drainAll (s : State) (n : Nat) : State :=
  let s1 := { s with mem := (s.core n).sb.foldl (fun m e => sbFlush n e m) s.mem }
  let s2 := s1.setCore n { s1.core n with sb := [] }
  iter (fun t s => match (s.thr (n * 16 + t)).retry with
    | some p => (match p.store with
      | some v => s.memWrite n p.len p.addr v
      | none => s)
    | none => s) 16 s2

/-- R29, R84: every Span is drained, since MAIN asserts every SPAN[n] reset. -/
def State.drainSpans (s : State) : State := iter (fun n s => s.drainAll n) 16 s

/-- MAIN reset is asserted with a cause: everything but the backup domain, flash and Span memory returns to its reset value. After a
loss of the core supply Span memory reads as memory that nothing has written. -/
def State.mainReset (s0 : State) (cause : Nat) : State :=
  let s := s0.tornFlash.tornRing.tornOption.drainSpans
  let c := s.clk
  let kept := decide (2 ≤ cause)
  { ({} : State) with
    clk := { ({} : Clk) with
      tb := c.tb, lf := c.lf, backupRst := c.backupRst, backupEdges := c.backupEdges, pok := c.pok, rstPin := c.rstPin
      vHeld := if c.mainRst then c.vHeld else c.tb
      cause := cause, sensed := c.sensed }
    mem := if kept then s.mem else []
    upset := tabDrop (fun k => (!kept && Nat.blt k (2 ^ 32)) || (Nat.ble (2 ^ 32) k && Nat.blt k (5 * 2 ^ 32))) s.upset
    flash := s.flash
    fp := { ({} : FlashPort) with weak := s.fp.weak }
    opt := s.opt
    meas := { ({} : Meas) with brOpen := s.meas.brOpen }
    alm := { ({} : Alm) with keyErase := s.alm.keyErase }
    bk := s.bk
    casc := { ({} : Casc) with ports := (s.casc.ports.filter fun x => x.2.phy).map fun x => (x.1, { phy := true }) }
    host := { ({} : HostIf) with
      mem := s.host.mem
      irqs := s.host.irqs }
    spRdata := s.spRdata
    freeCtr := s.freeCtr
    pending := s.pending }

/-- R41, R446: a write of a reset register with the key and MAIN; `refused` is what another key does. -/
def State.resetKey (s : State) (v : Word) (cause : Nat) (refused : State → State) : State :=
  if !v.getLsbD 0 then s else if bits v 16 16 = 0x4D52 then s.mainReset cause else refused s

/-- A write of RST_CTRL. -/
def rstCtrlWrite (v : Word) (s : State) : State := s.resetKey v 3 fun s => s.offer 0x0108 0 v 0 0
def execMainResetRequest (v : Word) (s : State) : Out := .next (if s.clk.mainRst then s else rstCtrlWrite v s)

/-- R29: rst_main_n_i is asserted. -/
def rstPinStep (s : State) : State :=
  let s1 := if s.clk.mainRst then s else s.mainReset 2
  s1.setClk { s1.clk with rstPin := true }
def execRstMainN (s : State) : Out := .next (rstPinStep s)

/-- R458: vbat rises: the backup domain is reset, and with it the block. -/
def backupResetStep (s : State) : State :=
  let s1 := s.mainReset 0
  { s1 with
    clk := { s1.clk with
      lf := 0, vHeld := 0, backupRst := true, backupEdges := 0 }
    bk := {}
    meas := {}
    alm := {} }
def execBackupReset (s : State) : Out := .next (backupResetStep s)

/-- R458: main_pok_i falls. -/
def pokFallStep (s : State) : State :=
  if !s.clk.pok then s
  else
    let s1 := s.mainReset (if s.clk.mainRst && s.clk.cause == 0 then 0 else 1)
    s1.setClk { s1.clk with pok := false }
def execMainPokFall (s : State) : Out := .next (pokFallStep s)

/-- R429, R458: main_pok_i rises; the samples that backup watch took are forgotten. -/
def pokRiseStep (s : State) : State := { s with
  clk := { s.clk with pok := true }
  bk := { s.bk with
    prev := 0
    smpAt := none } }
def execMainPokRise (s : State) : Out := .next (pokRiseStep s)

/-! ## Release (R459) -/

/-- R430: TB of a REPLAY entry. -/
def lfTicks (lf : Nat) : Nat := lf * 1000000000 / 32768

/-- R427: the unacknowledged entries of the backup ring, oldest first. -/
def Bkup.open (b : Bkup) : List (BitVec 128) :=
  (List.range ((b.head + 65536 - b.ack) % 65536)).map fun i => tabGet 0 b.ring ((b.ack + i) % 65536 % 32)

/-- R354, R430: the REPLAY entries; the LF count of TB is that of the entry (DEDUCED, log entry 49). -/
def State.replay (s : State) : State :=
  s.bk.open.foldl (fun s e => s.morWrite {
    tb := lfTicks (bits e 0 48)
    code := 6
    replay := true
    payload := BitVec.ofNat 384 e.toNat } id) s

/-- R413, R414: the resumable part of a lowering of readout protection, and its mark. -/
def State.eraseAll (s : State) (rec_ : Nat) : State :=
  let s1 := { s with
    flash := []
    fp := { s.fp with weak := [] }
    opt := tabDrop (fun a => decide (a < 0x4000)) s.opt
    mem := []
    upset := tabDrop (fun k => decide (k < 2 ^ 32) || (decide (16 * 2 ^ 32 ≤ k) && decide (k < 16 * 2 ^ 32 + 2048))) s.upset }
  s1.optPut (0x4000 + 16 * rec_ + 8) 8 (oa2Mark rec_)

/-- R414: a lowering without its mark is run again. -/
def State.resumeLowering (s : State) : State :=
  if s.resumes then
    let s1 := s.eraseAll s.readOa2.last
    s1.setClk { s1.clk with cause := 6 }
  else s

/-- R30: TB at MAIN reset release. -/
def Clk.tbLoad (c : Clk) : Nat :=
  let v := lfTicks c.lf
  (if 2 ≤ c.cause then max v c.vHeld else v) % 2 ^ 64

/-- R154: SP0.T0 enters SERVICE at the base of the boot ROM. -/
def State.startBoot (s : State) : State :=
  { s with
    threads := tabSet {} s.threads 0 { ({} : Thread) with
      pc := 0x1F000000
      st := .service }
    boot := { s.boot with
      toRun := true
      since := s.clk.tb } }

/-- R32: a Span leaves reset. -/
def leaveRst (n : Nat) (s : State) : State :=
  s.setCore n { s.core n with
    inRst := false
    rstEnd := none }

/-- R399: option load has met an uncorrectable doubleword. -/
def optEccNote (s : State) (i : Nat) : State :=
  { s with fp := { s.fp with uncorrectable := satInc 0xFFFF s.fp.uncorrectable } }.offer 0x0601 0 (BitVec.ofNat 32 (8 * i)) 3 0

/-- R399, R409, R414, R325, R375: what option load reports once Moraine runs. -/
def State.loadReports (s : State) (resumed : Bool) (r : Option Nat × List (Nat × Nat × Nat) × Bool) : State :=
  let s0 := s.optEcc.foldl optEccNote s
  let s1 := if resumed then s0.offer 0x0607 0 (BitVec.ofNat 32 s.optn.level) (BitVec.ofNat 32 (s.pfUsed 4)) 0 else s0
  let s2 := match r.1 with
    | some c => s1.offer 0x0605 0 (BitVec.ofNat 32 c) 0 0
    | none => s1
  let s3 := r.2.1.foldl (fun s x => s.offer 0x0105 0 (BitVec.ofNat 32 x.1) (BitVec.ofNat 32 x.2.1) (BitVec.ofNat 32 x.2.2)) s2
  if r.2.2 then s3.cascEntry 0x080E s3.casc.node 0 0 0 else s3

/-- R459: steps 3 to 7 of the power-up sequence, with the clocks that show present (the DBG bit only once TCK has toggled, R42) and the
bank supplies the pads sense (PAD_BANK.SENSED). TB is loaded before a lowering is resumed, whose reset keeps the core supply (R30, R414). -/
def mainReleaseStep (clks : BitVec 12) (vsense : BitVec 16) (s : State) : State :=
  if !s.clk.mainRst || s.clk.backupRst || !s.clk.pok then s
  else
    let c := s.clk
    let s1 := s.setClk { c with
      mainRst := false, rstPin := false, clks := clks &&& 0xFEF, sensed := vsense, tb := c.tbLoad, tbEdge := c.tbLoad, acc := c.lf * 37 % 64 }
    let (r, s3) := s1.resumeLowering.optionLoad
    let s4 := s3.morGenesis.replay
    let s5 := if 0 < s4.bk.lost then s4.offer 0x0704 0 (BitVec.ofNat 32 s4.bk.lost) 0 0 else s4
    let s6 := iter (fun n s => s.sendPads n s.clk.tb (List.range 24) true) 16 s5
    (iter leaveRst 16 (s6.loadReports s.resumes r)).startBoot
def execMainResetRelease (clks : BitVec 12) (s : State) (vsense : BitVec 16 := 0xFFFF) : Out := .next (mainReleaseStep clks vsense s)

/-! ## SPAN[n] reset (R29, R32, R84, R257, R313) -/

/-- R257: the bytes of a transaction that the port of Span n still holds. -/
def heldOf (n t id : Nat) (l : List HashSeg) : Nat := heldBytes n t (l.filter fun g => g.txn == id)

/-- R255: of the transactions that have ended, those with no byte are discarded. -/
def Meas.dropEmpty (m : Meas) : Meas := { m with txns := dropIf (fun y => y.ended && y.data.isEmpty) m.txns }

/-- R255, R257: the transactions whose bytes a Span's hash stream port holds lose them and end; one left with no byte is discarded. -/
def State.dropHash (s : State) (n : Nat) : State :=
  let s1 := s.meas.txns.foldl (fun s x =>
    let k := heldOf n s.clk.tb x.id s.meas.segs
    if k = 0 then s
    else (s.dropBytes { x with data := x.data.take (x.data.length - k) } k).endTxns s.clk.tb fun y => y.id == x.id) s
  s1.setMeas ({ s1.meas with segs := dropIf (fun g => g.span == n) s1.meas.segs } : Meas).dropEmpty

/-- R313: the Firn lock is freed where a thread of the Span holds it. -/
def State.freeLock (s : State) (n : Nat) : State :=
  let h := s.frz.holder
  if 0x100 ≤ h ∧ h < 0x200 ∧ (h - 0x100) / 16 = n then
    (s.setFrz { s.frz with holder := 0 }).offer 0x010A (objWord 1 n (h % 16)) 0 0 0
  else s

/-- R29, R230: a word of the window of a Span that a SPAN[n] reset keeps: live instruction memory, pin multiplexer and pad setup. -/
def keptWord (o : Nat) : Bool := (Nat.ble 0x4000 o && Nat.blt o 0x7000) || (Nat.ble 0x7400 o && Nat.blt o 0x7580) || o == 0x124

/-- R29, R169: what a channel end keeps: released words, and messages on their way to another node. -/
def End.reset (e : End) : End :=
  { ({} : End) with
    store := e.store
    sent := e.sent
    credits := e.credits }

/-- R29: the core of a Span in reset. -/
def Core.reset (c : Core) (tb : Nat) : Core :=
  { ({} : Core) with
    rstEnd := some (tb + 16)
    epoch := c.epoch + 1
    tbSeen := c.tbSeen
    wiping := c.wiping
    detFrom := c.detFrom
    cycles := c.cycles
    members := c.members
    secret := c.secret }

/-- R230: the pin logic of a bank: the pairs at 0, direct writes in the crossing discarded, the Rime sequence at 0. -/
def Bank.reset (b : Bank) : Bank :=
  { b with gv := 0, ge := 0, cv := 0, ce := 0, direct := [], rimeSeq := 0, rimeFails := 0, rimeTick := 0 }

/-- R29: the units of Span n return to their reset values. -/
def State.clearSpan (s : State) (n : Nat) : State :=
  let at_ (w : Nat) (k : Nat) : Bool := k / w == n
  { s with
    regs := tabDrop (fun o => at_ 0x10000 (o - 0x100000) && Nat.ble 0x100000 o && !keptWord (o % 0x10000)) s.regs
    cores := tabSet {} s.cores n ((s.core n).reset s.clk.tb)
    threads := tabDrop (at_ 16) s.threads
    ports := tabDrop (at_ 32) s.ports
    ends := tabMap {} (at_ 128) End.reset s.ends
    engines := tabMap {} (at_ 12) (fun g => { ({} : Engine) with ibank := g.ibank }) s.engines
    chans := tabDrop (at_ 48) s.chans
    banks := tabSet {} s.banks n (s.bank n).reset
    timers := tabDrop (at_ 8) s.timers
    gd := { s.gd with slices := tabDrop (fun k => k == n) s.gd.slices } }

/-- SPAN[n] reset is asserted for 16 ticks; one that is in force lasts 16 ticks from now, or until MAIN reset where R413 holds it. -/
def State.spanReset (s : State) (n : Nat) : State :=
  if (s.core n).inRst then s.setCore n { s.core n with rstEnd := (s.core n).rstEnd.map fun _ => s.clk.tb + 16 }
  else
    let s1 := (((s.drainAll n).dropHash n).endTxns s.clk.tb fun x => x.n == n).freeLock n
    (s1.clearSpan n).keepAfter s1 n s.clk.tb

/-- R32, R464: a SPAN[n] reset is requested; for Span 0 before the boot is done it is a MAIN reset. -/
def State.askSpanReset (s : State) (n : Nat) : State := if n = 0 ∧ s.boot.done = false then s.mainReset 7 else s.spanReset n

/-- A write of SPAN_RST. -/
def spanRstWrite (mask : BitVec 16) (s : State) : State :=
  if mask.getLsbD 0 && !s.boot.done then s.mainReset 7
  else iter (fun n s => if mask.getLsbD n then s.spanReset n else s) 16 s
def execSpanResetPulse (mask : BitVec 16) (s : State) : Out := .next (if s.clk.mainRst then s else spanRstWrite mask s)

/-- R32, R321: Span n leaves its reset, and engines that a Freeze has set to run start. -/
def spanReleaseStep (n : Nat) (s : State) : State :=
  match (s.core n).rstEnd with
  | none => s
  | some t =>
    if s.clk.tb < t then s
    else
      let s1 := leaveRst n s
      let s2 := if s1.spanEn n then iter (startEngine n) 12 s1 else s1
      if n = 0 then s2.startBoot else s2
def execSpanResetRelease (n : Fin 16) (s : State) : Out := .next (if s.clk.mainRst then s else spanReleaseStep n s)

/-! ## SLEEP (R33, R34) -/

/-- R34: an enabled Span is quiet. -/
def State.spanQuiet (s : State) (n : Nat) : Bool :=
  (List.range 16).all (fun t => let th := s.thr (n * 16 + t); th.st == .idle || th.st == .halted)
    && (List.range 32).all (fun p => (s.port (n * 32 + p)).queue.isEmpty)
    && (List.range 48).all fun q => !s.chnEn n (q / 4) (q % 4)

/-- R282: a command counts as accepted; a CDT_RECV does once it has taken a message. -/
def Cmd.accepted (c : Cmd) : Bool := c.opcode != 0x11 || decide (0 < c.items)

/-- R34, R321: SLEEP may be entered: every enabled Span is quiet, no session has an accepted command that is not completed, and no
Freeze runs. -/
def State.mayOnSleep (s : State) : Bool :=
  (List.range 16).all (fun n => !s.spanEn n || s.spanQuiet n) && s.host.sess.all (fun x => !x.2.cmds.any Cmd.accepted)
    && s.frz.st == .idle

/-- A write of 1 to PWR_CTRL.SLEEP_REQ. -/
def sleepReqStep (s : State) : State :=
  if s.clk.sleeping then s
  else if s.mayOnSleep then s.setClk { s.clk with
    sleeping := true
    sleepDeny := false }
  else s.setClk { s.clk with sleepDeny := true }
def execSleepReq (s : State) : Out := .next (if s.clk.mainRst then s else sleepReqStep s)

/-- R34: wake_i ends SLEEP. -/
def execWake (s : State) : Out := .next (if s.clk.mainRst then s else s.endSleep)

/-! ## LF mode (R330, R331) -/

/-- R331: a cause of LF mode stands: SLEEP, or a whole-device halt that no resume ends. -/
def State.lfCause (s : State) : Bool := s.clk.sleeping || (s.dbg.devHalt && !s.dbg.resuming)

/-- R42: CLK_STS0 at an LF edge: the clocks that have shown present, as the surroundings know it. Outside LF mode the TB bit is judged
by the ticks of the last LF period; the DBG bit stays as TCK has set it. SLEEP waits no longer for a domain that shows present (R34). -/
def Clk.seen (c : Clk) (clks : BitVec 12) : Clk :=
  let d := (c.tb + 2 ^ 64 - c.tbEdge) % 2 ^ 64
  let tb : BitVec 12 := if c.lfMode then clks &&& 1 else if 30200 ≤ d ∧ d ≤ 30840 then 1 else 0
  let now := clks &&& 0xFEE ||| c.clks &&& 0x10 ||| tb
  { c with
    clks := now
    tbEdge := c.tb
    awaits := if c.sleeping then c.awaits else c.awaits &&& ~~~now }

/-- R331: an LF edge is one at which TB leaves LF mode. -/
def State.lfLeaves (s : State) (clks : BitVec 12) : Bool := s.clk.lfMode && !s.lfCause && clks.getLsbD 0

/-- R330: the step of the present LF edge. -/
def Clk.lfStep (c : Clk) : Nat := if 64 ≤ c.acc + 37 then 30518 else 30517

/-- R330: an LF edge: the LF count and ACC. -/
def Clk.edge (c : Clk) : Clk := { c with
  lf := (c.lf + 1) % 2 ^ 48
  acc := (c.acc + 37) % 64 }

/-- R330, R458: an LF edge outside LF mode. While BACKUP reset is asserted LF stands, and the second edge ends it. -/
def lfEdgeStep (clks : BitVec 12) (s : State) : State :=
  let c := s.clk
  if c.backupRst then s.setClk { c with
    backupEdges := c.backupEdges + 1
    backupRst := decide (c.backupEdges + 1 < 2) }
  else if c.mainRst then s.setClk { c with lf := (c.lf + 1) % 2 ^ 48 }
  else if c.lfMode || s.lfCause then s
  else s.setClk (c.seen clks).edge
def execLfEdge (s : State) (clks : BitVec 12 := 0xFFF) : Out := .next (lfEdgeStep clks s)

/-- R331: the LF edge at which TB enters LF mode. From it on the surroundings may stop the clocks of TB, SYS, FLS and SIG, and with TB
that of ALM; issue resumes only once those that ran show present again (R34). -/
def lfEntryStep (clks : BitVec 12) (s : State) : State :=
  if s.clk.mainRst || s.clk.lfMode || !s.lfCause then s
  else
    let c := (s.clk.seen clks).edge
    (s.setTimeOk false).setClk { c with
      lfMode := true
      awaits := if c.sleeping then c.clks &&& 0x6D else c.awaits
      lfDebug := !c.sleeping
      lfEntries := satInc 0xFFFF c.lfEntries
      sleepAck := c.sleeping }
def execLfModeEntry (s : State) (clks : BitVec 12 := 0xFFF) : Out := .next (lfEntryStep clks s)

/-- R331, R337: TB takes the step of an LF edge, and the timers every increment in it. -/
def State.lfAdvance (s : State) (clks : BitVec 12) : State :=
  let d := s.clk.lfStep
  let tb := (s.clk.tb + d) % 2 ^ 64
  let s1 := s.setClk { (s.clk.seen clks).edge with tb := tb, tbEdge := tb }
  s1.tmCatchAll d

/-- R331: an LF edge in LF mode. -/
def lfStep (clks : BitVec 12) (s : State) : State :=
  if s.clk.mainRst || !s.clk.lfMode || s.lfLeaves clks then s else s.lfAdvance clks
def execLfModeStep (s : State) (clks : BitVec 12 := 0xFFF) : Out := .next (lfStep clks s)

/-- R443: an engine goes on with its first step whose instant is not past. -/
def skipSteps (n e : Nat) (s : State) : State :=
  let g := s.engine (n * 12 + e)
  let div := s.fld (ceOff n e + 4) 0 24
  if !g.running || s.stepAt n e ≥ 256 * s.clk.tb || div = 0 then s
  else s.setEngine (n * 12 + e) { g with k := (256 * (s.clk.tb - g.origin) + div - 1) / div }

/-- R68: an entry whose effective key has passed is late; its key and those behind it are taken anew. The key of an entry whose key passed
in a whole-device halt is the second tick after TB at the resume (DESIGN CHOICE, log entry 46: the spec gives no such key). -/
def rekey (tb : Nat) : List TqEnt → TPort → TPort
  | [], p => p
  | e :: r, p =>
    let (k, i, late) := if e.ktick ≤ tb then effKey p e tb else (max e.ktick p.ktick, if e.ktick < p.ktick then p.keighth else e.keighth,
      e.late || decide (e.ktick < p.ktick))
    rekey tb r { p with
      ktick := k
      keighth := i
      queue := p.queue ++ [{ e with ktick := k, keighth := i, late := late }] }

/-- R68: the queues of a Span at the resume. -/
def lateQueues (k : Nat) (s : State) : State :=
  let p := s.port k
  if p.queue.any fun e => decide (e.ktick ≤ s.clk.tb) then s.setPort k (rekey s.clk.tb p.queue { p with
    queue := []
    ktick := 0
    keighth := 0 })
  else s

/-- R342: capture starts again with an empty history. -/
def State.clearHist (s : State) : State := { s with timers := tabMap {} (fun _ => true) (fun t => { t with hist := [], lastSmp := s.clk.tb }) s.timers }

/-- R443: every engine goes on at its first step that is not past. -/
def State.skipAll (s : State) : State := iter (fun q s => skipSteps (q / 12) (q % 12) s) 192 s

/-- R443: a whole-device halt that was resumed ends. -/
def State.endDevHalt (s : State) : State :=
  let s1 := iter lateQueues 512 s
  ({ s1 with dbg := { s1.dbg with devHalt := false, resuming := false } }).dbgEnd 0

/-- R331, R443: TB leaves LF mode; engines and timed queues go on from here, and a whole-device halt that was resumed ends. -/
def State.leaveLf (s : State) : State :=
  let s1 := (s.setClk { s.clk with
    lfMode := false
    lfDebug := false }).skipAll
  let s2 := s1.clearHist
  if s2.dbg.resuming then s2.endDevHalt else s2

/-- R331: the LF edge at which TB leaves LF mode adds its step. -/
def lfExitStep (clks : BitVec 12) (s : State) : State := if s.clk.mainRst || !s.lfLeaves clks then s else (s.lfAdvance clks).leaveLf
def execLfModeExit (s : State) (clks : BitVec 12 := 0xFFF) : Out := .next (lfExitStep clks s)

end Sys2Proof.Machine
end

