-- ==== Sys2Proof/Machine/Alarm.lean ====
section
/-! DEFINITION. Alarm inputs and their responses (R415 to R424), Avalanche (R421, R422) and the backup domain (R425 to R429). -/
namespace Sys2Proof.Machine

def State.setAlm (s : State) (a : Alm) : State := { s with alm := a }
def State.alarm (s : State) (k : Nat) : Alarm := tabGet {} s.alm.alarms k
def State.setAlarm (s : State) (k : Nat) (a : Alarm) : State := s.setAlm { s.alm with alarms := tabSet {} s.alm.alarms k a }
def State.setBk (s : State) (b : Bkup) : State := { s with bk := b }

/-- The offset of ALM_CFG of an alarm; ALM_WIN, ALM_RESP and ALM_STS follow. -/
def almOff (k : Nat) : Nat := 0x70000 + 0x10 * k

/-! ## The backup ring (R426 to R428) -/

/-- R427: an entry is written to the backup ring. -/
def Bkup.put (b : Bkup) (lf b6 b7 arg : Nat) : Bkup :=
  let full := 32 ≤ (b.head + 65536 - b.ack) % 65536
  let q := if full then (b.head + 65535) % 65536 else b.head
  let e := BitVec.ofNat 128 (lf % 2 ^ 48 + b6 * 2 ^ 48 + b7 * 2 ^ 56 + q * 2 ^ 64 + b.lost * 2 ^ 80 + arg * 2 ^ 96)
  { b with
    ring := tabSet 0 b.ring (q % 32) e
    head := if full then b.head else (b.head + 1) % 65536
    lost := if full then satInc 0xFFFF b.lost else b.lost }

/-- R425: the backup copy of an alarm's latch. -/
def Bkup.latched (b : Bkup) (b6 : Nat) : Bkup := if b6 / 16 = 1 then { b with latch := setBits b.latch (b6 % 8) 1 1 } else b

/-- R417, R427: the oldest entry on its way reaches the ring. -/
def backupWriteStep (s : State) : State := match s.bk.queue with
  | [] => s
  | (lf, b6, b7, arg) :: r => s.setBk (({ s.bk with queue := r }.put lf b6 b7 arg).latched b6)
def execBackupRingWrite (s : State) : Out := .next (if s.clk.backupRst then s else backupWriteStep s)

/-- R428: a write of BK_ACK: up to the value, counted from the present BK_ACK, but not beyond BK_HEAD (log entry 10). -/
def bkAckWrite (v : Word) (s : State) : State :=
  let b := s.bk
  let d := (bits v 0 16 + 65536 - b.ack) % 65536
  let open_ := (b.head + 65536 - b.ack) % 65536
  s.setBk { b with
    ack := (b.ack + min d open_) % 65536
    lost := 0 }
def execBkAck (v : Word) (s : State) : Out := .next (if s.clk.mainRst then s else bkAckWrite v s)

/-! ## Avalanche (R421, R422) -/

/-- The pages of Span n that a wipe clears. -/
def State.wipePages (s : State) (all : Bool) (n : Nat) : BitVec 64 := if all then BitVec.allOnes 64 else (s.core n).secret

/-- R421: the banks of a set of pages. -/
def pageBanks (p : BitVec 64) : BitVec 8 :=
  BitVec.ofNat 8 (((List.range 8).map fun b => b2n (bits p (8 * b) 8 != 0) * 2 ^ b).sum)

/-- R421: the pages of Span n are wiped: their bytes are zeros with a good code, and store-buffer entries for them are discarded; a
request of a deterministic thread that waits for one of their banks waits for the wipe. -/
def wipeSpan (all : Bool) (n : Nat) (s : State) : State :=
  let p := s.wipePages all n
  let hit (a : Nat) : Bool := p.getLsbD (a / 0x4000 % 64)
  let c := s.core n
  let waits := (findBelow 16 fun t => s.det n t && match (s.thr (n * 16 + t)).retry with
    | some q => (pageBanks p).getLsbD q.bank
    | none => false).isSome
  { s with
    mem := tabDrop (fun k => k / 2 ^ 20 == n && hit k) s.mem
    upset := tabDrop (fun k => Nat.ble (n * 2 ^ 17) k && Nat.blt k ((n + 1) * 2 ^ 17) && hit (8 * k)) s.upset
    cores := tabSet {} s.cores n { c with
      sb := dropIf (fun e => hit (8 * e.gran)) c.sb
      hist := dropIf (fun e => hit e.2.1) c.hist
      wiping := c.wiping ||| pageBanks p
      detFrom := if waits then some (min c.round (c.detFrom.getD c.round)) else c.detFrom } }

/-- R421: the pages a wipe takes in all. -/
def State.pageCount (s : State) (all : Bool) : Nat :=
  ((List.range 16).map fun n => countBelow (fun p => (s.wipePages all n).getLsbD p) 64).sum

/-- R265, R421: Avalanche abandons a signature in progress. -/
def State.abandonSign (s : State) : State := match s.meas.queue with
  | r :: _ =>
    if s.meas.closing && s.meas.ring.isNone then
      s.signLoss r.seq
    else s
  | [] => s

/-- R421: the keys are cleared and key_erase_o rises. -/
def State.clearKeys (s : State) : State :=
  let s1 := s.abandonSign
  s1.setAlm { s1.alm with
    keysOff := true
    keyErase := some (s.clk.lf + 4) }

/-- R421, R422: Avalanche, counted from the latch tick l; `all` also wipes every page. One that another latch has begun goes on. -/
def State.avalanche (s : State) (l : Nat) (all begun : Bool) : State :=
  let s1 := if begun then s else s.clearKeys
  let l0 := match s1.alm.wipe with
    | some w => w.l
    | none => l
  let s2 := s1.setAlm { s1.alm with wipe := some { l := l0, all := all, pages := s1.pageCount all } }
  iter (wipeSpan all) 16 s2

/-- R421, R449: the LOSS entry of a Span whose deterministic thread waited, with its longest wait in rounds. -/
def wipeLoss (n : Nat) (s : State) : State :=
  let c := s.core n
  let s1 := match c.detFrom with
    | some r => s.offerEntry (lossEntry s.clk.tb (objWord 0 n 0) 1 4 1 83 (c.round - r))
    | none => s
  s1.setCore n { s1.core n with
    wiping := 0
    detFrom := none }

/-- R421, R422: the last page wipe ends. -/
def wipeDoneStep (s : State) : State := match s.alm.wipe with
  | none => s
  | some w =>
    let s1 := (iter wipeLoss 16 (s.setAlm { s.alm with wipe := none })).offer 0x0703 0 (BitVec.ofNat 32 w.pages)
      (BitVec.ofNat 32 (s.clk.tb - w.l)) 0
    if w.all then s1.mainReset 4 else s1
def execWipeDone (s : State) : Out := .next (if s.clk.mainRst then s else wipeDoneStep s)

/-- R421, R429: key_erase_o falls 4 LF periods after it rose. -/
def keyEraseStep (s : State) : State := match s.alm.keyErase with
  | some t => if t ≤ s.clk.lf then s.setAlm { s.alm with keyErase := none } else s
  | none => s
def execKeyEraseEnd (s : State) : Out := .next (keyEraseStep s)

/-! ## Latches and responses (R416 to R420) -/

/-- R418: the ALARM event of one thread: one pending bit, whose detail is the lowest alarm. -/
def alarmEvent (k g : Nat) (s : State) : State :=
  let th := s.thr g
  let low := (th.pend.filter fun p => p.1 == 0x14).foldl (fun m p => min m p.2) k
  let s1 := s.setThr g { th with pend := dropIf (fun p => p.1 == 0x14) th.pend }
  s1.raiseEv g 0x14 low

/-- R418: NOTIFY. -/
def State.notifyAll (s : State) (k : Nat) : State :=
  iter (fun g s => if s.spanEn (g / 16) then alarmEvent k g s else s) 256 s

/-- R418, R424: HALT_THREADS for one thread: stopped, or, where the debugger holds it, stopped at its resume. -/
def haltOne (g : Nat) (s : State) : State :=
  let th := s.thr g
  if th.st = .operate then s.stopThr (g / 16) (g % 16)
  else if th.st = .halted ∧ th.haltCause = 1 ∧ th.before = .operate then s.setThr g { th with
    before := .idle
    prev := .operate
    wakeable := false }
  else s

/-- R419: another alarm that stands latched has started an action. -/
def State.actStands (s : State) (k bit : Nat) : Bool :=
  (List.range 8).any fun j => j != k && (s.alarm j).latched && (s.alarm j).mask.getLsbD bit

/-- R418 to R422: the actions of a mask for alarm k, latched at `l`. -/
def State.respond (s : State) (k l : Nat) (mask : BitVec 4) : State :=
  let s1 := if mask.getLsbD 0 then s.notifyAll k else s
  let s2 := if mask.getLsbD 1 && !s.actStands k 1 then iter haltOne 256 s1 else s1
  let all := match s2.alm.wipe with
    | some w => w.all
    | none => false
  let begun := s2.alm.wipe.isSome || s2.actStands k 2 || s2.actStands k 3
  if mask.getLsbD 3 then (if all then s2 else s2.avalanche l true begun)
  else if mask.getLsbD 2 && !begun then s2.avalanche l false false
  else s2

/-- R417: alarm k latches at the present tick. -/
def State.latchAlarm (s : State) (k : Nat) : State :=
  let l := s.clk.tb
  let n := s.fld (almOff k) 16 8
  let mask : BitVec 4 := (s.reg (almOff k + 8)).truncate 4
  let a := s.alarm k
  let kill := mask.getLsbD 2 || mask.getLsbD 3
  let s1 := s.setAlarm k { a with
    latched := true
    latches := satInc 0xFFFF a.latches
    mask := mask }
  let s2 := s1.setBk { s1.bk with
    queue := s1.bk.queue ++ [(s.clk.lf, 0x10 + k, 2 * b2n kill + 4 * b2n (mask.getLsbD 3), mask.toNat + n * 256)] }
  let s3 := s2.offerAt l 0x0701 0 (BitVec.ofNat 32 k) (mask.zeroExtend 32) (BitVec.ofNat 32 n)
  (s3.endSleep).respond k l mask

/-- R416: the windowed filter of an enabled alarm at a sample. -/
def filterSample (k : Nat) (ev : Bool) (s : State) : State :=
  let t := s.clk.tb
  let w := s.fld (almOff k + 4) 3 21 * 8
  let n := max 1 (s.fld (almOff k) 16 8)
  let a0 := s.alarm k
  let a := if a0.opened && decide (a0.start + w ≤ t) then { a0 with opened := false, count := 0 } else a0
  if !ev then s.setAlarm k a
  else
    let b := if a.opened then a else { a with opened := true, start := t, count := 0 }
    let c := { b with count := b.count + 1 }
    let s1 := s.setAlarm k c
    if decide (n ≤ c.count) && !c.latched then s1.latchAlarm k else s1

/-- R424: the alarm is under test. -/
def State.underTest (s : State) (k : Nat) : Bool := match s.alm.test with
  | some (j, _) => j == k
  | none => false

/-- R416, R424: one input at a sample. -/
def sampleOne (levels : BitVec 8) (k : Nat) (s : State) : State :=
  if s.clk.mainRst then s
  else if s.underTest k then (if levels.getLsbD k then s.setAlarm k { s.alarm k with pass := true } else s)
  else if s.bit (almOff k) 31 then filterSample k (levels.getLsbD k) s
  else s

/-- R416: what names a sample: the tick, or in LF mode the LF count. -/
def State.sampleKey (s : State) : Nat := if s.clk.lfMode then 2 * s.clk.lf + 1 else 2 * s.clk.tb

/-- R416: the inputs are sampled, where a sample is due. -/
def alarmSampleStep (levels : BitVec 8) (s : State) : State :=
  if s.clk.mainRst || s.alm.lastSmp == some s.sampleKey || (!s.clk.lfMode && s.clk.tb % 8 != 0) then s
  else iter (sampleOne levels) 8 (s.setAlm { s.alm with lastSmp := some s.sampleKey })
def execAlarmSample (levels : BitVec 8) (s : State) : Out := .next (alarmSampleStep levels s)

/-- R416: the filter is cleared. -/
def Alarm.clearFilter (a : Alarm) : Alarm := { a with opened := false, count := 0 }

/-- R416: LATCHED is cleared. -/
def alarmClearStep (k : Nat) (s : State) : State :=
  let a := s.alarm k
  s.setAlarm k { a.clearFilter with latched := false }
def execAlarmClear (k : Fin 8) (s : State) : Out := .next (if s.clk.mainRst then s else alarmClearStep k s)

/-! ## Tests and the lock (R423, R424) -/

/-- A write of ALM_TEST. -/
def almTestWrite (v : Word) (s : State) : State :=
  let k := bits v 0 3
  let s1 := s.setReg 0x70104 (BitVec.ofNat 32 k)
  if v.getLsbD 31 && s.alm.test.isNone then
    (s1.setAlarm k { s1.alarm k with pass := false }).setAlm
      { (s1.setAlarm k { s1.alarm k with pass := false }).alm with test := some (k, s.clk.tb) }
  else s1
def execAlarmTest (v : Word) (s : State) : Out := .next (if s.clk.mainRst then s else almTestWrite v s)

/-- R424: a test ends 1,280 ticks after it started. -/
def almTestEndStep (s : State) : State := match s.alm.test with
  | none => s
  | some (k, t) =>
    if s.clk.tb < t + 1280 then s
    else
      let a := s.alarm k
      let s1 := s.setAlarm k a.clearFilter
      (s1.setAlm { s1.alm with test := none }).offer 0x0702 0 (BitVec.ofNat 32 k) (BitVec.ofNat 32 (b2n a.pass)) 0
def execAlarmTestEnd (s : State) : Out := .next (if s.clk.mainRst then s else almTestEndStep s)

/-- R423: a write of ALM_CFG, ALM_WIN or ALM_RESP. -/
def almCfgWrite (src : Src) (off : Nat) (v : Word) (s : State) : State :=
  if s.bit 0x70100 31 then s.offer 0x0705 0 (BitVec.ofNat 32 off) v 0 else s.plainWrite src off v

/-- ALM_STS of an alarm. -/
def State.almSts (s : State) (k : Nat) : Word :=
  let a := s.alarm k
  BitVec.ofNat 32 (2 ^ 31 * b2n a.latched + 2 ^ 30 * b2n (s.underTest k) + 2 ^ 29 * b2n a.pass + 2 ^ 16 * min 255 a.count + a.latches)

/-! ## Backup watch (R429) -/

/-- R429: alarm k latches on backup. N of its ring entry is open (log entry 11). -/
def State.backupLatch (s : State) (k : Nat) : State :=
  let n := bits s.free 0 8
  let s1 := s.drawn
  let b := ({ s1.bk with latch := setBits s1.bk.latch k 1 1 } : Bkup).put s1.clk.lf (0x10 + k) 3 (n * 256)
  (s1.setBk b).setAlm { s1.alm with keyErase := some (s1.clk.lf + 4) }

/-- R429: the samples of an LF edge with main_pok_i low. -/
def backupSampleStep (levels : BitVec 8) (s : State) : State :=
  if s.clk.pok || s.clk.backupRst || s.bk.smpAt == some s.clk.lf then s
  else
    let s1 := iter (fun k s =>
      if s.bk.almen.getLsbD k && s.bk.prev.getLsbD k && levels.getLsbD k && !s.bk.latch.getLsbD k then s.backupLatch k else s) 8 s
    s1.setBk { s1.bk with
      prev := levels
      smpAt := some s.clk.lf }
def execBackupAlarmSample (levels : BitVec 8) (s : State) : Out := .next (backupSampleStep levels s)

end Sys2Proof.Machine
end

