-- ==== Sys2Proof/Machine/CascFreeze.lean ====
section
/-! DEFINITION. The cascade Freeze (R322, R388 to R391): votes, drain, decision and abort on the master and on a member. -/
namespace Sys2Proof.Machine

/-- R370: a CFRZ frame up or down a port. -/
def State.sendCf (s : State) (p sub : Nat) (yes : Bool) (z : CFrz) (tick node code : Nat) : State :=
  s.enqueue p (s.frame 9 (s.lport p).far (sub * 2 ^ 27 + b2n yes * 2 ^ 26 + z.id * 2 ^ 10)
    ([dw tick, dw (node + code * 2 ^ 16 + b2n z.drain * 2 ^ 32 + z.limitD * 2 ^ 40)]
      ++ (if sub = 0 then [dw (z.vlim + z.lead * 2 ^ 24)] else [])))

/-- A CFRZ frame down every DOWNSTREAM port. -/
def State.cfDown (s : State) (sub : Nat) (z : CFrz) (tick node code : Nat) : State :=
  s.downPorts.foldl (fun s p => s.sendCf p sub true z tick node code) s

def State.setCf (s : State) (z : CFrz) : State := s.setCasc { s.casc with frz := some z }

/-- R389, R391: the node's part of a cascade Freeze is aborted. -/
def State.cascAbortHere (s : State) (z : CFrz) (code node : Nat) : State :=
  let s1 := ((s.setCasc { s.casc with frz := none, cfNode := node }).frzAbort code (objWord 0xA 0 node)).cascEntry 0x0809 node z.id code node
  s1.setReg 0x50030 (s1.reg 0x50030 &&& 0x7FFFFFFF)

/-- R389: ABORT goes down the tree, and the node aborts. -/
def State.cascAbort (s : State) (z : CFrz) (code node : Nat) : State := (s.cfDown 5 z 0 node code).cascAbortHere z code node

/-- R389: the master commits at F. -/
def State.cascCommit (s : State) (z : CFrz) (f : Nat) : State := (s.cfDown 4 z f 0 0).frzArm f

/-- R389: every vote is yes, the last at V = TB: the master drains (R390) or chooses F. -/
def State.cascAllYes (s : State) (z : CFrz) : State :=
  let v := s.clk.tb
  if z.drain then
    let z1 := { z with f0 := some (v + z.lead), miss := s.downPorts, lastDrain := v }
    (s.setCf z1).cfDown 2 z1 (v + z.lead) 0 0
  else if s.frz.atF then
    let f := s.frzTick
    if f < v + z.lead ∨ z.at0 + 2 ^ 32 < f then (s.setFrz { s.frz with tick := f }).cascAbort z 0x0103 s.casc.node
    else s.cascCommit z f
  else s.cascCommit z (max (z.at0 + 256) (v + z.lead))

/-- R388, R389: once every vote below is known, the master decides, and a member sends its vote up. -/
def State.cascVotes (s : State) (z : CFrz) : State :=
  if z.miss ≠ [] ∨ z.own.isNone ∨ z.voted ∨ z.f0.isSome then s
  else match z.up, z.no with
    | none, some (node, _) => s.cascAbort z 0x0910 node
    | none, none => s.cascAllYes { z with lastVote := s.clk.tb }
    | some p, no =>
      let (node, code) := no.getD (0, 0)
      (s.setCf { z with voted := true }).sendCf p 1 no.isNone z 0 node code

/-- R388: the lowest node that voted no. -/
def mergeNo (a b : Option (Nat × Nat)) : Option (Nat × Nat) := match a, b with
  | some x, some y => some (if y.1 < x.1 then y else x)
  | some x, none => some x
  | none, y => y

/-- R388, R391: a cascade Freeze of this master is under way: from its COMMIT until STATE is IDLE again. -/
def State.cascBusy (s : State) : Bool := s.frz.st != .idle && s.frz.commit && s.frz.cascade && !s.frz.discard

/-- R388: CF_LEAD.LEAD. -/
def State.cfLead (s : State) : Nat := max 0x4000 (s.fld 0x50030 0 24)

/-- R388: the master sends PREPARE after its own check has passed. -/
def State.cascStart (s : State) : State :=
  let id := (s.casc.cfId + 1) % 65536
  let z : CFrz := { id := id, drain := s.frz.drain, limitD := s.drainLimit, vlim := s.fld 0x50034 0 24, lead := s.cfLead, at0 := s.clk.tb,
                    up := none, own := some true, miss := s.downPorts, lastVote := s.clk.tb }
  let s1 := (s.setCasc { s.casc with frz := some z, cfId := id, cfNode := 0 }).setFrz { s.frz with st := .voted }
  (s1.cfDown 0 z 0 0 0).cascVotes z

/-- R388, R319: the vote of a node that receives PREPARE: none is yes. A staged permafrost change ends the check of a cascade commit with
0x0803 (DEDUCED, log entry 49). -/
def State.cascVote (s : State) : Option Nat :=
  if s.frz.st ≠ .idle then some 0x0910
  else if !s.casc.timeOk then some 0x0911
  else if !s.bit 0x50030 31 then (if s.dirty = [] then none else some 0x0910)
  else match s.freezeBar with
    | some (code, _) => some code
    | none => if s.pfChanges = [] then none else some 0x0803

/-- R388: PREPARE is received on port p. A node whose controller is busy votes no and takes no part. -/
def cfPrepare (p : Nat) (f : Frame) (start : State) : State :=
  let s := if start.frz.st = .idle then start.readStaged else start
  let id := f.arg / 2 ^ 10 % 65536
  let v := s.cascVote
  let z : CFrz := { id := id, drain := (f.b 1).getLsbD 32, limitD := bits (f.b 1) 40 24, vlim := bits (f.b 2) 0 24,
                    lead := bits (f.b 2) 24 24, at0 := s.clk.tb, up := some p, own := some v.isNone,
                    no := v.map fun c => (s.casc.node, c), miss := s.downPorts }
  if s.frz.st ≠ .idle then s.sendCf p 1 false z 0 s.casc.node (v.getD 0)
  else
    let s1 := (s.setCasc { s.casc with frz := some z, cfId := id, cfNode := 0 }).setFrz { s.frz with st := .voted, who := .host }
    (s1.cfDown 0 z 0 0 0).cascVotes z

/-- The Freeze in progress that a CFRZ frame names. -/
def State.cfOf (s : State) (f : Frame) : Option CFrz := match s.casc.frz with
  | some z => if z.id = f.arg / 2 ^ 10 % 65536 then some z else none
  | none => none

/-- The far node of the first port whose answer is missing. -/
def State.missNode (s : State) (z : CFrz) : Nat := match z.miss with
  | p :: _ => (s.lport p).far
  | [] => s.casc.node

/-- R389, R390: tick `k` CF_VLIM.LIMITs after PREPARE, or after the drain's own limit. -/
def CFrz.limit (z : CFrz) (k : Nat) : Nat := match z.f0 with
  | none => z.at0 + k * z.vlim
  | some f => f + z.limitD + k * z.vlim

/-- R389, R390: the master waits for a vote or a DRAINED that has not come by its limit. -/
def State.cfMissed (s : State) (z : CFrz) (past : Nat) : Bool :=
  z.up.isNone && s.frz.st == .voted && Nat.ble (z.limit 1 + past) s.clk.tb

/-- R388, R389: VOTE is received on port p; on the master one after the limit is missing. -/
def cfVote (p : Nat) (f : Frame) (s : State) : State := match s.cfOf f with
  | none => s
  | some z =>
    if s.cfMissed z 1 then s.cascAbort z 0x0911 (s.missNode z)
    else
    let no := if f.arg.testBit 26 then z.no else mergeNo z.no (some (bits (f.b 1) 0 12, bits (f.b 1) 16 16))
    let z1 := { z with miss := dropIf (· == p) z.miss, no := no }
    let s1 := s.setCf z1
    match no with
    | some (node, _) => (s1.setCasc { s1.casc with cfNode := node }).cascVotes z1
    | none => s1.cascVotes z1

/-- R390: once the own channels are held and every DRAINED below is known, the master commits or aborts, and a member reports up. -/
def State.cascDrains (s : State) (z : CFrz) : State :=
  if z.miss ≠ [] ∨ (z.drained = false ∧ z.failed = none) then s
  else match z.up, z.failed with
    | none, some (node, _) => s.cascAbort z 0x0507 node
    | none, none => s.cascCommit z (s.clk.tb + z.lead)
    | some p, fl =>
      let (node, code) := fl.getD (0, 0)
      s.sendCf p 3 fl.isNone z 0 node code

/-- R390: DRAIN(F0) is received. -/
def cfDrain (f : Frame) (s : State) : State := match s.cfOf f with
  | none => s
  | some z =>
    let z1 := { z with f0 := some (f.b 0).toNat, miss := s.downPorts }
    (s.setCf z1).cfDown 2 z1 (f.b 0).toNat 0 0

/-- R390: DRAINED, or a failure, is received on port p; on the master one after the limit is missing. -/
def cfDrained (p : Nat) (f : Frame) (s : State) : State := match s.cfOf f with
  | none => s
  | some z =>
    if s.cfMissed z 1 then s.cascAbort z 0x0911 (s.missNode z)
    else
    let fl := if f.arg.testBit 26 then z.failed else mergeNo z.failed (some (bits (f.b 1) 0 12, bits (f.b 1) 16 16))
    let z1 := { z with miss := dropIf (· == p) z.miss, failed := fl }
    (s.setCf z1).cascDrains z1

/-- R389: COMMIT(F) is received. -/
def cfCommit (f : Frame) (s : State) : State := match s.cfOf f with
  | none => s
  | some z =>
    let t := (f.b 0).toNat
    if s.frz.st ≠ .voted then s
    else
      let s1 := s.cfDown 4 z t 0 0
      if s.clk.tb < t then s1.frzArm t
      else (s1.frzArm (s.clk.tb + 1)).cascEntry 0x080A s.casc.node z.id t (s.clk.tb + 1)

/-- R389: ABORT is received. -/
def cfAbort (f : Frame) (s : State) : State := match s.cfOf f with
  | none => s
  | some z => s.cascAbort z (bits (f.b 1) 16 16) (bits (f.b 1) 0 12)

/-- R389, R390: on the master a vote, or a DRAINED, is still missing at its limit. -/
def cfVoteLimit (s : State) : State := match s.casc.frz with
  | none => s
  | some z => if s.cfMissed z 0 then s.cascAbort z 0x0911 (s.missNode z) else s

/-- R389, R391: a member that voted yes has no decision at its limit. -/
def cfOrphan (s : State) : State := match s.casc.frz with
  | none => s
  | some z =>
    if z.up.isSome ∧ z.voted = true ∧ z.no = none ∧ s.frz.st = .voted ∧ z.limit 2 ≤ s.clk.tb then
      let s1 := (s.cascAbortHere z 0x0911 s.casc.node).cascEntry 0x080B s.casc.node z.id z.id 0
      s1.setCasc { s1.casc with orphan := some z.id }
    else s

/-- R390: in the drain phase of a cascade Freeze, from F0 on. -/
def State.cascDraining (s : State) (z : CFrz) : Bool := s.frz.st == .voted && !z.drained && z.failed.isNone && match z.f0 with
  | some f => decide (f ≤ s.clk.tb)
  | none => false

/-- R390: F0 + FREEZE_DRAIN_LIMIT. -/
def CFrz.drainEnd (z : CFrz) : Nat := z.f0.getD 0 + z.limitD

/-- R390: the node's waited channels are all held. -/
def cfOwnDrained (z : CFrz) (s : State) : State :=
  if s.cascDraining z && s.drainedNow && Nat.ble s.clk.tb z.drainEnd then
    let z1 := { z with drained := true }
    (s.setCf z1).cascDrains z1
  else s

/-- R390: the node's waited channels are not all held at F0 + FREEZE_DRAIN_LIMIT. -/
def cfOwnFailed (z : CFrz) (s : State) : State :=
  if s.cascDraining z && (if s.drainedNow then Nat.blt z.drainEnd s.clk.tb else Nat.ble z.drainEnd s.clk.tb) then
    let z1 := { z with failed := mergeNo z.failed (some (s.casc.node, 0x0507)) }
    (s.setCf z1).cascDrains z1
  else s

end Sys2Proof.Machine
end

