-- ==== Sys2Proof/Machine/HostPort.lean ====
section
/-! DEFINITION. The host interface: sessions and their states (R283, R302 to R305), doorbells and KICK (R274, R275), admission (R279 to
R281), responses and status entries (R273, R278) and notices (R300). -/
namespace Sys2Proof.Machine

/-! ## Sessions (R283) -/

/-- READY, OPEN or CLOSING. -/
def Ses.live (x : Ses) : Bool := x.st == .ready || x.st == .opened || x.st == .closing

/-- SES_STS.STATE. -/
def sesCode : SesState → Nat
  | .free => 0
  | .ready => 1
  | .opened => 2
  | .closing => 3
  | .faulted => 4
  | .quiescing => 5

/-- HI_CTL.EN. -/
def State.hiEn (s : State) : Bool := s.bit 0x20000 31

/-- The ORIGIN of a session (R327). -/
def sesObj (k : Nat) : Word := objWord 8 0 k

/-- R291: a conduit joins an end of this node. -/
def State.endHere (s : State) (c : Conduit) : Bool := c.kind == 0 || (c.kind == 3 && c.node == s.casc.node)

/-- R293: the HOST event of a conduit, in the owner of its end on this node, enabled or not (R292). -/
def State.hostEvent (s : State) (d : Nat) : State :=
  let c := s.cdt d
  if s.endHere c then s.raiseEv (c.span * 16 + bits (s.reg (cheOff c.span c.unit)) 20 4) 0x13 d else s

/-- R293: the conduits of a session become attached or detached. -/
def State.attachEvents (s : State) (k : Nat) : State :=
  s.host.cdts.foldl (fun s p => if p.2.bound && p.2.session == k then s.hostEvent p.1 else s) s

/-- R283: a session changes its state. -/
def State.moveSes (s : State) (k : Nat) (st : SesState) : State :=
  let x := s.ses k
  let s1 := s.setSes k { x with st := st }
  let s2 := if st = .faulted then s1.offer 0x0502 (sesObj k) (BitVec.ofNat 32 x.fault) 0 0
    else s1.offer 0x0501 (sesObj k) (BitVec.ofNat 32 (sesCode x.st)) (BitVec.ofNat 32 (sesCode st)) 0
  if (x.st == .opened) != (st == .opened) then s2.attachEvents k else s2

/-- R284, R302: of the commands of a session that stops, those that have started run to their end; posted receives are dropped. -/
def Ses.stopped (x : Ses) : Ses :=
  let l := x.cmds.filter fun c => c.started && c.opcode != 0x11
  { x with
    cmds := l
    rsv := (l.map (·.need)).sum
    ver := 0
    feat := 0 }

/-- R302: a live session faults with a code. -/
def State.faultSes (s : State) (k code : Nat) : State :=
  if !(s.ses k).live then s
  else
    let s1 := (s.setSes k { (s.ses k).stopped with fault := code }).moveSes k .faulted
    if k = 0 then s1.setHost { s1.host with adminFault := true }
    else s1.queueNotice { code := 0x8004, result := leBytes 2 k ++ leBytes 2 code, payload := [] }

/-! ## Host memory (R268, R273) -/

/-- Bytes written to host memory. -/
def State.hostPut (s : State) (a : Nat) (l : List Byte) : State :=
  s.setHost { s.host with mem := writeNat 0 l.length a (leNat l) s.host.mem }

/-- A base address in two registers. -/
def State.base64 (s : State) (off : Nat) : Nat := (s.reg off).toNat + (s.reg (off + 4)).toNat * 2 ^ 32

/-- R271: slots of the response and the command ring. -/
def State.rspSlots (s : State) (k : Nat) : Nat := 2 ^ s.fld (sesOff k) 16 5
def State.cmdSlots (s : State) (k : Nat) : Nat := 2 ^ s.fld (sesOff k) 8 5

/-- R271: the difference of two counts. -/
def cntSub (a b : Nat) : Nat := (a + 2 ^ 24 - b) % 2 ^ 24

/-- R273, R455: the status entry of a session, and the interrupt message that follows each write of it. The bridge takes every message
at once (DESIGN CHOICE, log entry 49), so that none is merged. -/
def State.putStatus (s : State) (k : Nat) : State :=
  let x := s.ses k
  let s1 := s.hostPut (s.base64 0x20010 + 16 * k) (leBytes 4 x.rtail ++ leBytes 4 x.chead ++ leBytes 8 s.clk.tb)
  if s.bit (sesOff k) 30 then s1.setHost { s1.host with irqs := s1.host.irqs ++ [k] } else s1

/-- Slots of a response, one after another from RTAIL on. -/
def State.putSlots (s : State) (k : Nat) : Nat → List Byte → State
  | 0, _ => s
  | f + 1, l =>
    let x := s.ses k
    let s1 := s.hostPut (s.base64 (sesOff k + 0x10) + x.rtail % s.rspSlots k * 64) ((l ++ leBytes 64 0).take 64)
    State.putSlots (s1.setSes k { s1.ses k with rtail := (x.rtail + 1) % 2 ^ 24 }) k f (l.drop 64)

/-- A response but for its addressing (R278). -/
structure Rsp where
  opcode : Nat
  flags : Nat := 0
  tag : Nat := 0
  status : Nat := 0
  conduit : Nat := 0
  parts : Nat := 0
  done : Nat := 0
  result : List Byte := []
  payload : List Byte := []
  deriving DecidableEq, Repr

/-- R276: the slots of a packet. -/
def slotsOf (plen : Nat) : Nat := 1 + (plen + 63) / 64

/-- R278: the bytes of a response of session k. -/
def State.rspBytes (s : State) (k : Nat) (r : Rsp) : List Byte :=
  leBytes 2 r.opcode ++ leBytes 1 (slotsOf r.payload.length) ++ leBytes 1 r.flags ++ leBytes 4 r.tag ++ leBytes 2 r.payload.length
    ++ leBytes 2 r.status ++ leBytes 2 r.conduit ++ leBytes 2 0
    ++ leBytes 8 (if (s.ses k).feat.testBit 10 then s.clk.tb else 0) ++ leBytes 2 r.parts ++ leBytes 2 r.done
    ++ (r.result ++ leBytes 36 0).take 36 ++ r.payload

/-- R273, R281, R302: a response is written, where its session still takes one. -/
def State.putRsp (s : State) (k : Nat) (r : Rsp) : State :=
  if (s.ses k).live then (s.putSlots k (slotsOf r.payload.length) (s.rspBytes k r)).putStatus k else s

/-! ## Completion (R280) -/

/-- Command i of session k is complete: its response is written and its reservation ends. -/
def State.complete (s : State) (k i : Nat) (r : Rsp) : State :=
  let x := s.ses k
  match x.cmds[i]? with
  | none => s
  | some c =>
    let s1 := s.putRsp k { r with
      opcode := c.opcode
      tag := c.tag
      conduit := c.conduit }
    let y := s1.ses k
    s1.setSes k { y with
      cmds := y.cmds.eraseIdx i
      rsv := y.rsv - c.need }

/-- R286: a command fails. -/
def State.failCmd (s : State) (k i code : Nat) : State :=
  s.complete k i { opcode := 0, status := code }

/-- The response to a CDT_RECV with what it has taken. -/
def Cmd.taken (c : Cmd) : Rsp :=
  { opcode := c.opcode, flags := 4 * b2n c.lost, result := leBytes 2 c.items, payload := c.data }

/-- Receives of session k that satisfy `p`, in posting order, complete: with 0x0706 where they hold nothing, else with their data.
Gives how many held nothing; at most `f` are taken. -/
def cancelRecvs (k : Nat) (p : Cmd → Bool) (withData : Bool) : Nat → State → Nat × State
  | 0, s => (0, s)
  | f + 1, s =>
    match (s.ses k).cmds.findIdx? fun c => c.opcode == 0x11 && c.started && p c && (withData || c.items == 0) with
    | none => (0, s)
    | some i =>
      match (s.ses k).cmds[i]? with
      | none => (0, s)
      | some c =>
        if c.items = 0 then
          let (n, s1) := cancelRecvs k p withData f (s.failCmd k i 0x0706)
          (n + 1, s1)
        else cancelRecvs k p withData f (s.complete k i c.taken)

/-- The receives of a session are cancelled (R284, R287, R294). -/
def State.cancelIn (s : State) (k : Nat) (p : Cmd → Bool) (withData : Bool) : Nat × State :=
  cancelRecvs k p withData (s.ses k).cmds.length s

/-- R281: the next command of a session to start, with its place; none while a FENCE holds it. -/
def State.nextCmd (s : State) (k : Nat) : Option (Nat × Cmd) :=
  let l := (s.ses k).cmds
  match l.findIdx? fun c => !c.started with
  | none => none
  | some i => match l[i]? with
    | some c => if c.flags.testBit 0 && i != 0 then none else some (i, c)
    | none => none

/-- R286: the opcodes. -/
def knownOp (o : Nat) : Bool := [0, 1, 2, 3, 0x10, 0x11, 0x20, 0x21, 0x30, 0x31, 0x32, 0x40, 0x41].contains o

/-- R294: a CDT_SEND is in progress on a conduit. -/
def State.sending (s : State) (d : Nat) : Bool :=
  s.host.sess.any fun x => x.2.cmds.any fun c => c.opcode == 0x10 && c.started && c.conduit == d

/-- R294: an enabled output end of KIND conduit names conduit `d`. -/
def State.endNames (s : State) (n e d : Nat) : Bool :=
  let cfg := s.reg (cheOff n e)
  cfg.getLsbD 31 && cfg.getLsbD 30 && cheKind cfg == 2 && bits (s.reg (cheOff n e + 4)) 0 12 == d

/-- R294: conduit d is unbound; an output end that still names it sets PEER_ERR. -/
def State.unbind (s : State) (d : Nat) : State :=
  let c := s.cdt d
  let s1 := (s.hostEvent d).setCdt d {}
  if s.endHere c && s1.endNames c.span c.unit d then s1.peerLost c.span c.unit 0 else s1

/-- R294: a CDT_UNBIND that waits for no CDT_SEND any more ends. -/
def State.endUnbind (s : State) (i : Nat) (c : Cmd) : State :=
  let d := c.conduit
  let (n, s1) := s.cancelIn (s.cdt d).session (fun x => x.conduit == d) true
  let j := ((s1.ses 0).cmds.findIdx? fun x => x.opcode == 0x21 && x.started && x.conduit == d).getD i
  (s1.complete 0 j { opcode := 0, result := leBytes 2 n }).unbind d

/-- What follows of itself in session k: a malformed command, or one whose opcode no one knows, is answered at its start (R279, R286);
a CDT_UNBIND ends (R294); a SESSION_CLOSE that is alone is answered (R284). -/
def settleSes (k : Nat) : Nat → State → State
  | 0, s => s
  | f + 1, s =>
    match s.nextCmd k with
    | some (i, c) =>
      if c.bad then settleSes k f (s.failCmd k i 0x0705)
      else if !knownOp c.opcode then settleSes k f (s.failCmd k i (if (s.ses k).st = .ready then 0x0702 else 0x0703))
      else s
    | none =>
      let l := (s.ses k).cmds
      match (if k = 0 then l.findIdx? fun c => c.opcode == 0x21 && c.started && !s.sending c.conduit else none) with
      | some i => (match l[i]? with
        | some c => settleSes k f (s.endUnbind i c)
        | none => s)
      | none => match l with
        | [c] =>
          if c.opcode = 2 ∧ c.started = true ∧ (s.ses k).st = .closing then
            let s1 := s.complete k 0 { opcode := 0 }
            (s1.setSes k { s1.ses k with
              ver := 0
              feat := 0 }).moveSes k .ready
          else s
        | _ => s

/-- What follows of itself in a session and in the admin session. -/
def State.hostSettle (s : State) (k : Nat) : State :=
  let s1 := settleSes k ((s.ses k).cmds.length + 1) s
  if k = 0 then s1 else settleSes 0 ((s1.ses 0).cmds.length + 1) s1

/-! ## Doorbells (R274, R275) -/

/-- A group with a session that is polled. -/
def State.groupLive (s : State) (g : Nat) : Bool := (List.range 8).any fun i => (s.ses (8 * g + i)).live

def State.group (s : State) (g : Nat) : Group := tabGet {} s.host.groups g
def State.setGroup (s : State) (g : Nat) (x : Group) : State := s.setHost { s.host with groups := tabSet {} s.host.groups g x }

/-- POLL_CFG. -/
def State.pollMin (s : State) : Nat := max 256 (s.fld 0x20018 0 16)
def State.pollMax (s : State) : Nat :=
  let l := s.fld 0x20018 16 5
  2 ^ (if 8 ≤ l ∧ l ≤ 20 then l else 16)

/-- R274: the group that has been due longest. -/
def State.dueGroup (s : State) : Option Nat :=
  (iter (fun g (b : Option (Nat × Nat)) =>
    let x := s.group g
    let t := x.since + x.interval
    if s.groupLive g && decide (t ≤ s.clk.tb) then
      match b with
      | some (t0, g0) => if t < t0 then some (t, g) else some (t0, g0)
      | none => some (t, g)
    else b) 128 none).map (·.2)

/-- R274, R275: the group whose line is read next. -/
def State.nextRead (s : State) : Option Nat := match s.host.kicks.filter s.groupLive with
  | g :: _ => some g
  | [] => s.dueGroup

/-- R274: a doorbell read may be issued: polling is on, and 64 ticks have passed since the last one. -/
def State.mayRead (s : State) : Bool :=
  s.hiEn && !s.clk.sleeping && match s.host.lastRead with
    | some t => decide (t + 64 ≤ s.clk.tb)
    | none => true

/-- R272, R301: a doorbell entry of a session. -/
def State.doorbell (s : State) (k : Nat) (e : DWord) : State :=
  let x := s.ses k
  let ctail := bits e 0 24
  let rhead := bits e 24 24
  let s1 := s.setSes k { x with seq := bits e 48 16 }
  if !x.live then s1
  else if s.cmdSlots k < cntSub ctail x.chead then s1.faultSes k 0x0741
  else if s.rspSlots k < cntSub x.rtail rhead then s1.faultSes k 0x0742
  else s1.setSes k { s1.ses k with
    ctail := ctail
    rhead := rhead }

/-- R274: the line of a group is read. -/
def State.readLine (s : State) (g : Nat) (line : Option (List DWord)) : State :=
  let x := s.group g
  let l := line.getD []
  let at_ (i : Nat) : DWord := nth 0 l i
  let changed := line.isSome && (List.range 8).any fun i => (s.ses (8 * g + i)).seq != bits (at_ i) 48 16
  let s1 := (s.setGroup g {
    interval := if changed then s.pollMin else min (2 * x.interval) s.pollMax
    since := s.clk.tb }).setHost { (s.setGroup g {
    interval := if changed then s.pollMin else min (2 * x.interval) s.pollMax
    since := s.clk.tb }).host with
      lastRead := some s.clk.tb
      kicks := dropIf (· == g) s.host.kicks }
  match line with
  | some _ => iter (fun i s => s.doorbell (8 * g + i) (at_ i)) 8 s1
  | none => iter (fun i s => s.faultSes (8 * g + i) 0x0740) 8 s1

/-- A doorbell read. -/
def doorbellStep (g : Nat) (line : Option (List DWord)) (s : State) : State :=
  if s.mayRead && s.nextRead == some g then s.readLine g line else s
def execDoorbellPoll (g : Fin 128) (line : Option (List DWord)) (s : State) : Out :=
  .next (if s.clk.mainRst then s else doorbellStep g line s)

/-- R275, R301: a write of KICK has no effect for a session that is FREE or FAULTED. -/
def kickWrite (k : Nat) (s : State) : State :=
  if !s.hiEn || (s.ses k).st == .free || (s.ses k).st == .faulted then s
  else
    let g := k / 8
    let s1 := s.setGroup g { s.group g with interval := s.pollMin }
    s1.setHost { s1.host with kicks := if s1.host.kicks.contains g || !s.groupLive g then s1.host.kicks else s1.host.kicks ++ [g] }
def execKick (k : Fin 1024) (s : State) : Out := .next (if s.clk.mainRst then s else kickWrite k s)

/-! ## Admission (R279 to R281) -/

/-- Commands posted and not read in. -/
def Ses.posted (x : Ses) : Nat := cntSub x.ctail x.chead

/-- The first session of a list that satisfies `p`. -/
def firstSes (p : Nat → Bool) : Tab Ses → Option Nat
  | [] => none
  | (k, x) :: r => if p k && x.live && decide (0 < x.posted) then some k else firstSes p r

/-- R281: the session whose turn it is. -/
def State.turnNext (s : State) : Option Nat :=
  let l := s.host.sess
  let other := match firstSes (fun k => decide (s.host.lastTurn < k) && k != 0) l with
    | some k => some k
    | none => firstSes (fun k => k != 0) l
  let admin := firstSes (fun k => k == 0) l
  if s.host.adminTurn then (match other with
    | some k => some k
    | none => admin)
  else match admin with
    | some k => some k
    | none => other

/-- A field of a header. -/
def hdr (l : List Byte) (a k : Nat) : Nat := leNat ((l.drop a).take k)

/-- R279, R286, R290, R366: ARGS break a rule of the opcode; `guard` for a conduit of kind Guard. -/
def argsBad (o plen : Nat) (l : List Byte) (guard : Bool) : Bool :=
  if o = 0x10 then plen % 4 != 0 || plen == 0 || hdr l 16 1 == 0 || decide (16 < hdr l 16 1)
  else if o = 0x11 then
    let m := hdr l 16 2
    decide (4032 < m) || (if guard then m % 32 != 0 || m == 0 else m % 4 != 0 || decide (m < 68))
  else if o = 0x31 then decide (1 < hdr l 20 1)
  else if o = 0x32 then hdr l 20 1 == 0 || decide (63 < hdr l 20 1) || decide (1 < hdr l 21 1)
  else if o = 0x40 then hdr l 16 2 == 0 || plen == 0 || plen % 8 != 0
  else if o = 0x41 then decide (15 < hdr l 16 1) || hdr l 24 2 == 0 || hdr l 24 2 % 8 != 0 || decide (4032 < hdr l 24 2)
  else false

/-- R279: a header is malformed. -/
def hdrBad (l : List Byte) (guard : Bool) : Bool :=
  let o := hdr l 0 2
  let slots := hdr l 2 1
  let plen := hdr l 8 2
  let cdt := hdr l 10 2
  slots == 0 || decide (64 < slots) || decide (4032 < plen) || slotsOf plen != slots || decide (1 < hdr l 3 1) || hdr l 12 4 != 0
    || decide (4096 ≤ cdt) || (cdt != 0 && !([0x10, 0x11, 0x20, 0x21].contains o)) || argsBad o plen l guard

/-- R280, R286: the slots reserved for the response to a header. -/
def needOf (l : List Byte) (bad : Bool) : Nat :=
  let o := hdr l 0 2
  if bad then 1
  else if o = 0x11 then slotsOf (hdr l 16 2)
  else if o = 0x31 ∨ o = 0x32 then 64
  else if o = 0x41 then slotsOf (hdr l 24 2)
  else 1

/-- A command as its packet says. -/
def cmdOf (l : List Byte) (guard : Bool) : Cmd :=
  let bad := hdrBad l guard
  let slots := hdr l 2 1
  let plen := hdr l 8 2
  { opcode := hdr l 0 2, slots := if slots = 0 ∨ 64 < slots then 1 else slots, flags := hdr l 3 1, tag := hdr l 4 4, plen := plen
    conduit := hdr l 10 2 % 4096, bad := bad, args := (l ++ leBytes 64 0).take 64, need := needOf l bad
    payload := if bad then [] else ((l.drop 64) ++ leBytes plen 0).take plen }

/-- R280: the free slots of a response ring. -/
def State.freeSlots (s : State) (k : Nat) : Nat :=
  let x := s.ses k
  s.rspSlots k - cntSub x.rtail x.rhead - x.rsv

/-- R281: the turn of session k is taken. -/
def State.noteTurn (s : State) (k : Nat) : State :=
  s.setHost { s.host with
    adminTurn := k == 0
    lastTurn := if k = 0 then s.host.lastTurn else k }

/-- R280: a command is read in; a SESSION_CLOSE takes an open session to CLOSING (R283, R284). -/
def State.readIn (s : State) (k : Nat) (c : Cmd) : State :=
  let x := s.ses k
  let s1 := s.setSes k { x with
    chead := (x.chead + c.slots) % 2 ^ 24
    rsv := x.rsv + c.need
    cmds := x.cmds ++ [c] }
  if c.opcode = 2 ∧ c.bad = false ∧ x.st = .opened then ((s1.moveSes k .closing).cancelIn k (fun _ => true) false).2 else s1

/-- R280: a turn of service. A command that has been read in starts before the next turn of its session. -/
def serviceStep (k : Nat) (l : List Byte) (s : State) : State :=
  if !s.hiEn || s.turnNext != some k || (s.nextCmd k).isSome then s
  else
    let s1 := s.noteTurn k
    let x := s.ses k
    let c := cmdOf l ((s.cdt (hdr l 10 2 % 4096)).kind == 2)
    if x.st = .closing ∨ x.posted < c.slots ∨ s.freeSlots k < c.need + (if k = 0 then 128 else 0) then s1
    else (s1.readIn k c).hostSettle k
def execServiceTurn (k : Fin 1024) (slots : List Byte) (s : State) : Out :=
  .next (if s.clk.mainRst then s else serviceStep k slots s)

/-! ## Notices (R300) -/

/-- The responses that carry a notice. -/
def Notice.rsps (x : Notice) (lost : Bool) : List Rsp :=
  let one (k : Nat) (more : Bool) (result payload : List Byte) : Rsp :=
    { opcode := x.code, flags := 1 + 2 * b2n more + 4 * b2n (lost && k == 0), result := result, payload := payload }
  if x.code = 0x8003 then
    [one 0 true (x.result ++ [0]) (recFrag x.payload 0), one 1 false (x.result ++ [1]) (recFrag x.payload 1)]
  else [one 0 false x.result x.payload]

/-- R285: the feature that a notice needs, where it needs one. -/
def noticeFeature (code : Nat) : Option Nat :=
  if code = 0x8001 then some 2 else if code = 0x8002 then some 0 else if code = 0x8003 then some 1 else none

/-- R285: the admin session takes a notice. -/
def State.noticeOk (s : State) (x : Notice) : Bool := match noticeFeature x.code with
  | some b => (s.ses 0).feat.testBit b
  | none => true

/-- R265: a record that has been delivered is not held. -/
def State.recGiven (s : State) (x : Notice) : State :=
  if x.code = 0x8003 ∧ s.meas.held = some x.payload then s.setMeas { s.meas with held := none } else s

/-- R285, R300: the oldest notice is written once the free space, with the 128 reserved slots, holds it. One that the admin session does
not take when its turn comes is not sent (DEDUCED, log entry 49). -/
def noticeStep (s : State) : State := match s.host.notices with
  | [] => s
  | x :: r =>
    let l := x.rsps s.host.noticeLost
    if !(s.ses 0).live then s
    else if !s.noticeOk x then s.setHost { s.host with notices := r }
    else if s.freeSlots 0 < (l.map fun q => slotsOf q.payload.length).sum then s
    else (l.foldl (fun s q => s.putRsp 0 q) (s.setHost { s.host with
      notices := r
      noticeLost := false })).recGiven x

/-! ## Failed accesses (R269, R301, R436) -/

/-- What a failed access served is faulted. -/
def State.hostFail (s : State) : HostUnit → State
  | .session k => s.faultSes k 0x0740
  | .group g => iter (fun i s => s.faultSes (8 * g.val + i) 0x0740) 8 s

/-- R436: a time-out is recorded; how the request kind is coded is open. -/
def State.ifaceEntry (s : State) (unit : Nat) : State := s.drawn.offer 0x0906 0 (BitVec.ofNat 32 unit) s.free 0

/-- R301, R436: an access to host memory failed. -/
def hostFailStep (u : HostUnit) (timeout : Bool) (s : State) : State :=
  (if timeout then s.ifaceEntry 0 else s).hostFail u
def execHostAccessFail (unit : HostUnit) (timeout : Bool) (s : State) : Out :=
  .next (if s.clk.mainRst then s else hostFailStep unit timeout s)

/-! ## Enabling (R283, R284, R304, R305) -/

/-- Two ranges of addresses meet. -/
def meets (a la b lb : Nat) : Bool := decide (a < b + lb) && decide (b < a + la)

/-- R270, R305: the rings of a session. -/
def State.rings (s : State) (k : Nat) : List (Nat × Nat) :=
  [(s.base64 (sesOff k + 8), 64 * s.cmdSlots k), (s.base64 (sesOff k + 0x10), 64 * s.rspSlots k)]

/-- R305: a ring of session k overlaps what it must not. -/
def State.ringMeets (s : State) (k : Nat) : Bool :=
  let tables := [(s.base64 0x20008, 8192), (s.base64 0x20010, 16384)]
  let others := (s.host.sess.filter fun x => x.1 != k && x.2.st != .free).flatMap fun x => s.rings x.1
  let mine := s.rings k
  (match mine with
    | [a, b] => meets a.1 a.2 b.1 b.2
    | _ => false) || mine.any fun a => (tables ++ others).any fun b => meets a.1 a.2 b.1 b.2

/-- R305: the check of an enable of session k. -/
def State.sesBar (s : State) (k : Nat) : Option Nat :=
  let rsz := s.fld (sesOff k) 16 5
  let csz := s.fld (sesOff k) 8 5
  if !s.hiEn then some 0x0713
  else if csz < 6 ∨ 16 < csz ∨ rsz < 6 ∨ 16 < rsz then some 0x0711
  else if k = 0 ∧ rsz < 8 then some 0x0712
  else if s.ringMeets k then some 0x0714
  else if (s.ses k).st ≠ .free then some 0x0715
  else none

/-- R283: a session becomes READY; its counts begin at 0 (DESIGN CHOICE, log entry 14). -/
def State.readySes (s : State) (k : Nat) : State :=
  let g := k / 8
  let s1 := if s.groupLive g then s else s.setGroup g {
    interval := s.pollMin
    since := s.clk.tb }
  (s1.setSes k { ({} : Ses) with
    seq := (s1.ses k).seq
    fault := (s1.ses k).fault
    quiesced := false }).moveSes k .ready

/-- A write of SES_CTL of session k. -/
def sesCtlWrite (src : Src) (k : Nat) (v : Word) (s : State) : State :=
  let off := sesOff k
  let m : Word := 0xC01F1F00
  let old := s.reg off
  if old.getLsbD 31 then
    if !v.getLsbD 31 then
      let s1 := s.setReg off (old &&& 0x7FFFFFFF)
      if (s1.ses k).st = .free ∨ (s1.ses k).st = .quiescing then s1
      else (s1.setSes k (s1.ses k).stopped).moveSes k .quiescing
    else if (v ^^^ old) &&& 0x001F1F00 ≠ 0 then s.refuse src off 0x0715 (sesObj k)
    else s.setReg off (v &&& m)
  else
    let s1 := s.setReg off (v &&& m &&& 0x7FFFFFFF)
    if !v.getLsbD 31 then s1
    else match s1.sesBar k with
      | some code => s1.refuse src off code (sesObj k)
      | none => (s1.setReg off (v &&& m)).readySes k
def execSessionEnable (k : Fin 1024) (v : Word) (s : State) : Out :=
  .next (if s.clk.mainRst then s else sesCtlWrite .host k (v ||| 0x80000000) s)
def execSessionDisable (k : Fin 1024) (v : Word) (s : State) : Out :=
  .next (if s.clk.mainRst then s else sesCtlWrite .host k (v &&& 0x7FFFFFFF) s)

/-- R305: a write of a ring address is refused while EN is 1. -/
def ringAddrWrite (src : Src) (off : Nat) (v : Word) (s : State) : State :=
  let k := (off - 0x28000) / 0x20
  let m := BitVec.ofNat 32 (fieldsMask (fun a => a == .rw) (regFields off))
  if s.bit (sesOff k) 31 then if v &&& m = s.reg off then s else s.refuse src off 0x0715 (sesObj k)
  else s.plainWrite src off v

/-- R284: a quiescing session without a command in progress becomes FREE. -/
def quiescedStep (k : Nat) (s : State) : State :=
  let x := s.ses k
  if x.st == .quiescing && x.cmds.isEmpty then (s.setSes k { x with quiesced := true }).moveSes k .free else s
def execSessionQuiesced (k : Fin 1024) (s : State) : Out := .next (if s.clk.mainRst then s else quiescedStep k s)

/-- R304: a write of HI_CTL. -/
def hiCtlWrite (src : Src) (v : Word) (s : State) : State :=
  if s.hiEn then
    if v.getLsbD 31 then s
    else if s.host.sess.any fun x => x.2.st != .free then s.refuse src 0x20000 0x0716 0
    else s.setReg 0x20000 0
  else if !v.getLsbD 31 then s
  else if !s.host.dbSet || !s.host.stSet || meets (s.base64 0x20008) 8192 (s.base64 0x20010) 16384 then s.refuse src 0x20000 0x0713 0
  else s.setReg 0x20000 0x80000000
def execHiCtl (v : Word) (s : State) : Out := .next (if s.clk.mainRst then s else hiCtlWrite .host v s)

/-- R304: a write of DB_BASE, ST_BASE or POLL_CFG. -/
def hiSetupWrite (src : Src) (off : Nat) (v : Word) (s : State) : State :=
  if s.hiEn then s.refuse src off 0x0715 0
  else
    let s1 := s.plainWrite src off v
    s1.setHost { s1.host with
      dbSet := s1.host.dbSet || off == 0x20008
      stSet := s1.host.stSet || off == 0x20010 }

/-- A write of HI_STS. -/
def hiStsWrite (v : Word) (s : State) : State :=
  if v.getLsbD 31 then s.setHost { s.host with adminFault := false } else s

/-! ## Registers -/

/-- SES_STS. -/
def State.sesSts (s : State) (k : Nat) : Word :=
  let x := s.ses k
  BitVec.ofNat 32 (sesCode x.st * 2 ^ 29 + 2 ^ 28 * b2n x.quiesced + x.ver)

/-- SES_INFL. -/
def State.sesInfl (s : State) (k : Nat) : Word := BitVec.ofNat 32 ((s.ses k).rsv * 2 ^ 16 + (s.ses k).cmds.length)

/-- CDT_DATA0 of conduit d. -/
def State.cdtData0 (s : State) (d : Nat) : Word :=
  let c := s.cdt d
  let posted := ((s.ses c.session).cmds.filter fun x => x.opcode == 0x11 && x.started && x.conduit == d).length
  if c.bound then BitVec.ofNat 32 (2 ^ 31 + 2 ^ 30 * b2n (s.attached d) + c.kind * 2 ^ 28 + c.dir * 2 ^ 27 + c.session * 2 ^ 16 + posted)
  else 0

/-- CDT_DATA1 of conduit d. -/
def State.cdtData1 (s : State) (d : Nat) : Word :=
  let c := s.cdt d
  BitVec.ofNat 32 (c.node * 2 ^ 20 + c.span * 2 ^ 16 + c.target * 2 ^ 8 + c.unit)

end Sys2Proof.Machine
end

