-- ==== Sys2Proof/Machine/Deliver.lean ====
section
/-! DEFINITION. Delivery beyond a thread: messages between nodes (R166, R383, R384), sends and receives on conduits (R295 to R299), the
words of channel ends (R163 to R169) and the crossings of the Clove FIFOs (R199). -/
namespace Sys2Proof.Machine

/-! ## Messages between nodes (R166, R370, R383) -/

/-- R370: message words in body words. -/
def packWords : List Word → List DWord
  | [] => []
  | [a] => [dw a.toNat]
  | a :: b :: r => dw (a.toNat + b.toNat * 2 ^ 32) :: packWords r

/-- R370: the message words of a body. -/
def unpackWords (l : List DWord) : List Word := l.flatMap fun d => [BitVec.ofNat 32 d.toNat, BitVec.ofNat 32 (d.toNat / 2 ^ 32)]

/-- R370: a MSG frame; a kind is 0 for an end and 1 for a conduit. -/
def State.msgFrame (s : State) (node sk sid dk did : Nat) (ws : List Word) : Frame :=
  s.frame 7 node (sk * 2 ^ 29 + (ws.length - 1) * 2 ^ 25 + dk * 2 ^ 24 + did % 4096 * 2 ^ 12 + sid % 4096) (packWords ws)

/-- R370: an ACK frame, or a NAK. -/
def State.ackFrame (s : State) (node : Nat) (nak : Bool) (words kind id : Nat) : Frame :=
  s.frame 8 node (b2n nak * 2 ^ 29 + (words - 1) * 2 ^ 25 + kind * 2 ^ 24 + id % 4096 * 2 ^ 12) []

/-- The first message of a number of words among those sent and not answered, and the others. -/
def takeSent (w : Nat) : List (Nat × Nat) → Option (List (Nat × Nat))
  | [] => none
  | m :: r => if m.1 = w then some r else (takeSent w r).map (m :: ·)

/-- The CDT_SEND in progress on a conduit: its session, its place and the command; sends on one conduit go in ring order (R295). -/
def State.sendFront (s : State) (d : Nat) : Option (Nat × Nat × Cmd) :=
  let k := (s.cdt d).session
  let l := (s.ses k).cmds
  match l.findIdx? fun c => c.opcode == 0x10 && c.started && c.conduit == d with
  | some i => (l[i]?).map fun c => (k, i, c)
  | none => none

/-- Command i of session k becomes `c`. -/
def State.setCmd (s : State) (k i : Nat) (c : Cmd) : State :=
  let x := s.ses k
  s.setSes k { x with cmds := x.cmds.set i c }

/-- R383: a message of an output end is settled: its credits return; where it was refused or lost, as R166 says. -/
def State.settleEnd (s : State) (k w : Nat) (fail : Bool) : State :=
  let x := s.chEnd k
  match takeSent w x.sent with
  | none => s
  | some r =>
    let s1 := s.setEnd k { x with
      sent := r
      credits := min 16 (x.credits + w) }
    if fail then (s1.peerLost (k / 128) (k % 128) w).offer 0x0207 (endObj (k / 128) (k % 128)) (BitVec.ofNat 32 w) 0 0 else s1

/-- R295, R383: a message of a node conduit is settled. -/
def State.settleCdt (s : State) (d w : Nat) (fail : Bool) : State :=
  match s.sendFront d with
  | none => s
  | some (k, i, c) => match takeSent w c.sent with
    | none => s
    | some r =>
      let x := s.cdt d
      let s1 := s.setCdt d { x with credits := min 16 (x.credits + w) }
      s1.setCmd k i (if fail then { c with
        sent := r
        out := []
        lost := true } else { c with
        sent := r
        done := c.done + w })

/-- R383: a reply to a message reaches its sender; one to no message is ignored. -/
def State.settleReply (s : State) (nak : Bool) (w kind id : Nat) : State :=
  if kind = 0 then s.settleEnd id w nak else s.settleCdt id w nak

/-- R383: the reply to a message goes to the node of its sender. -/
def State.reply (s : State) (node : Nat) (nak : Bool) (w kind id : Nat) : State :=
  if node = s.casc.node then s.settleReply nak w kind id else s.sendTo (s.ackFrame node nak w kind id)

/-- R164, R383: words of the landing store of an input end move into its buffer, at most `f`; a message that has moved is answered. -/
def moveLanding (n e : Nat) : Nat → State → State
  | 0, s => s
  | f + 1, s =>
    let k := n * 128 + e
    let x := s.chEnd k
    match x.landing with
    | (len, w :: ws, kind, node, id) :: r =>
      if 8 ≤ x.buf.length then s
      else
        let s1 := (s.setEnd k { x with landing := if ws = [] then r else (len, ws, kind, node, id) :: r }).bufPut n e w (ws == [])
          (s.core n).round
        moveLanding n e f (if ws = [] then s1.reply node false len kind id else s1)
    | _ => s

/-- R166, R384: an input end takes messages of a sender. -/
def State.takesFrom (s : State) (k node kind id : Nat) : Bool :=
  let n := k / 128
  let e := k % 128
  let peer := s.reg (cheOff n e + 4)
  s.endOn n e false && peer.getLsbD 31 && bits peer 19 12 == node
    && (if kind = 0 then cheKind (s.reg (cheOff n e)) == 0 && bits peer 15 4 == id / 128 && bits peer 0 12 == id % 128
        else cheKind (s.reg (cheOff n e)) == 2 && bits peer 0 12 == id)

/-- R384: a conduit of DIR 1 takes messages of a far end. -/
def State.cdtTakes (s : State) (d node kind id : Nat) : Bool :=
  let c := s.cdt d
  c.bound && c.kind == 3 && c.dir == 1 && c.node == node && kind == 0 && c.span * 128 + c.unit == id

/-- R166, R383: a message that has arrived is accepted whole or refused. -/
def State.arrive (s : State) (node sk sid dk did : Nat) (ws : List Word) : State :=
  if dk = 0 then
    if s.takesFrom did node sk sid then
      let x := s.chEnd did
      moveLanding (did / 128) (did % 128) 16 (s.setEnd did { x with landing := x.landing ++ [(ws.length, ws, sk, node, sid)] })
    else s.reply node true ws.length sk sid
  else if s.cdtTakes did node sk sid then
    let c := s.cdt did
    s.setCdt did { c with landing := c.landing ++ [ws] }
  else s.reply node true ws.length sk sid

/-- R379, R380: a message goes on its way; an unrooted node routes none, and it is settled as lost. -/
def State.sendMsg (s : State) (node sk sid dk did : Nat) (ws : List Word) : State :=
  if node = s.casc.node then s.arrive node sk sid dk did ws
  else if s.casc.rooted then s.sendTo (s.msgFrame node sk sid dk did ws)
  else s

/-! ## Channel ends -/

/-- The words of the oldest message of a store. -/
def firstMsg : List StoreWord → List StoreWord
  | [] => []
  | w :: r => if w.last then [w] else w :: firstMsg r

/-- The store without its `k` oldest words. -/
def State.popStores (n e : Nat) : Nat → State → State
  | 0, s => s
  | f + 1, s => State.popStores n e f (s.popStore n e)

/-- R383: the released messages of an output end whose peer is remote are sent as its credits allow, at most `f`. -/
def sendMsgs (n e : Nat) : Nat → State → State
  | 0, s => s
  | f + 1, s =>
    let k := n * 128 + e
    let x := s.chEnd k
    match x.store with
    | [] => s
    | h :: _ =>
      let l := firstMsg x.store
      if h.peer.getLsbD 31 = false ∨ (h.kind ≠ 0 ∧ h.kind ≠ 2) ∨ x.credits < l.length then s
      else
        let s1 := State.popStores n e l.length s
        let y := s1.chEnd k
        let s2 := s1.setEnd k { y with
          credits := y.credits - l.length
          sent := y.sent ++ [(l.length, s.clk.tb)] }
        let did := if h.kind = 0 then bits h.peer 15 4 * 128 + bits h.peer 0 7 else bits h.peer 0 12
        sendMsgs n e f (s2.sendMsg (bits h.peer 19 12) 0 k (if h.kind = 0 then 0 else 1) did (l.map (·.w)))

/-- R291: a bound conduit of kind thread has an output end as its source. -/
def State.cdtFrom (s : State) (d n e : Nat) : Bool :=
  let c := s.cdt d
  c.bound && c.kind == 0 && c.dir == 1 && c.span == n && c.unit == e

/-- R294: words of an end of KIND conduit whose conduit is not bound to it are discarded, at most `f`. -/
def dropUnbound (n e : Nat) : Nat → State → State
  | 0, s => s
  | f + 1, s => match (s.chEnd (n * 128 + e)).store with
    | h :: _ =>
      if h.kind = 2 ∧ h.peer.getLsbD 31 = false ∧ s.cdtFrom (bits h.peer 0 12) n e = false then
        dropUnbound n e f ((s.popStore n e).peerLost n e 1)
      else s
    | [] => s

/-! ## CDT_SEND (R295) -/

/-- R295: an end takes the words of a conduit of kind thread. -/
def State.endTakes (s : State) (d n e : Nat) : Bool :=
  let peer := s.reg (cheOff n e + 4)
  s.endOn n e false && cheKind (s.reg (cheOff n e)) == 2 && !peer.getLsbD 31 && bits peer 0 12 == d

/-- R295: words of a send enter the buffer of an end while it has room. -/
def sendToEnd (d n e : Nat) : Nat → Cmd → State → Cmd × State
  | 0, c, s => (c, s)
  | f + 1, c, s => match c.out with
    | [] => (c, s)
    | (w, last) :: r =>
      if !s.endTakes d n e then ({ c with
        out := []
        lost := true }, s)
      else if 8 ≤ (s.chEnd (n * 128 + e)).buf.length then (c, s)
      else sendToEnd d n e f { c with
        out := r
        done := c.done + 1 } (s.bufPut n e w last (s.core n).round)

/-- R199, R295: words of a send enter an in FIFO while it has room. -/
def sendToFifo (n e ch : Nat) : Nat → Cmd → State → Cmd × State
  | 0, c, s => (c, s)
  | f + 1, c, s => match c.out with
    | [] => (c, s)
    | (w, _) :: r =>
      if s.fifoRoom n e ch then sendToFifo n e ch f { c with
        out := r
        done := c.done + 1 } (s.fifoPut n e ch w)
      else (c, s)

/-- The words of the first message of a send. -/
def firstPart : List (Word × Bool) → List Word
  | [] => []
  | (w, last) :: r => if last then [w] else w :: firstPart r

/-- R383, R384: messages of a send go to a far end as the conduit's credits allow. The command must stand in its session meanwhile,
since an answer of this node comes at once. -/
def sendToNode (d : Nat) : Nat → State → State
  | 0, s => s
  | f + 1, s => match s.sendFront d with
    | none => s
    | some (k, i, c) =>
      let x := s.cdt d
      let ws := firstPart c.out
      if ws = [] ∨ x.credits < ws.length then s
      else
        let s1 := (s.setCdt d { x with credits := x.credits - ws.length }).setCmd k i { c with
          out := c.out.drop ws.length
          sent := c.sent ++ [(ws.length, s.clk.tb)] }
        sendToNode d f (s1.sendMsg x.node 1 d 0 (x.span * 128 + x.unit) ws)

/-- R295: what can leave of the send in progress on a conduit leaves. -/
def State.sendSome (s : State) (d : Nat) : State :=
  let x := s.cdt d
  match s.sendFront d with
  | none => s
  | some (k, i, c) =>
    if x.kind = 3 then sendToNode d (c.out.length + 1) s
    else
      let (c1, s1) := if x.kind = 0 then sendToEnd d x.span x.unit (c.out.length + 1) c s
        else sendToFifo x.span (x.unit / 4) (x.unit % 4) (c.out.length + 1) c s
      s1.setCmd k i c1

/-- R295: the response of a send. -/
def sendRsp (kind : Nat) (c : Cmd) : Rsp :=
  { opcode := 0x10, status := if c.lost then (if kind = 3 then 0x0723 else 0x0722) else 0, result := leBytes 4 c.done }

/-- R295: sends on a conduit proceed in ring order, and each completes once no further word can leave; at most `f`. -/
def pumpCdt (d : Nat) : Nat → State → State
  | 0, s => s
  | f + 1, s =>
    let s1 := s.sendSome d
    match s1.sendFront d with
    | none => s1
    | some (k, i, c) =>
      if c.out = [] ∧ c.sent = [] then pumpCdt d f ((s1.complete k i (sendRsp (s1.cdt d).kind c)).hostSettle k) else s1

/-- The sends of a conduit proceed. -/
def State.pump (s : State) (d : Nat) : State := pumpCdt d ((s.ses (s.cdt d).session).cmds.length + 1) s

/-- The sends of every bound conduit that satisfies `p` proceed. -/
def State.pumpWhere (s : State) (p : Conduit → Bool) : State :=
  s.host.cdts.foldl (fun s x => if x.2.bound && x.2.dir == 0 && p x.2 then s.pump x.1 else s) s

/-- The sends into an end proceed. -/
def State.pumpEnd (s : State) (n e : Nat) : State :=
  s.pumpWhere fun c => (c.kind == 0 || (c.kind == 3 && c.node == s.casc.node)) && c.span == n && c.unit == e

/-! ## Commands of the channels -/

/-- R18, R164, R169, R294, R383: what can move from or into an end moves. -/
def deliverStep (n e : Nat) (s : State) : State :=
  (moveLanding n e 16 (dropUnbound n e 16 (sendMsgs n e 16 (fabricMove n e (moveWords n e 16 s))))).pumpEnd n e
def execChannelDelivery (n : Fin 16) (e : Fin 128) (s : State) : Out :=
  .next (if s.running then deliverStep n e s else s)

/-- A write of CHE_CFG[e]; sends into an end that is disabled stop (R295). -/
def cheWrite (src : Src) (n e : Nat) (v : Word) (s : State) : State := (cheCfgWrite src n e v s).pumpEnd n e
def execCheEnable (src : Src) (n : Fin 16) (e : Fin 128) (v : Word) (s : State) : Out :=
  .next (s.via src fun s => s.gate n (cheWrite src n e (v ||| 0x80000000)))
def execCheDisable (src : Src) (n : Fin 16) (e : Fin 128) (v : Word) (s : State) : Out :=
  .next (s.via src fun s => s.gate n (cheWrite src n e (v &&& 0x7FFFFFFF)))

/-- R199, R169: a word crosses into an in FIFO; while the channel is disabled words wait in the sender's store. -/
def fifoIn (n e c : Nat) (s : State) : State :=
  match s.fifoSource n e c with
  | some k =>
    if s.fifoRoom n e c then
      match (s.chEnd (n * 128 + k)).store with
      | w :: _ => (s.popStore n k).fifoPut n e c w.w
      | [] => s
    else s
  | none => match cdtFind 1 0 n (e * 4 + c) s.host.cdts with
    | some (d, _) => s.pump d
    | none => s
def execCloveFifoIn (n : Fin 16) (e : Fin 12) (c : Fin 4) (s : State) : Out :=
  .next (if s.running then fifoIn n e c s else s)
def execCloveFifoOut (n : Fin 16) (e : Fin 12) (c : Fin 4) (s : State) : Out :=
  .next (if s.running then fifoOut n e c s else s)

/-! ## CDT_RECV (R296, R297) -/

/-- The oldest posted receive of a conduit. -/
def State.recvFront (s : State) (d : Nat) : Option (Nat × Nat × Cmd) :=
  let k := (s.cdt d).session
  let l := (s.ses k).cmds
  match l.findIdx? fun c => c.opcode == 0x11 && c.started && c.conduit == d with
  | some i => (l[i]?).map fun c => (k, i, c)
  | none => none

/-- R297: the payload record of an item of words. -/
def itemBytes (ws : List Word) : List Byte := leBytes 4 ws.length ++ ws.flatMap fun w => leBytes 4 w.toNat

/-- R299: a decision record as it is taken: LOST and LOSTCNT. -/
def lostRec (r : List Byte) (lost : Nat) : List Byte :=
  if lost = 0 then r
  else r.take 2 ++ leBytes 1 ((nth 0 r 2).toNat % 4 + 4 + (nth 0 r 2).toNat / 8 * 8) ++ (r.drop 3).take 1 ++ leBytes 4 lost ++ r.drop 8

/-- R297, R298: the next item of a conduit, as it enters a receive. -/
def State.cdtItem (s : State) (d : Nat) : Option (List Byte) :=
  let c := s.cdt d
  match c.kind with
  | 0 =>
    match (s.chEnd (c.span * 128 + c.unit)).store with
    | h :: r =>
      if h.kind = 2 ∧ h.peer.getLsbD 31 = false ∧ bits h.peer 0 12 = d then some (itemBytes ((firstMsg (h :: r)).map (·.w))) else none
    | [] => none
  | 1 => ((s.chan (chanKey c.span (c.unit / 4) (c.unit % 4))).outF.head?).map fun w => itemBytes [w]
  | 2 => (c.recs.head?).map fun r => lostRec r c.lost
  | _ => (c.landing.head?).map itemBytes

/-- The next item of a conduit is removed; a message of a far end is answered (R383). -/
def State.dropItem (s : State) (d : Nat) : State :=
  let c := s.cdt d
  match c.kind with
  | 0 => State.popStores c.span c.unit (firstMsg (s.chEnd (c.span * 128 + c.unit)).store).length s
  | 1 =>
    let k := chanKey c.span (c.unit / 4) (c.unit % 4)
    let ch := s.chan k
    s.setChan k { ch with outF := ch.outF.drop 1 }
  | 2 => s.setCdt d { c with
    recs := c.recs.drop 1
    lost := 0 }
  | _ => (s.setCdt d { c with landing := c.landing.drop 1 }).reply c.node false ((c.landing.head?).getD []).length 0
    (c.span * 128 + c.unit)

/-- R285, R296: LINGER of a receive of session k. -/
def State.linger (s : State) (k : Nat) (c : Cmd) : Nat := if (s.ses k).feat.testBit 5 then hdr c.args 20 4 else 0

/-- R296: a receive that has taken an item can take no other: LINGER is 0, or the smallest item does not fit. -/
def State.recvFull (s : State) (k : Nat) (guard : Bool) (c : Cmd) : Bool :=
  s.linger k c == 0 || decide (hdr c.args 16 2 < c.data.length + if guard then 32 else 8)

/-- Command i of session k is answered, and what follows of it. -/
def State.answerCmd (s : State) (k i : Nat) (r : Rsp) : State := (s.complete k i r).hostSettle k

/-- R296, R298: an item enters receive i of session k. -/
def State.takeItem (s : State) (d k i : Nat) (c : Cmd) (b : List Byte) : State :=
  let x := s.cdt d
  let c1 := { c with
    data := c.data ++ b
    items := c.items + 1
    first := if c.items = 0 then s.clk.tb else c.first
    lost := c.lost || (x.kind == 2 && decide (0 < x.lost)) }
  let s1 := (s.dropItem d).setCmd k i c1
  if s1.recvFull k (x.kind == 2) c1 then s1.answerCmd k i c1.taken else s1

/-- R296: LINGER ticks have passed since a receive took its first item. -/
def State.lingered (s : State) (k : Nat) (c : Cmd) : Bool := c.items != 0 && Nat.ble (c.first + s.linger k c) s.clk.tb

/-- R296, R297: the next item of an attached conduit enters its oldest receive; one whose LINGER is over, or that it would not fit,
completes first, and the next begins. -/
def itemStep (d : Nat) : Nat → State → State
  | 0, s => s
  | f + 1, s => match s.recvFront d, s.cdtItem d with
    | some (k, i, c), some b =>
      if (s.cdt d).dir = 0 ∨ s.attached d = false then s
      else if s.lingered k c ∨ hdr c.args 16 2 < c.data.length + b.length then itemStep d f (s.answerCmd k i c.taken)
      else s.takeItem d k i c b
    | _, _ => s
def execConduitItem (d : Fin 4096) (s : State) : Out := .next (if s.running then itemStep d 3 s else s)

/-- R296: LINGER ticks after its first item, a receive completes. -/
def lingerStep (d : Nat) (s : State) : State := match s.recvFront d with
  | some (k, i, c) => if s.lingered k c then s.answerCmd k i c.taken else s
  | none => s
def execRecvLinger (d : Fin 4096) (s : State) : Out := .next (if s.running then lingerStep d s else s)

/-! ## Frames of messages (R383) -/

/-- R383: MSG is received for this node. -/
def msgHere (f : Frame) (s : State) : State :=
  let a := f.arg
  s.arrive f.src (b2n (a.testBit 29)) (a % 4096) (b2n (a.testBit 24)) (a / 2 ^ 12 % 4096)
    ((unpackWords f.body).take (a / 2 ^ 25 % 16 + 1))

/-- R383: ACK or NAK is received for this node. -/
def ackHere (f : Frame) (s : State) : State :=
  let a := f.arg
  let kind := b2n (a.testBit 24)
  let id := a / 2 ^ 12 % 4096
  let s1 := s.settleReply (a.testBit 29) (a / 2 ^ 25 % 16 + 1) kind id
  if kind = 0 then sendMsgs (id / 128) (id % 128) 16 s1 else s1.pump id

/-- R383: the port towards a node. -/
def State.portTo (s : State) (node : Nat) : Nat := match s.route node with
  | .port p => p
  | _ => s.casc.up

/-- R383: the oldest unanswered message of a sender is lost once its time is over. -/
def msgLostStep (sender : MsgSender) (s : State) : State :=
  let due (l : List (Nat × Nat)) : Option Nat := match l with
    | (w, t) :: _ => if t + 1048576 ≤ s.clk.tb then some w else none
    | [] => none
  match sender with
  | .chanEnd n e =>
    let k := n.val * 128 + e.val
    match due (s.chEnd k).sent with
    | some w =>
      let node := bits (s.reg (cheOff n e + 4)) 19 12
      sendMsgs n e 16 ((s.settleEnd k w true).cascEntry 0x080C node (s.portTo node) (endObj n e).toNat w)
    | none => s
  | .conduit d => match s.sendFront d with
    | some (_, _, c) => (match due c.sent with
      | some w =>
        let node := (s.cdt d).node
        ((s.settleCdt d w true).cascEntry 0x080C node (s.portTo node) (objWord 7 0 d).toNat w).pump d
      | none => s)
    | none => s
def execMsgLost (sender : MsgSender) (s : State) : Out := .next (if s.running then msgLostStep sender s else s)

end Sys2Proof.Machine
end

