-- ==== Sys2Proof/Machine/Cascade.lean ====
section
/-! DEFINITION. The cascade: ports and their resets (R371 to R374), numbering (R375 to R378), the frames of the link (R379 to R384), time
alignment (R385 to R387), the frames of a cascade Freeze (R388 to R391) and boot records across the tree (R392, R393). -/
namespace Sys2Proof.Machine

/-! ## Ports (R371 to R374) -/

/-- The offset of LP_CTL of a port; LP_VER follows it. -/
def lpOff (p : Nat) : Nat := 0x50100 + p * 0x20

/-- The block pulls a sideband pin low for `k` ticks (R369). -/
def State.pull (s : State) (pin k : Nat) : State :=
  State.letGo { s with sideband := tabSet 0 s.sideband pin (s.clk.tb + k) } 0

/-- R380: SYNC goes out on a port: the tick of the far side's last captured pulse and that of the own last pulse. -/
def State.sendSync (s : State) (p : Nat) : State :=
  let x := s.lport p
  s.enqueue p (s.frame 6 x.far (b2n s.casc.rooted * 2 ^ 29) [dw (x.capt.getD 0), dw (x.pulse.getD 0)])

/-- R380: the node becomes unrooted. -/
def State.unroot (s : State) : State :=
  let s1 := (s.setCasc { s.casc with
    rooted := false
    assigned := false
    sweep := none }).setTimeOk false
  s1.downPorts.foldl (fun s p => s.sendSync p) s1

/-- R374: HELLO goes out on a port. -/
def State.sendHello (s : State) (p : Nat) : State :=
  let c := s.casc
  let v := s.reg (lpOff p + 4)
  let s1 := s.enqueue p (s.frame 1 0 0 [dw (v.toNat + b2n c.rooted * 2 ^ 32 + b2n c.master * 2 ^ 33 + b2n c.assigned * 2 ^ 34
    + (if c.assigned then c.node else 0) * 2 ^ 36), dw c.tag])
  s1.setLport p { s1.lport p with lastHello := some s.clk.tb }

/-- R377: REFUSE goes out on a port. -/
def State.sendRefuse (s : State) (p code : Nat) : State :=
  s.enqueue p (s.frame 4 (s.lport p).far 0 [dw (code + s.casc.node * 2 ^ 16)])

/-! ### Numbering -/

/-- R377: a port that a sweep assigns. -/
def State.sweepsTo (s : State) (p : Nat) : Bool :=
  let x := s.lport p
  (s.casc.master || p != s.casc.up) && (x.st == 6 || x.st == 5 || (x.st == 3 && match x.farHello with
    | some (rooted, _, _) => !rooted
    | none => false))

/-- R377: the node count goes down the tree. -/
def State.sendNodes (s : State) : State := s.sendDown (s.frame 3 0 (2 ^ 29) [dw s.casc.nodes])

/-- R377: a sweep goes on with the first port from `p` on, or ends. -/
def State.sweepFrom (s : State) (p : Nat) (w : Sweep) : State :=
  match findFrom s.sweepsTo (4 - p) p with
  | some q =>
    (s.setCasc { s.casc with sweep := some { w with wait := q } }).enqueue q (s.frame 2 (w.next % 4096) 0
      [dw (w.next % 4096 + (s.casc.depth + 1) % 16 * 2 ^ 12 + (s.casc.sweepSeq + b2n s.casc.master) % 65536 * 2 ^ 16), dw s.casc.tag])
  | none => match w.up with
    | some u => (s.setCasc { s.casc with sweep := none }).enqueue u (s.frame 3 (s.lport u).far 0 [dw w.next])
    | none => (s.setCasc { s.casc with
      sweep := none
      sweeping := false
      nodes := w.next
      sweepSeq := (s.casc.sweepSeq + 1) % 65536 }).sendNodes

/-- R377: the port that a sweep waits for is done with, and the next one has its turn. -/
def State.sweepOn (s : State) (p next : Nat) : State := match s.casc.sweep with
  | some w => if w.wait = p then s.sweepFrom (p + 1) { w with next := next } else s
  | none => s

/-- The next free number of a sweep. -/
def State.sweepNumber (s : State) : Nat := match s.casc.sweep with
  | some w => w.next
  | none => 0

/-- R377: a sweep begins on the master. -/
def State.startSweep (s : State) : State :=
  (s.setCasc { s.casc with
    sweeping := true
    sweepPend := false }).sweepFrom 0 { up := none, wait := 0, next := 1 }

/-- R377, R391: a write of CASC_CTL.SWEEP; during a cascade Freeze the sweep waits. -/
def sweepStep (s : State) : State :=
  if !s.casc.master || s.casc.sweeping then s
  else if !s.cascBusy then s.startSweep
  else s.setCasc { s.casc with
    sweeping := true
    sweepPend := true }
def execSweep (s : State) : Out := .next (if s.clk.mainRst then s else sweepStep s)

/-! ### Resets (R371) -/

/-- R393: the lowest node that asked is granted a forward, while the admin session takes boot records and none is under way. -/
def State.grantFwd (s : State) : State :=
  let l := s.casc.fwds
  if !s.recTaker || l.any (·.granted) then s
  else match l.foldl (fun (b : Option Fwd) f => match b with
    | some g => some (if f.node < g.node then f else g)
    | none => some f) none with
    | some f =>
      let s1 := s.setCasc { s.casc with fwds := l.map fun g => if g = f then { g with granted := true } else g }
      s1.sendTo (s1.frame 0xC f.node 0 [dw 0])
    | none => s

/-- R393: forwards through a port that resets are lost. -/
def State.dropFwds (s : State) (p : Nat) : State :=
  (s.setCasc { s.casc with fwds := s.casc.fwds.filter fun f => s.route f.node != .port p }).grantFwd

/-- R371: a port enters LINK[n] reset. -/
def State.portReset (s : State) (p cause : Nat) : State :=
  let x := s.lport p
  let s0 := s.dropFwds p
  let s1 := s0.setLport p { ({} : LPort) with
    st := x.st
    crcErr := x.crcErr
    resets := satInc 0xFFFF x.resets
    drop := x.drop
    phy := x.phy
    lo := 1
    rstEnd := some (s.clk.tb + 64) }
  let s2 := ((s1.pull (2 * p + 1) 64).cascEntry 0x0806 x.far p cause 0).portState p 0
  let s3 := if x.st = 4 then s2.unroot else s2
  s3.sweepOn p s3.sweepNumber

/-- R372: a port begins its bring-up. -/
def State.bringUp (s : State) (p : Nat) : State :=
  let s1 := s.setLport p { s.lport p with
    rstEnd := none
    lastRx := s.clk.tb
    lastTx := s.clk.tb }
  if s.casc.role = 1 ∨ s.casc.role = 2 then s1.portState p (if (s.lport p).phy then 2 else 1) else s1

/-- R373: a link version that both ranges hold. -/
def linkVer (lo hi lo' hi' : Nat) : Option Nat :=
  let fits (v : Nat) : Bool := decide (lo ≤ v) && decide (v ≤ hi) && decide (lo' ≤ v) && decide (v ≤ hi')
  if fits 0x0101 then some 0x0101 else if fits 0x0100 then some 0x0100 else none

/-- A write of LP_CTL: EN set runs the check of R373, EN cleared resets the port (R371). -/
def lpCtlWrite (src : Src) (p : Nat) (v : Word) (s : State) : State :=
  let off := lpOff p
  let ver := s.reg (off + 4)
  if s.bit off 31 = v.getLsbD 31 then s
  else if v.getLsbD 31 then
    if (linkVer (bits ver 0 16) (bits ver 16 16) 0 0xFFFF).isNone then s.refuse src off 0x0902 0
    else
      let s1 := s.setReg off 0x80000000
      if (s1.lport p).rstEnd.isSome then s1.setLport p { s1.lport p with rstEnd := some (s.clk.tb + 64) } else s1.bringUp p
  else (s.setReg off 0).portReset p 0
def execLinkPortEnable (p : Fin 4) (v : Word) (s : State) : Out :=
  .next (if s.clk.mainRst then s else lpCtlWrite .host p (v ||| 0x80000000) s)

/-- R372: phy_up_i changes. -/
def phyStep (p : Nat) (up : Bool) (s : State) : State :=
  let x := s.lport p
  if x.phy = up then s
  else
    let s1 := s.setLport p { x with phy := up }
    if s.clk.mainRst || !s.bit (lpOff p) 31 then s1
    else if up then
      if x.rstEnd.isSome then s1.setLport p { s1.lport p with rstEnd := some (s.clk.tb + 64) }
      else if x.st = 1 then s1.bringUp p else s1
    else if x.rstEnd.isSome ∨ x.st < 2 then s1
    else s1.portReset p 1
def execPhyUp (p : Fin 4) (up : Bool) (s : State) : Out := .next (phyStep p up s)

/-- R371: no frame has come for 32,768 ticks. -/
def silenceStep (p : Nat) (s : State) : State :=
  if 2 ≤ (s.lport p).st ∧ (s.lport p).lastRx + 32768 ≤ s.clk.tb then s.portReset p 3 else s
def execLinkSilence (p : Fin 4) (s : State) : Out := .next (if s.clk.mainRst then s else silenceStep p s)

/-- R371: the far side has held SB_ALIVE low for 32 ticks. -/
def aliveStep (p : Nat) (s : State) : State :=
  if 1 ≤ (s.lport p).st ∧ s.funcOf 0 (2 * p + 1) = 14 then s.portReset p 4 else s
def execSbAliveLow (p : Fin 4) (s : State) : Out := .next (if s.clk.mainRst then s else aliveStep p s)

/-- R371: a frame that no command carries is invalid; it is counted as failing its CRC. -/
def badFrame (p : Nat) (s : State) : State :=
  let x := s.lport p
  if x.st < 2 then s else (s.setLport p { x with crcErr := satInc 0xFFFF x.crcErr }).portReset p 2

/-- R371: a cause of LINK[n] reset. -/
def linkResetStep (p : Nat) (cause : LinkCause) (s : State) : State := match cause with
  | .en => lpCtlWrite .host p 0 s
  | .phy => phyStep p false s
  | .frame => badFrame p s
  | .silence => silenceStep p s
  | .sbAlive => aliveStep p s
def execLinkReset (p : Fin 4) (cause : LinkCause) (s : State) : Out := .next (if s.clk.mainRst then s else linkResetStep p cause s)

/-- R371: bring-up starts again once the cause has ended 64 ticks ago. -/
def resetReleaseStep (p : Nat) (s : State) : State :=
  let x := s.lport p
  match x.rstEnd with
  | some t => if s.bit (lpOff p) 31 && x.phy && decide (t ≤ s.clk.tb) then s.bringUp p else s
  | none => s
def execLinkResetRelease (p : Fin 4) (s : State) : Out := .next (if s.clk.mainRst then s else resetReleaseStep p s)

/-- R371: a port that has sent nothing for 4,096 ticks sends a CREDIT frame. -/
def keepaliveStep (p : Nat) (s : State) : State :=
  let x := s.lport p
  if 2 ≤ x.st ∧ x.lastTx + 4096 ≤ s.clk.tb then s.enqueue p (s.frame 5 x.far 0 []) else s
def execLinkKeepalive (p : Fin 4) (s : State) : Out := .next (if s.clk.mainRst then s else keepaliveStep p s)

/-- R372: a port in HELLO sends a HELLO every 1,024 ticks. -/
def helloSendStep (p : Nat) (s : State) : State :=
  let x := s.lport p
  let due := match x.lastHello with
    | some t => decide (t + 1024 ≤ s.clk.tb)
    | none => true
  if x.st == 2 && due then s.sendHello p else s
def execHelloSend (p : Fin 4) (s : State) : Out := .next (if s.clk.mainRst then s else helloSendStep p s)

/-! ## Frames received -/

/-- R371: a frame of a type arrives on a port; one of another type or on a port that carries nothing is no such event, and an invalid
one resets the port. -/
def rxFrame (t p : Nat) (f : Frame) (body : State → State) (s : State) : State :=
  if s.clk.mainRst || decide ((s.lport p).st < 2) || f.typ != t then s
  else if !f.ok then s.portReset p 2
  else body (s.received p f)

/-- A frame is discarded and counted in LP_DROP. -/
def State.dropFrame (s : State) (p : Nat) : State :=
  let x := s.lport p
  s.setLport p { x with drop := satInc 0xFFFFFFFF x.drop }

/-- R373: a port carries a frame: RFWD and RACK pass no port of version 1.0. -/
def State.mayPass (s : State) (p : Nat) (f : Frame) : Bool := !(f.typ == 0xB || f.typ == 0xC) || (s.lport p).lver == 0x0101

/-- R379, R380: a frame that is routed by its destination arrives: it is delivered here, goes on, or is discarded. -/
def routed (t p : Nat) (f : Frame) (here : State → State) (s : State) : State :=
  rxFrame t p f (fun s =>
    if !(s.lport p).carries || (t == 7 && !s.casc.rooted) || !s.mayPass p f then s.dropFrame p
    else match s.route f.dst with
      | .here => here s
      | .port q => if s.mayPass q f then s.enqueue q f else s.dropFrame p
      | .drop => s.dropFrame p) s

/-- R374: the far side's HELLO settles a pair of a version in common. -/
def State.settlePair (s : State) (p : Nat) (rooted : Bool) (tag : Nat) : State :=
  let x := s.lport p
  if s.casc.rooted && rooted then
    if tag = s.casc.tag then (s.portState p 8).cascEntry 0x0803 x.far p x.far 0
    else ((s.sendRefuse p 0x0901).portState p 7).cascEntry 0x0802 x.far p tag s.casc.tag
  else s.portState p (if s.casc.rooted then 6 else 3)

/-- R373, R374: HELLO is received; one that meets a port beyond WAIT and PENDING changes nothing. -/
def helloStep (p : Nat) (f : Frame) (s : State) : State :=
  let x := s.lport p
  if x.st = 2 ∨ x.st = 3 ∨ x.st = 6 then
    let b := f.b 0
    let ver := s.reg (lpOff p + 4)
    let s0 := if x.lastHello.isNone then s.sendHello p else s
    let s1 := s0.setLport p { s0.lport p with
      far := if b.getLsbD 34 then bits b 36 12 else 0
      farHello := some (b.getLsbD 32, b.getLsbD 34, bits (f.b 1) 0 32) }
    match linkVer (bits ver 0 16) (bits ver 16 16) (bits b 0 16) (bits b 16 16) with
    | none => ((s1.sendRefuse p 0x0902).portState p 9).cascEntry 0x0804 (s1.lport p).far p (bits b 0 16) (bits b 16 16)
    | some v => (s1.setLport p { s1.lport p with lver := v }).settlePair p (b.getLsbD 32) (bits (f.b 1) 0 32)
  else s
def execHello (p : Fin 4) (f : Frame) (s : State) : Out := .next (rxFrame 1 p f (helloStep p f) s)

/-- R393: a member asks to forward the record it holds. -/
def State.askFwd (s : State) : State :=
  if s.casc.fwdRec.isSome && s.casc.rooted && !s.casc.master && (s.lport s.casc.up).lver == 0x0101 then
    s.sendTo (s.frame 0xB 0 0 [])
  else s

/-- R377: the routes of a node are discarded, and the messages routed under them. -/
def clearRoutes (s : State) (p : Nat) : State :=
  let x := s.lport p
  s.setLport p { x with
    lo := 1
    hi := 0
    tx := dropIf (fun q => q.1.typ == 7) x.tx }

/-- R391: an orphan abort is reported again. -/
def State.orphanAgain (s : State) : State := match s.casc.orphan with
  | some id => (s.setCasc { s.casc with orphan := none }).cascEntry 0x080B s.casc.node id id 0
  | none => s

/-- R377: the node takes an ASSIGN on port p. -/
def State.takeAssign (s : State) (p : Nat) (f : Frame) : State :=
  let b := f.b 0
  let s1 := (List.range 4).foldl clearRoutes s
  let s2 := (s1.setLport p { s1.lport p with far := f.src }).setCasc { (s1.setLport p { s1.lport p with far := f.src }).casc with
    rooted := true
    assigned := true
    up := p
    node := bits b 0 12
    depth := bits b 12 4
    sweepSeq := bits b 16 16
    tag := bits (f.b 1) 0 32 }
  ((s2.portState p 4).orphanAgain.sweepFrom 0 { up := some p, wait := 0, next := bits b 0 12 + 1 }).askFwd

/-- R376 to R378: ASSIGN is received. -/
def assignStep (p : Nat) (f : Frame) (s : State) : State :=
  let b := f.b 0
  let st := (s.lport p).st
  if st ≠ 3 ∧ st ≠ 4 ∧ st ≠ 5 ∧ st ≠ 6 then s
  else if s.casc.master then
    (s.sendRefuse p 0x0901).cascEntry 0x0802 f.src p (bits (f.b 1) 0 32) s.casc.tag
  else if bits b 12 4 = 0 ∨ bits b 0 12 = 0 then s.sendRefuse p 0x0903
  else if s.casc.rooted ∧ (p ≠ s.casc.up ∨ st ≠ 4) then s.sendRefuse p 0x0901
  else s.takeAssign p f
def execAssign (p : Fin 4) (f : Frame) (s : State) : Out := .next (rxFrame 2 p f (assignStep p f) s)

/-- R377: DONE is received: the range of the port that a sweep waits for, or the node count from upstream. -/
def doneStep (p : Nat) (f : Frame) (s : State) : State :=
  let n := bits (f.b 0) 0 13
  if f.arg.testBit 29 then
    if (s.lport p).st = 4 then (s.setCasc { s.casc with nodes := n }).sendNodes else s
  else match s.casc.sweep with
    | some w =>
      if w.wait = p ∧ s.sweepsTo p = true then
        let s1 := s.setLport p { s.lport p with
          lo := w.next
          hi := n - 1
          far := w.next }
        (s1.portState p 5).sweepOn p n
      else s
    | none => s
def execDone (p : Fin 4) (f : Frame) (s : State) : Out := .next (rxFrame 3 p f (doneStep p f) s)

/-- R373, R377, R378: a refusal puts a port into a state that it leaves only through a reset, and a sweep goes on. -/
def State.refusedTo (s : State) (p st : Nat) : State :=
  let s1 := s.portState p st
  let s2 := if (s.lport p).st = 4 then s1.unroot else s1
  s2.sweepOn p s2.sweepNumber

/-- R373, R374, R376, R377, R378: REFUSE is received; a port in CONFLICT or LOOP leaves that state only through LINK[n] reset. -/
def refuseStep (p : Nat) (f : Frame) (s : State) : State :=
  let code := bits (f.b 0) 0 16
  let node := bits (f.b 0) 16 12
  let x := s.lport p
  if x.st = 7 ∨ x.st = 8 then s
  else if code = 0x0902 then (if x.st = 9 then s else (s.cascEntry 0x0804 node p 0 0).refusedTo p 9)
  else if code = 0x0903 then (s.cascEntry 0x0805 node p node 0).refusedTo p 10
  else if code = 0x0901 then (s.cascEntry 0x0802 node p ((x.farHello.map (·.2.2)).getD 0) s.casc.tag).refusedTo p 7
  else s
def execRefuse (p : Fin 4) (f : Frame) (s : State) : Out := .next (rxFrame 4 p f (refuseStep p f) s)

/-- R381: CREDIT is received. -/
def creditStep (p : Nat) (f : Frame) (s : State) : State :=
  let x := s.lport p
  let x1 := iter (fun tc (x : LPort) => { x with cred := tabSet 0 x.cred tc (tabGet 0 x.cred tc - f.arg / 2 ^ (8 * tc) % 256) }) 3 x
  s.setLport p (pumpPort s.clk.tb (x1.tx.length + 1) x1)
def execCredit (p : Fin 4) (f : Frame) (s : State) : Out := .next (rxFrame 5 p f (creditStep p f) s)

/-- R381: credits are returned once 8 words of a class are free, or 64 ticks after a word was freed. -/
def creditReturnStep (p : Nat) (s : State) : State :=
  let x := s.lport p
  let n (tc : Nat) : Nat := min 255 (tabGet 0 x.freed tc)
  if x.st < 2 ∨ x.freed = [] then s
  else if (x.freed.any fun q => decide (8 ≤ q.2)) || decide (x.freedAt + 64 ≤ s.clk.tb) then
    (s.setLport p { x with freed := [] }).enqueue p (s.frame 5 x.far (n 0 + n 1 * 2 ^ 8 + n 2 * 2 ^ 16) [])
  else s
def execCreditReturn (p : Fin 4) (s : State) : Out := .next (if s.clk.mainRst then s else creditReturnStep p s)

/-! ## Time alignment (R385 to R387) -/

/-- R369: SB_SYNC of a port is set up. -/
def State.syncPin (s : State) (p : Nat) : Bool := s.funcOf 0 (2 * p) == 14

/-- R386: a port takes part in time alignment. -/
def LPort.syncs (x : LPort) : Bool := x.st == 3 || x.st == 4 || x.st == 5 || x.st == 6

/-- R386, R387: a pulse of the parent at even multiples of 65,536 ticks, of the child at odd ones; none in LF mode. -/
def syncPulseStep (p : Nat) (s : State) : State :=
  let x := s.lport p
  let odd := x.st == 4
  if x.syncs && s.syncPin p && !s.clk.lfMode && s.clk.tb % 65536 == 0 && (s.clk.tb / 65536 % 2 == 1) == odd && x.pulse != some s.clk.tb then
    (s.setLport p { x with pulse := some s.clk.tb }).pull (2 * p) 16
  else s
def execSyncPulse (p : Fin 4) (s : State) : Out := .next (if s.clk.mainRst then s else syncPulseStep p s)

/-- R386: the far side's pulse is captured, and reported. -/
def syncCaptureStep (p : Nat) (s : State) : State :=
  let x := s.lport p
  if x.syncs && s.syncPin p && (s.ieMask 0).getLsbD (2 * p) && !s.clk.lfMode then (s.setLport p { x with capt := some s.clk.tb }).sendSync p else s
def execSyncCapture (p : Fin 4) (s : State) : Out := .next (if s.clk.mainRst then s else syncCaptureStep p s)

/-- R386: δ of a child from its capture c, the parent's pulse P, its own pulse Q and the parent's capture q. -/
def syncDelta (c pp q qq : Nat) : Int := (((c : Int) - pp) - ((q : Int) - qq)).tdiv 2

/-- R387: a measurement: TIME_OK, the drift of the interval and the corrections of the next one. How the drift of two intervals is
taken is not stated (DEDUCED, log entry 15). -/
def State.measure (s : State) (d : Int) : State :=
  let c := s.casc
  let drift := match c.deltaPrev with
    | some _ => d - (c.delta - c.corrDone)
    | none => if c.lastMeas.isSome then d - (c.delta - c.corrDone) else 0
  let n := d + (drift + c.drift).tdiv 2
  let s1 := s.setCasc { c with
    delta := d
    deltaPrev := if c.lastMeas.isSome then some c.delta else none
    corrDone := 0
    corrLeft := n
    corrStep := if n = 0 then 0 else max 4096 (131072 / n.natAbs)
    lastCorr := some s.clk.tb
    lastMeas := some s.clk.tb
    drift := drift }
  if d.natAbs ≤ 1 then (if c.lastMeas.isSome && decide (c.delta.natAbs ≤ 1) then s1.setTimeOk true else s1) else s1.setTimeOk false

/-- R386: SYNC is received; only the child of the pair measures. -/
def syncStep (p : Nat) (f : Frame) (s : State) : State :=
  let x := s.lport p
  if x.st ≠ 4 then s
  else if !f.arg.testBit 29 then (s.portState p 3).unroot
  else match x.capt, x.pulse with
    | some c, some q => s.measure (syncDelta c (f.b 1).toNat (f.b 0).toNat q)
    | _, _ => s
def execSync (p : Fin 4) (f : Frame) (s : State) : Out := .next (rxFrame 6 p f (syncStep p f) s)

/-- R387: the next correction is due. -/
def Casc.corrDue (c : Casc) (tb : Nat) : Bool := c.rooted && !c.master && c.corrLeft != 0 && match c.lastCorr with
  | some t => decide (t + c.corrStep ≤ tb)
  | none => false

/-- R44: an entry at the tick that TB skips is performed at the following tick, with its own eighth. -/
def TPort.skipTick (t : Nat) (p : TPort) : TPort :=
  let on (k : Nat) : Nat := if k = t then t + 1 else k
  { p with ktick := on p.ktick, queue := p.queue.map fun e => { e with ktick := on e.ktick } }

/-- R44, R387: TB repeats a value or skips one. -/
def correctionStep (s : State) : State :=
  let c := s.casc
  if !s.running || !c.corrDue s.clk.tb then s
  else
    let rep := decide (0 < c.corrLeft)
    let s1 := s.setCasc { c with
      repeats := if rep then satInc 0xFFFF c.repeats else c.repeats
      skips := if rep then c.skips else satInc 0xFFFF c.skips
      corrLeft := if rep then c.corrLeft - 1 else c.corrLeft + 1
      corrDone := if rep then c.corrDone + 1 else c.corrDone - 1
      lastCorr := some s.clk.tb }
    let s2 := if rep then s1 else { s1 with ports := tabMap {} (fun _ => true) (TPort.skipTick (s.clk.tb + 1)) s1.ports }
    { s2 with clk := { s2.clk with tb := (s.clk.tb + if rep then 0 else 2) % 2 ^ 64 } }
def execTimeCorrection (s : State) : Out := .next (correctionStep s)

/-- R387: no pulse has been captured in 4 consecutive periods. -/
def State.syncLost (s : State) : Bool := match (s.lport s.casc.up).capt with
  | some t => decide (t + 4 * 131072 < s.clk.tb)
  | none => true

/-- CASC_TIME. -/
def State.cascTime (s : State) : Word :=
  let c := s.casc
  let d := max (-32768) (min 32767 c.delta)
  let cause := if c.master then 5 else if !c.rooted then 1 else if s.clk.lfMode then 4 else if s.syncLost then 2
    else if c.timeOk then 0 else 3
  setBits (BitVec.ofNat 32 cause) 16 16 (d % 65536).toNat

/-! ## Messages and the cascade Freeze -/

def execMsg (p : Fin 4) (f : Frame) (s : State) : Out := .next (routed 7 p f (msgHere f) s)
def execAck (p : Fin 4) (f : Frame) (s : State) : Out := .next (routed 8 p f (ackHere f) s)

/-- R370: a CFRZ frame of a kind arrives, from upstream or from downstream. -/
def cfFrame (sub p : Nat) (f : Frame) (up : Bool) (body : State → State) (s : State) : State :=
  if f.arg / 2 ^ 27 % 8 ≠ sub then s
  else routed 9 p f (fun s => if (s.lport p).st = (if up then 4 else 5) then body s else s) s
def execCfrzPrepare (p : Fin 4) (f : Frame) (s : State) : Out := .next (cfFrame 0 p f true (cfPrepare p f) s)
def execCfrzVote (p : Fin 4) (f : Frame) (s : State) : Out := .next (cfFrame 1 p f false (cfVote p f) s)
def execCfrzDrain (p : Fin 4) (f : Frame) (s : State) : Out := .next (cfFrame 2 p f true (cfDrain f) s)
def execCfrzDrained (p : Fin 4) (f : Frame) (s : State) : Out := .next (cfFrame 3 p f false (cfDrained p f) s)
def execCfrzCommit (p : Fin 4) (f : Frame) (s : State) : Out := .next (cfFrame 4 p f true (cfCommit f) s)
def execCfrzAbort (p : Fin 4) (f : Frame) (s : State) : Out := .next (cfFrame 5 p f true (cfAbort f) s)
def execCfrzVoteLimit (s : State) : Out := .next (if s.clk.mainRst then s else cfVoteLimit s)
def execCfrzOrphan (s : State) : Out := .next (if s.clk.mainRst then s else cfOrphan s)

/-! ## Boot records across the cascade (R392, R393) -/

/-- R392: RCLOSE(C) goes down the tree. -/
def State.sendClose (s : State) (c : Nat) : State :=
  s.downPorts.foldl (fun s p => s.enqueue p (s.frame 0xA (s.lport p).far 0 [dw c])) s

/-- R260, R392: a close is requested; one more request before C changes nothing. Gives the code of a refusal. -/
def State.askClose (s : State) : Option Nat × State :=
  if s.meas.closing then (some 0x0B03, s)
  else if s.meas.closePend then (none, s)
  else if s.cascadeClose then
    let c := s.clk.tb + s.cfLead
    (none, (s.setMeas { s.meas with
      closePend := true
      closeAt := some c }).sendClose c)
  else (none, s.setMeas { s.meas with closePend := true })

/-- A write of GM_CTL. -/
def gmCtlWrite (src : Src) (v : Word) (s : State) : State :=
  if !v.getLsbD 0 then s
  else match s.askClose with
    | (some code, s1) => s1.refuse src 0x33400 code 0
    | (none, s1) => s1
def execGmClose (s : State) : Out := .next (if s.clk.mainRst then s else gmCtlWrite .host 1 s)

/-- R288: the REC_CLOSE commands that wait for a close end with it: with the record's SEQ and C, or with a refusal's code. -/
def endRecClose (seq c code : Nat) : Nat → State → State
  | 0, s => s
  | f + 1, s => match (s.ses 0).cmds.findIdx? fun x => x.opcode == 0x30 && x.started with
    | some i => endRecClose seq c code f (if code = 0 then
        s.answerCmd 0 i { opcode := 0x30, result := leBytes 4 seq ++ leBytes 8 c }
      else s.failCmd 0 i code)
    | none => s

/-- R260, R392: the close that is due: its C, and whether it answers this node's own request. A member's own request and a cascade close
may wait together. -/
def State.closeDue (s : State) : Option (Nat × Bool) :=
  let m := s.meas
  let own := m.closePend && !(s.casc.master && m.closeAt.isSome)
  match m.closeAt with
  | some c => if Nat.ble c s.clk.tb then some (c, s.casc.master && m.closePend) else if own then some (s.clk.tb, true) else none
  | none => if own then some (s.clk.tb, true) else none

/-- R260: the close tick C has come; a node that is closing refuses the close (R265, R392). -/
def recordCloseStep (fill : MorEntry → MorEntry) (s : State) : State :=
  let m := s.meas
  let k := (s.ses 0).cmds.length
  match s.closeDue with
  | none => s
  | some (c, own) =>
    let s1 := s.setMeas { m with
      closePend := m.closePend && !own
      closeAt := if own && !s.casc.master then m.closeAt else none }
    let s2 := if m.closing then s1.refuse .host 0x33400 0x0B03 0 else s1.closeRecord c fill
    if own then endRecClose m.seq c (if m.closing then 0x0B03 else 0) k s2 else s2

/-- R392: RCLOSE is received. -/
def rcloseStep (p : Nat) (f : Frame) (s : State) : State :=
  let c := (f.b 0).toNat
  if (s.lport p).st ≠ 4 then s
  else
    let s1 := s.sendClose c
    if s1.meas.closeAt.isSome then s1 else s1.setMeas { s1.meas with closeAt := some c }
def execRclose (p : Fin 4) (f : Frame) (s : State) : Out := .next (routed 0xA p f (rcloseStep p f) s)

/-- R262, R393: signing ends; a member forwards the record. -/
def signAndForward (key : Option Digest) (fill : MorEntry → MorEntry) (s : State) : State :=
  let s1 := signStep key fill s
  match s.meas.ring, s1.meas.ring with
  | none, some (_, rb) =>
    let c := s1.casc
    if !c.master && c.role != 0 && c.role != 3 && s1.bit 0x50000 29 && (s1.lport c.up).lver != 0x0100 then
      (s1.setCasc { c with fwdRec := some rb }).askFwd
    else s1
  | _, _ => s1

/-- R261: SEQ and NODE of a record. -/
def recSeq (rb : List Byte) : Nat := hdr rb 12 4
def recNodeOf (rb : List Byte) : Nat := hdr rb 24 2

/-- R393: the data frames of a record from offset `o` on, in units of 64 bytes. -/
def sendRec (o : Nat) : Nat → List Byte → State → State
  | 0, _, s => s
  | f + 1, l, s =>
    if l = [] then s
    else
      let b := l.take 64
      sendRec (o + 1) f (l.drop 64) (s.sendTo (s.frame 0xB 0 (2 ^ 29 + o) ((List.range ((b.length + 7) / 8)).map fun i => dw (hdr b (8 * i) 8))))

/-- R393: the bytes of a data frame. -/
def bodyBytes (l : List DWord) : List Byte := l.flatMap fun d => leBytes 8 d.toNat

/-- R393: a forward whose record is whole is queued as a notice, or ends with it where the queue is full. -/
def State.fwdWhole (s : State) (f : Fwd) : State :=
  if f.data.length < 12 ∨ f.data.length < hdr f.data 8 4 then s
  else
    let rb := f.data.take (hdr f.data 8 4)
    let full := decide (64 ≤ s.host.notices.length)
    let s1 := s.queueNotice (bootNotice (recSeq rb) rb)
    if full then (s1.setCasc { s1.casc with fwds := dropIf (fun g => g.node == f.node) s1.casc.fwds }).grantFwd else s1

/-- R393: RFWD is received on the master: a request, or the next part of a record. -/
def rfwdStep (f : Frame) (s : State) : State :=
  let l := s.casc.fwds
  if !s.casc.master then s
  else if !f.arg.testBit 29 then
    (s.setCasc { s.casc with fwds := dropIf (fun g => g.node == f.src) l ++ [{ node := f.src }] }).grantFwd
  else match l.find? fun g => g.node == f.src && g.granted with
    | some g =>
      if g.data.length ≠ 64 * (f.arg % 2 ^ 16) then s
      else
        let g1 := { g with data := g.data ++ bodyBytes f.body }
        (s.setCasc { s.casc with fwds := l.map fun x => if x.node = g.node then g1 else x }).fwdWhole g1
    | none => s
def execRfwd (p : Fin 4) (f : Frame) (s : State) : Out := .next (routed 0xB p f (rfwdStep f) s)

/-- R393: RACK is received: a grant, or the delivery of the record. -/
def rackStep (f : Frame) (s : State) : State := match s.casc.fwdRec with
  | none => s
  | some rb =>
    if f.arg.testBit 29 then (if recSeq rb = bits (f.b 0) 0 32 then s.setCasc { s.casc with fwdRec := none } else s)
    else sendRec 0 (rb.length / 64 + 1) rb s
def execRack (p : Fin 4) (f : Frame) (s : State) : Out := .next (routed 0xC p f (rackStep f) s)

/-- R393: the forwarded record of a notice. -/
def Notice.carries (x : Notice) (g : Fwd) : Bool := x.code == 0x8003 && g.granted && g.data.take (hdr g.data 8 4) == x.payload

/-- R393: the notice of a forwarded record has been written: DONE goes to its node, and the next forward is granted. -/
def State.fwdDone (s : State) (x : Notice) : State :=
  match s.casc.fwds.find? x.carries with
  | some g =>
    let s1 := s.setCasc { s.casc with fwds := dropIf (fun h => h.node == g.node) s.casc.fwds }
    ((s1.sendTo (s1.frame 0xC g.node (2 ^ 29) [dw (recSeq x.payload)])).offer 0x080D (objWord 0xA 0 g.node)
      (BitVec.ofNat 32 (s1.portTo g.node)) (BitVec.ofNat 32 (recSeq x.payload)) (BitVec.ofNat 32 g.node)).grantFwd
  | none => s

/-- R285, R393: the notice of a forwarded record was not sent: its node waits for a grant again. -/
def State.fwdBack (s : State) (x : Notice) : State := s.setCasc { s.casc with
  fwds := s.casc.fwds.map fun g => if x.carries g then { node := g.node } else g }

/-- R300, R393: the oldest notice is written, or not sent. -/
def noticeAndDone (s : State) : State :=
  let s1 := noticeStep s
  match s.host.notices with
  | x :: _ =>
    if s1.host.notices.length < s.host.notices.length then (if s.noticeOk x then s1.fwdDone x else s1.fwdBack x) else s1
  | [] => s1
def execNoticeWrite (s : State) : Out := .next (if s.clk.mainRst then s else noticeAndDone s)

/-! ## Registers -/

/-- CASC_STS. -/
def State.cascSts (s : State) : Word :=
  let c := s.casc
  BitVec.ofNat 32 (2 ^ 31 * b2n c.master + 2 ^ 30 * b2n c.rooted + 2 ^ 29 * b2n c.assigned + 2 ^ 28 * b2n c.timeOk + c.up * 2 ^ 26
    + c.depth * 2 ^ 16 + c.node)

/-- LP_STS of a port. -/
def LPort.sts (x : LPort) : Word := BitVec.ofNat 32 (x.st * 2 ^ 28 + x.far * 2 ^ 16 + x.lver)

end Sys2Proof.Machine
end

