-- ==== Sys2Proof/Machine/Freeze.lean ====
section
/-! DEFINITION. The Freeze commands: FRZ_CTL and FRZ_LOCK, and the course of a check, commit and discard (R310 to R322). -/
namespace Sys2Proof.Machine

/-- R313, R317, R322: why a CHECK, COMMIT or DISCARD is refused. -/
def State.frzBar (s : State) (src : Src) (v : Word) : Option Nat :=
  if s.frz.holder ≠ 0 ∧ s.frz.holder ≠ srcCode src then some 0x0101
  else if s.frz.st ≠ .idle ∨ 1 < b2n (v.getLsbD 31) + b2n (v.getLsbD 30) + b2n (v.getLsbD 29) then some 0x0102
  else if v.getLsbD 30 ∧ v.getLsbD 2 ∧ s.casc.master = false then some 0x0912
  else none

/-- R312: a DISCARD begins; the region table is copied under R238. -/
def State.startDiscard (s : State) : State :=
  let s1 := s.setFrz { s.frz with st := .sync, discard := true }
  { s1 with gd := { s1.gd with sync := s1.gd.sync || s.dirty.contains regionUnit } }

/-- R319: a CHECK or COMMIT begins. A COMMIT takes CASCADE, DRAIN and AT from the write that sets it. -/
def State.startCheck (s : State) (src : Src) (v : Word) : State :=
  let z := { s.frz with st := .checking, commit := v.getLsbD 30, who := src, charged := [] }
  s.setFrz (if v.getLsbD 30 then { z with cascade := v.getLsbD 2, drain := v.getLsbD 1, atF := v.getLsbD 0 } else z)

/-- A write of FRZ_CTL: its options, then at most one command. -/
def frzCtlWrite (src : Src) (v : Word) (s : State) : State :=
  let s1 := s.setFrz { s.frz with ctl := BitVec.ofNat 3 (bits v 0 3) }
  if bits v 29 3 = 0 then s1
  else match s.frzBar src v with
    | some code => s1.refuse src 0x100 code 0
    | none =>
      if v.getLsbD 29 then s1.startDiscard
      else s1.startCheck src v
def execFreezeCheck (src : Src) (v : Word) (s : State) : Out :=
  .next (s.via src (frzCtlWrite src (v ||| 0x80000000)))
def execFreezeCommit (src : Src) (v : Word) (s : State) : Out :=
  .next (s.via src (frzCtlWrite src (v ||| 0x40000000)))
def execFreezeDiscard (src : Src) (v : Word) (s : State) : Out :=
  .next (s.via src (frzCtlWrite src (v ||| 0x20000000)))

/-- R324: the settings that a commit charges. -/
def State.charges (s : State) : List Nat := s.pfChanges.filter fun k => !(s.frz.boot && k == 0)

/-- R319: a commit whose check and charges are done chooses F, or prepares the cascade. -/
def State.frzGo (s : State) : State := if s.frz.cascade then s.cascStart else s.frzChoose

/-- R319: the check ends. -/
def checkDoneStep (start : State) : State :=
  let s := start.readStaged
  if start.frz.st ≠ .checking then start
  else match s.freezeBar with
    | some (code, d) => s.frzCheckFail code d
    | none =>
      if !s.frz.commit then s.frzEnd .checkOk 0
      else if s.charges = [] then s.frzGo
      else if s.frz.atF || s.frz.drain || s.frz.cascade then s.frzAbort 0x0803 0
      else s.setFrz { s.frz with st := .persist, charged := s.charges }
def execCheckDone (s : State) : Out := .next (if s.clk.mainRst then s else checkDoneStep s)

/-- R325: PERSIST ends. -/
def persistDoneStep (ok : Bool) (s : State) : State :=
  if s.frz.st ≠ .persist then s
  else if ok then (s.frz.charged.foldl chargeOne s).frzChoose
  else (s.setFrz { s.frz with charged := [] }).frzAbort 0x0802 0
def execPersistDone (ok : Bool) (s : State) : Out := .next (if s.clk.mainRst then s else persistDoneStep ok s)

/-- R316, R318, R390: F has come, and what falls before it has been done: the commit applies, or its drain begins. -/
def freezeApplyStep (s : State) : State :=
  if s.frz.st ≠ .armed ∨ s.clk.tb < s.frz.tick ∨ s.readyAt s.frz.tick = false then s
  else if s.frz.drain && s.casc.frz.isNone then s.setFrz { s.frz with st := .draining, drainLow := s.frz.tick }
  else s.frzApply (s.applyTick s.frz.tick)
def execFreezeApply (s : State) : Out := .next (if s.clk.mainRst then s else freezeApplyStep s)

/-- R211: the tick F′ at which a drain that is over ends. -/
def State.drainEnd (s : State) : Nat := s.applyTick s.drainTick

/-- R211: a drain of this node ends at F′. -/
def State.drainOver (s : State) : Bool :=
  s.frz.st == .draining && s.drainedNow && Nat.ble s.drainEnd s.clk.tb && Nat.ble s.drainEnd (s.frz.tick + s.drainLimit)
    && s.readyAt s.drainEnd

/-- R211, R390: every waited channel is at a boundary. -/
def drainDoneStep (s : State) : State := match s.casc.frz with
  | some z => cfOwnDrained z s
  | none => if s.drainOver then s.frzApply s.drainEnd else s
def execFreezeDrainDone (s : State) : Out := .next (if s.clk.mainRst then s else drainDoneStep s)

/-- R211: no tick up to F + FREEZE_DRAIN_LIMIT ends the drain. -/
def State.drainLate (s : State) : Bool :=
  let l := s.frz.tick + s.drainLimit
  s.frz.st == .draining && Nat.ble l s.clk.tb && !s.drainsBy l
    && (s.clk.lfMode || s.steppedTo (fun k => s.engChanges (k / 12) (k % 12)) l)

/-- R318, R390: the drain has not ended at its limit. -/
def drainLimitStep (s : State) : State := match s.casc.frz with
  | some z => cfOwnFailed z s
  | none => if s.drainLate then s.frzAbort 0x0507 0 else s
def execDrainLimit (s : State) : Out := .next (if s.clk.mainRst then s else drainLimitStep s)

/-- R209, R433: granule `g` of the Clove instruction memories lies in a staged bank. -/
def State.inStagedImem (s : State) (g : Nat) : Bool := g / 128 % 2 != b2n (s.engine (g / 256)).ibank

/-- R312, R319: every staged copy takes its live value and every dirty bit clears. -/
def State.syncStaged (s : State) : State :=
  { (s.freshGrans 4 fun _ => true).freshGrans 1 s.inStagedImem with
    staged := s.regs
    dirty := [] }

/-- R319: SYNC after an apply ends. -/
def syncDoneStep (s : State) : State :=
  if s.frz.st = .sync ∧ s.frz.discard = false then s.syncStaged.frzEnd .applied 0 else s
def execFreezeSyncDone (s : State) : Out := .next (if s.clk.mainRst then s else syncDoneStep s)

/-- R312: the DISCARD ends; LAST and LAST_CODE stand. -/
def discardDoneStep (s : State) : State :=
  if s.frz.st = .sync ∧ s.frz.discard = true then
    let s1 := s.syncStaged
    s1.setFrz { s1.frz with st := .idle, discard := false }
  else s
def execDiscardDone (s : State) : Out := .next (if s.clk.mainRst then s else discardDoneStep s)

/-- R313: a source takes a free lock. -/
def firnClaim (src : Src) (s : State) : State := if s.frz.holder = 0 then s.setFrz { s.frz with holder := srcCode src } else s
def execFirnClaim (src : Src) (s : State) : Out := .next (s.via src (firnClaim src))

/-- R313: the holder gives the lock back. -/
def firnRelease (src : Src) (s : State) : State := if s.frz.holder = srcCode src then s.setFrz { s.frz with holder := 0 } else s
def execFirnRelease (src : Src) (s : State) : Out := .next (s.via src (firnRelease src))

/-- A write of FRZ_LOCK. -/
def frzLockWrite (src : Src) (v : Word) (s : State) : State :=
  let s1 := if v.getLsbD 31 then firnClaim src s else s
  if v.getLsbD 30 then firnRelease src s1 else s1

/-! ## Registers -/

/-- FRZ_STS.STATE. -/
def frzCode : FrzState → Nat
  | .idle => 0
  | .checking => 1
  | .persist => 2
  | .armed => 3
  | .draining => 4
  | .sync => 5
  | .voted => 6

/-- FRZ_STS.LAST. -/
def lastCode : FrzLast → Nat
  | .none => 0
  | .checkOk => 1
  | .checkFail => 2
  | .applied => 3
  | .aborted => 4

/-- A word offset that FIRN_PEEK_ADDR holds. -/
def State.peekOff (s : State) : Nat := s.fld 0x130 2 19 * 4

end Sys2Proof.Machine
end

