-- ==== Sys2Proof/Machine/HostCmd.lean ====
section
/-! DEFINITION. The commands on the rings: how one starts (R281, R283, R285), and what each does (R284 to R296, R366). -/
namespace Sys2Proof.Machine

/-! ## Start -/

/-- R286: the opcodes of the admin session. -/
def adminOp (o : Nat) : Bool := decide (0x20 ≤ o)

/-- R285: the feature that an opcode needs; that of a MEM_WRITE depends on its Spans. -/
def featureOf (o : Nat) : Option Nat :=
  if o = 0x30 ∨ o = 0x31 then some 1 else if o = 0x32 then some 8 else if o = 0x41 then some 3 else none

/-- A granted feature of session k. -/
def State.has (s : State) (k bit : Nat) : Bool := (s.ses k).feat.testBit bit

/-- R283, R285: what bars an opcode in session k. -/
def State.opBar (s : State) (k o : Nat) : Option Nat :=
  if (s.ses k).st = .ready ∧ o ≠ 1 then some 0x0702
  else if adminOp o && k != 0 then some 0x0704
  else match featureOf o with
    | some b => if s.has k b then none else some 0x0703
    | none => none

/-- R281: the next command of session k starts, where its opcode is `op`. -/
def runCmd (op k : Nat) (body : Nat → Cmd → State → State) (s : State) : State :=
  match s.nextCmd k with
  | some (i, c) =>
    if s.clk.mainRst || c.opcode != op || c.bad then s
    else match s.opBar k op with
      | some code => (s.failCmd k i code).hostSettle k
      | none => (body i c s).hostSettle k
  | none => s

/-- Command i of session k completes with a status and RESULT. -/
def State.finCmd (s : State) (k i status : Nat) (result : List Byte) : State :=
  s.complete k i { opcode := 0, status := status, result := result }

/-- Command i of session k has started and waits. -/
def State.startCmd (s : State) (k i : Nat) (c : Cmd) : State := s.setCmd k i { c with started := true }

/-! ## Sessions (R284, R285, R287) -/

/-- R285: the versions, highest first. -/
def versions : List Nat := [0x0304, 0x0303, 0x0302, 0x0301, 0x0300, 0x0202, 0x0201, 0x0200]

/-- R285: the offer to a session at a version. -/
def offerOf (admin : Bool) (ver : Nat) : Nat :=
  let f (bit v : Nat) (adm : Bool) : Nat := if v ≤ ver ∧ (adm = false ∨ admin = true) then 2 ^ bit else 0
  f 0 0x0200 true + f 1 0x0200 true + f 2 0x0201 true + f 3 0x0201 true + f 4 0x0202 false + f 5 0x0300 false + f 6 0x0300 false
    + f 7 0x0301 false + f 8 0x0302 true + f 9 0x0303 true + f 10 0x0304 false

/-- R283, R285, R287: SESSION_OPEN. A held boot record is delivered, and forwards are granted, once session 0 is open. -/
def openBody (k i : Nat) (c : Cmd) (s : State) : State :=
  if (s.ses k).st ≠ .ready then s.failCmd k i 0x0708
  else match versions.find? fun v => decide (hdr c.args 16 2 ≤ v) && decide (v ≤ hdr c.args 18 2) with
    | none => s.finCmd k i 0x0701 (leBytes 2 0x0304 ++ leBytes 2 0x0200)
    | some v =>
      let feat := hdr c.args 24 8 &&& offerOf (k == 0) v
      let s1 := (s.setSes k { s.ses k with
        ver := v
        feat := feat }).moveSes k .opened
      let s2 := s1.finCmd k i 0 (leBytes 2 v ++ leBytes 2 k ++ leBytes 8 feat)
      if k = 0 then s2.deliverRec.grantFwd else s2
def execSessionOpen (k : Fin 1024) (s : State) : Out := .next (runCmd 1 k (openBody k) s)

/-- R284: SESSION_CLOSE waits until every other command of the session is answered. -/
def closeBody (k i : Nat) (c : Cmd) (s : State) : State := s.startCmd k i c
def execSessionClose (k : Fin 1024) (s : State) : Out := .next (runCmd 2 k (closeBody k) s)

/-- R286: NOP. -/
def nopBody (k i : Nat) (_ : Cmd) (s : State) : State := s.finCmd k i 0 []
def execNopCommand (k : Fin 1024) (s : State) : Out := .next (runCmd 0 k (nopBody k) s)

/-- R287: CANCEL. The answers to the receives come first, so that the place of the command moves. -/
def cancelBody (k _ : Nat) (c : Cmd) (s : State) : State :=
  let (n, s1) := s.cancelIn k (fun x => x.tag == hdr c.args 16 4) true
  match s1.nextCmd k with
  | some (j, _) => s1.finCmd k j 0 (leBytes 2 n)
  | none => s1
def execCancel (k : Fin 1024) (s : State) : Out := .next (runCmd 3 k (cancelBody k) s)

/-! ## Conduits (R291 to R296) -/

/-- R293: what bars a data command of session k on a conduit, of direction `dir`. -/
def State.cdtBar (s : State) (k dir : Nat) (c : Cmd) : Option Nat :=
  let x := s.cdt c.conduit
  if !x.bound then some 0x0721
  else if x.session ≠ k then some 0x0725
  else if x.dir ≠ dir then some 0x0724
  else none

/-- R295: a payload as words, each with the mark of the last one of its message of `wpm` words. -/
def cutWords (wpm : Nat) : Nat → Nat → List Byte → List (Word × Bool)
  | 0, _, _ => []
  | f + 1, j, l => (BitVec.ofNat 32 (leNat (l.take 4)), decide (j + 1 = wpm) || f == 0)
      :: cutWords wpm f (if j + 1 = wpm then 0 else j + 1) (l.drop 4)

/-- R295: CDT_SEND. -/
def sendBody (k i : Nat) (c : Cmd) (s : State) : State :=
  match s.cdtBar k 0 c with
  | some code => s.finCmd k i code (leBytes 4 0)
  | none =>
    (s.setCmd k i { c with
      started := true
      out := cutWords (hdr c.args 16 1) (c.plen / 4) 0 c.payload }).pump c.conduit
def execCdtSend (k : Fin 1024) (s : State) : Out := .next (runCmd 0x10 k (sendBody k) s)

/-- R284, R285, R296: CDT_RECV is posted; in CLOSING one that starts late is cancelled at once. -/
def recvBody (k i : Nat) (c : Cmd) (s : State) : State :=
  match s.cdtBar k 1 c with
  | some code => s.failCmd k i code
  | none => if (s.ses k).st = .closing then s.failCmd k i 0x0706 else s.startCmd k i c
def execCdtRecv (k : Fin 1024) (s : State) : Out := .next (runCmd 0x11 k (recvBody k) s)

/-- R291: the conduit that CDT_BIND asks for. -/
def bindOf (l : List Byte) : Conduit :=
  let kind := hdr l 16 1
  { bound := true, kind := kind, dir := hdr l 17 1, session := hdr l 18 2, node := if kind = 3 then hdr l 20 2 else 0
    span := if kind = 2 then 0 else hdr l 22 1
    unit := if kind = 1 then hdr l 23 1 * 4 + hdr l 24 1 else if kind = 2 then 0 else hdr l 23 1
    target := if kind = 2 then hdr l 25 1 else 0 }

/-- R292: a bound conduit joins the same unit. -/
def sameUnit (a b : Conduit) : Bool :=
  b.bound && a.kind == b.kind && (match a.kind with
    | 0 => a.span == b.span && a.unit == b.unit
    | 1 => a.span == b.span && a.unit == b.unit && a.dir == b.dir
    | 2 => a.target == b.target
    | _ => a.node == b.node && a.span == b.span && a.unit == b.unit)

/-- R292: KIND, DIR or a number is out of range. -/
def cdtBindBad (l : List Byte) : Bool :=
  let kind := hdr l 16 1
  decide (3 < kind) || decide (1 < hdr l 17 1) || (kind == 2 && hdr l 17 1 == 0)
    || (kind != 2 && decide (15 < hdr l 22 1))
    || ((kind == 0 || kind == 3) && decide (127 < hdr l 23 1))
    || (kind == 1 && (decide (11 < hdr l 23 1) || decide (3 < hdr l 24 1)))

/-- R285: a kind of conduit needs a feature that the session was not granted. -/
def State.kindBar (s : State) (x : Conduit) : Bool :=
  (x.kind == 1 && !s.has x.session 4) || (x.kind == 2 && !s.has x.session 6) || (x.kind == 3 && !s.has x.session 7)

/-- R292: what holds the unit of CDT_BIND: the code and the owner, the session, conduit or end. -/
def State.bindOwner (s : State) (d : Nat) (x : Conduit) : Check :=
  if (s.cdt d).bound then some (0x0118, objWord 8 0 (s.cdt d).session)
  else match s.host.cdts.find? fun y => sameUnit x y.2 with
    | some y => some (0x0119, objWord 7 0 y.1)
    | none => if x.kind = 1 then
        (s.boundEnd x.span (x.unit / 4) (x.unit % 4) (x.dir == 0)).map fun e => (0x0124, objWord 4 x.span e)
      else none

/-- R292, R309: the other refusals of CDT_BIND, by class and in the order of their table. -/
def State.bindBar (s : State) (l : List Byte) : Option Nat :=
  let x := bindOf l
  if 1024 ≤ x.session ∨ (s.ses x.session).live = false then some 0x0721
  else if cdtBindBad l then some 0x0724
  else if s.kindBar x then some 0x0703
  else if x.kind = 3 ∧ s.nodeKnown x.node = false then some 0x0905
  else none

/-- R292: the owner that a refused CDT_BIND names stands in REASON_DETAIL; REASON itself is not written (R310; DEDUCED, log entry 49). -/
def State.nameOwner (s : State) (d : Word) : State := s.setFrz { s.frz with reasonDetail := d }

/-- R291 to R293: CDT_BIND. -/
def bindBody (i : Nat) (c : Cmd) (s : State) : State :=
  match s.bindOwner c.conduit (bindOf c.args) with
  | some (code, d) => (s.nameOwner d).failCmd 0 i code
  | none => match s.bindBar c.args with
  | some code => s.failCmd 0 i code
  | none =>
    let s1 := s.setCdt c.conduit (bindOf c.args)
    (if s1.attached c.conduit then s1.hostEvent c.conduit else s1).finCmd 0 i 0 []
def execCdtBind (k : Fin 1024) (s : State) : Out := .next (runCmd 0x20 k bindBody s)

/-- R293, R294: CDT_UNBIND starts; it ends once no CDT_SEND is in progress on the conduit. -/
def unbindBody (i : Nat) (c : Cmd) (s : State) : State :=
  if !(s.cdt c.conduit).bound then s.failCmd 0 i 0x0721
  else if s.sending c.conduit then s.startCmd 0 i c
  else (s.startCmd 0 i c).endUnbind i c
def execCdtUnbind (k : Fin 1024) (s : State) : Out := .next (runCmd 0x21 k unbindBody s)

/-! ## Records (R288) -/

/-- R288: REC_CLOSE waits for the close tick. -/
def recCloseBody (i : Nat) (c : Cmd) (s : State) : State := match s.askClose with
  | (some code, s1) => s1.failCmd 0 i code
  | (none, s1) => s1.startCmd 0 i c
def execRecClose (k : Fin 1024) (s : State) : Out := .next (runCmd 0x30 k recCloseBody s)

/-- Flash bytes from `a` on. -/
def State.flashBytes (s : State) (a k : Nat) : List Byte := (List.range k).map fun i => s.flashByte (a + i)

/-- R264: the record of SEQ in its ring slot, where the slot is valid and holds it. -/
def State.ringRec (s : State) (seq : Nat) : Option (List Byte) :=
  let a := s.ringSlot seq
  let len := leNat (s.flashBytes (a + 8) 4)
  if s.flashDw (a + 0x1FF8) = seq * 2 ^ 32 + 0x43525856 ∧ s.flashBytes a 6 = [0x56, 0x58, 0x42, 0x52, 1, 0]
    ∧ leNat (s.flashBytes (a + 12) 4) = seq ∧ len ≤ 0x1FF8 then some (s.flashBytes a len)
  else none

/-- R288: REC_READ. -/
def recReadBody (i : Nat) (c : Cmd) (s : State) : State :=
  let seq := hdr c.args 16 4
  let frag := hdr c.args 20 1
  match s.ringRec seq with
  | some rb => s.complete 0 i { opcode := 0, result := leBytes 4 seq ++ leBytes 2 rb.length ++ leBytes 1 frag, payload := recFrag rb frag }
  | none => s.failCmd 0 i 0x0B04
def execRecRead (k : Fin 1024) (s : State) : Out := .next (runCmd 0x31 k recReadBody s)

/-- MOR_OLDEST. -/
def State.morOldest (s : State) : Nat := match s.mor.log with
  | (q, _) :: _ => q
  | [] => s.mor.next

/-- R366: MOR_READ. -/
def morReadBody (i : Nat) (c : Cmd) (s : State) : State :=
  let from_ := hdr c.args 16 4
  let s1 := if hdr c.args 21 1 = 1 then s.morAckTo (hdr c.args 24 4) else s
  let l := ((s1.mor.log.filter fun e => decide (from_ ≤ e.1)).take (hdr c.args 20 1))
  let first := match l with
    | (q, _) :: _ => q
    | [] => from_
  l.foldl (fun s e => s.noteExport e.1) (s1.complete 0 i {
    opcode := 0
    result := leBytes 4 first ++ leBytes 2 l.length ++ leBytes 2 0 ++ leBytes 4 s1.morOldest ++ leBytes 4 s1.mor.next
      ++ leBytes 4 s1.mor.ack
    payload := l.flatMap fun e => e.2.bytes })
def execMorRead (k : Fin 1024) (s : State) : Out := .next (runCmd 0x32 k morReadBody s)

/-! ## Span memory (R289, R290) -/

/-- R289: an address or a range of Span memory is not valid. -/
def rangeBad (addr len : Nat) : Bool := addr % 8 != 0 || decide (2 ^ 20 < addr + len)

/-- R289: the granules of a range are written. -/
def putGrans (n : Nat) : Nat → Nat → List Byte → State → State
  | 0, _, _, s => s
  | f + 1, a, l, s => putGrans n f (a + 8) (l.drop 8) (s.fabricWrite n 8 a (leNat (l.take 8)))

/-- R290: a MEM_WRITE to the named Spans: the mask of the parts done, and the state. -/
def writeParts (spans addr : Nat) (l : List Byte) (s : State) : Nat × State :=
  iter (fun n (r : Nat × State) =>
    if !spans.testBit n || r.2.inRst n then r else (r.1 + 2 ^ n, putGrans n (l.length / 8) addr l r.2)) 16 (0, s)

/-- R289, R290: MEM_WRITE. -/
def memWriteBody (i : Nat) (c : Cmd) (s : State) : State :=
  let spans := hdr c.args 16 2
  let addr := hdr c.args 20 4
  if !s.has 0 (if countBelow (spans.testBit ·) 16 = 1 then 3 else 9) then s.failCmd 0 i 0x0703
  else if rangeBad addr c.plen then s.failCmd 0 i 0x0731
  else
    let (done, s1) := writeParts spans addr c.payload s
    let (status, code) := if done = spans then (0, 0) else if done = 0 then (0x0730, 0x0730) else (0x0707, 0x0730)
    s1.complete 0 i { opcode := 0, status := status, parts := spans, done := done, result := leBytes 2 code }
def execMemWrite (k : Fin 1024) (s : State) : Out := .next (runCmd 0x40 k memWriteBody s)

/-- R289, R433: the bytes of a range; those of an uncorrectable granule read as ones. -/
def getGrans (n : Nat) : Nat → Nat → State → List Byte × State
  | 0, _, s => ([], s)
  | f + 1, a, s =>
    let (ok, s1) := (s.fabricTurn n a).readGran 0 (spanGran n a) n a
    let (l, s2) := getGrans n f (a + 8) s1
    ((if ok then leBytes 8 (s1.memRead n a 8) else leBytes 8 (2 ^ 64 - 1)) ++ l, s2)

/-- R289: MEM_READ. -/
def memReadBody (i : Nat) (c : Cmd) (s : State) : State :=
  let n := hdr c.args 16 1
  let addr := hdr c.args 20 4
  let len := hdr c.args 24 2
  if rangeBad addr len then s.failCmd 0 i 0x0731
  else if s.inRst n then s.failCmd 0 i 0x0730
  else
    let (l, s1) := getGrans n (len / 8) addr s
    s1.complete 0 i { opcode := 0, payload := l }
def execMemRead (k : Fin 1024) (s : State) : Out := .next (runCmd 0x41 k memReadBody s)

end Sys2Proof.Machine
end

