-- ==== Sys2Proof/Machine/OptionArea.lean ====
section
/-! DEFINITION. The option write (R410), readout protection (R411 to R414) and the registers of the flash port (R395 to R399). -/
namespace Sys2Proof.Machine

def State.setOptn (s : State) (o : OptSt) : State := { s with optn := o }

/-! ## Option write (R410) -/

/-- R410: the option write ends with a code. -/
def State.optEnd (s : State) (code : Nat) : State :=
  (s.setOptn { s.optn with
    writing := none
    done := true
    code := code }).offer 0x0604 0 (BitVec.ofNat 32 code) 0 0

/-- R410: the option write is refused. -/
def State.optRefuse (s : State) (src : Src) (code : Nat) : State := (s.refuse src 0x60020 code 0).optEnd code

/-- R410: the 840 bytes that OPT_SRC names. -/
def State.optSource (s : State) : List Byte :=
  let n := s.fld 0x60024 20 4
  let a := s.fld 0x60024 3 17 * 8
  (List.range 840).map fun i => s.memByte n (a + i)

/-- R433: the granules of the source are read; one that is uncorrectable fails the check (DESIGN CHOICE, log entry 12). -/
def State.optSourceRead (s : State) : Bool × State :=
  let n := s.fld 0x60024 20 4
  let a := s.fld 0x60024 3 17 * 8
  iter (fun i r =>
    let (good, s1) := (r.2.fabricTurn n (a + 8 * i)).readGrans n (a + 8 * i) 8
    (r.1 && good, s1)) 105 (true, s)

/-- R410: the 896 bytes to be programmed. -/
def optImage (l : List Byte) : List Byte := l ++ sha384Bytes l ++ leBytes 8 0

/-- A write of OPT_CTL. -/
def optCtlWrite (src : Src) (v : Word) (s : State) : State :=
  if bits v 16 16 ≠ 0x4F50 ∨ v.getLsbD 0 = false ∨ s.optn.writing.isSome then s
  else if 1 ≤ s.optn.level then s.optRefuse src 0x0A02
  else
    let l := s.optSource
    let (good, s1) := s.optSourceRead
    if !good || !optMagic l || !optFieldsOk l then s1.optRefuse src 0x0A01
    else s1.setOptn { s1.optn with
      writing := some (optImage l)
      writer := src
      done := false
      code := 0 }
def execOptionWrite (v : Word) (s : State) : Out := .next (if s.clk.mainRst then s else optCtlWrite .host v s)

/-- R410: the erase, program and verify of OA0 end. -/
def optDoneStep (ok : Bool) (s : State) : State := match s.optn.writing with
  | none => s
  | some l =>
    let s1 := { s with
      opt := tabDrop (fun a => decide (a < 0x2000)) s.opt
      upset := tabDrop (fun k => decide (16 * 2 ^ 32 ≤ k) && decide (k < 16 * 2 ^ 32 + 1024)) s.upset }
    if ok then (s1.optPut 0 896 (leNat l)).optEnd 0 else (iter optFree 112 s1).optRefuse s.optn.writer 0x0A07
def execOptionWriteDone (ok : Bool) (s : State) : Out := .next (if s.clk.mainRst then s else optDoneStep ok s)

/-! ## Readout protection (R412, R413) -/

/-- The first free record of OA2. -/
def State.oa2Free (s : State) : Option Nat := findBelow 512 fun i => s.optDw (0x4000 + 16 * i) == 2 ^ 64 - 1

/-- A record of OA2 is appended. -/
def State.oa2Put (s : State) (i level used : Nat) : State :=
  s.optPut (0x4000 + 16 * i) 8 (0x52 * 2 ^ 56 + used * 2 ^ 48 + level * 2 ^ 40 + s.clk.lf % 2 ^ 40)

/-- R412, R413: a change of the level begins. -/
def State.rdpBegin (s : State) (i level used : Nat) (lower : Bool) : State :=
  let s1 := s.offer 0x0606 0 (BitVec.ofNat 32 s.optn.level) (BitVec.ofNat 32 level) (BitVec.ofNat 32 used)
  (s1.oa2Put i level used).setOptn { s1.optn with changing := some (level, lower) }

/-- A SPAN[n] reset that holds until MAIN reset. -/
def holdSpan (n : Nat) (s : State) : State :=
  let s1 := s.spanReset n
  s1.setCore n { s1.core n with rstEnd := none }

/-- R412: the level is raised. -/
def State.rdpUp (s : State) (src : Src) (level : Nat) : State := match s.oa2Free with
  | none => s.refuse src 0x60010 0x0801 0
  | some i => s.rdpBegin i level (s.pfUsed 4) false

/-- R413: the backup-ring entry of a lowering. -/
def State.rdpEntry (s : State) (level : Nat) : State := s.setBk { s.bk with
  queue := s.bk.queue ++ [(s.clk.lf, 0x20, 0, s.optn.level + level * 4 + (s.pfUsed 4 + 1) * 256)] }

/-- R413: the level is lowered. Whether the append of the OA2 record fails is free; one that fails leaves the doubleword open (log entry
13). -/
def State.rdpDown (s : State) (src : Src) (level : Nat) : State :=
  if 8 ≤ s.pfUsed 4 then s.refuse src 0x60010 0x0801 0
  else match s.oa2Free with
    | none => s.refuse src 0x60010 0x0801 0
    | some i =>
      let s1 := s.drawn.rdpEntry level
      if s.free.getLsbD 0 then (optFree (2048 + 2 * i) s1).refuse src 0x60010 0x0A07 0
      else iter holdSpan 16 (s1.rdpBegin i level (s.pfUsed 4 + 1) true)

/-- A write of RDP_CTL that may act: its key fits and no change runs. A LEVEL of 3 names no level and is ignored (DESIGN CHOICE, log
entry 13). -/
def State.rdpKey (s : State) (v : Word) : Bool :=
  bits v 16 16 == 0x5244 && s.optn.changing.isNone && bits v 0 2 != 3

/-- A write of RDP_CTL with a higher level. -/
def rdpRaiseStep (src : Src) (v : Word) (s : State) : State :=
  if s.rdpKey v && decide (s.optn.level < bits v 0 2) then s.rdpUp src (bits v 0 2) else s
def execRdpRaise (v : Word) (s : State) : Out := .next (if s.clk.mainRst then s else rdpRaiseStep .host v s)

/-- A write of RDP_CTL with a lower level. -/
def rdpLowerStep (src : Src) (v : Word) (s : State) : State :=
  if s.rdpKey v && decide (bits v 0 2 < s.optn.level) then s.rdpDown src (bits v 0 2) else s
def execRdpLower (v : Word) (s : State) : Out := .next (if s.clk.mainRst then s else rdpLowerStep .host v s)

/-- A write of RDP_CTL. -/
def rdpCtlWrite (src : Src) (v : Word) (s : State) : State :=
  if s.optn.level < bits v 0 2 then rdpRaiseStep src v s else rdpLowerStep src v s

/-- R412, R413: the change ends in MAIN reset. -/
def rdpDoneStep (s : State) : State := match s.optn.changing with
  | none => s
  | some (_, lower) =>
    let r := s.readOa2.last
    if lower then (s.mainReset 6).eraseAll r else (s.optPut (0x4000 + 16 * r + 8) 8 (oa2Mark r)).mainReset 6
def execRdpChangeDone (s : State) : Out := .next (if s.clk.mainRst then s else rdpDoneStep s)

/-! ## Registers -/

/-- FP_STS. -/
def State.fpSts (s : State) : Word :=
  BitVec.ofNat 32 (((List.range 4).map fun b => b2n (s.bankBusy b) * 2 ^ (28 + b)).sum + s.fp.fault.toNat * 2 ^ 24
    + 2 ^ 23 * b2n s.optn.bad + 2 ^ 22 * b2n s.optn.blank + (s.fp.q.length - b2n s.flashRuns.isSome))

/-- FP_ECC: a field that a 1 is written to is cleared. -/
def fpEccWrite (v : Word) (s : State) : State :=
  { s with fp := { s.fp with
    corrected := if bits v 16 16 = 0 then s.fp.corrected else 0
    uncorrectable := if bits v 0 16 = 0 then s.fp.uncorrectable else 0 } }

/-- RDP_STS. -/
def State.rdpSts (s : State) : Word := BitVec.ofNat 32 (2 ^ 31 * b2n s.optn.changing.isSome + s.optn.level)

/-- OPT_STS. -/
def State.optSts (s : State) : Word :=
  BitVec.ofNat 32 (2 ^ 31 * b2n s.optn.done + 2 ^ 30 * b2n s.optn.writing.isSome + s.optn.code)

/-- OPT_VIEW0. -/
def State.optView0 (s : State) : Word := BitVec.ofNat 32 (s.optn.blk.bootImg / 8192 * 2 ^ 20 + s.optn.blk.imgSectors * 2 ^ 7)

/-- OPT_VIEW1. -/
def State.optView1 (s : State) : Word := BitVec.ofNat 32 (s.optn.blk.role * 2 ^ 30 + s.optn.blk.ringBase)

end Sys2Proof.Machine
end

