-- ==== Sys2Proof/Machine/SpanView.lean ====
section
/-! DEFINITION. What the registers of a Span window read as where they are not plain storage: cores, threads, timed ports, channel
ends, Clove engines, pins, timers and the ownership map (R8, R9, R37, R328). -/
namespace Sys2Proof.Machine

/-- A word from fields: the low bit of each and its value. -/
def word (l : List (Nat × Nat)) : Word := BitVec.ofNat 32 ((l.map fun p => p.2 * 2 ^ p.1).sum)

/-- The mask of the threads of a Span that satisfy `p`. -/
def thrMask (p : Nat → Bool) : Nat := ((List.range 16).map fun t => b2n (p t) * 2 ^ t).sum

/-- CORE_STS. -/
def State.coreSts (s : State) (n : Nat) : Word :=
  let c := s.core n
  word [(26, c.round % 64), (16, b2n c.liveBank), (0, thrMask fun t => (s.thr (n * 16 + t)).retry.isSome)]

/-- The number of a thread state. -/
def tstCode : TState → Nat
  | .idle => 0
  | .operate => 1
  | .service => 2
  | .halted => 3

/-- THR_STS of a thread (R158). -/
def thrStsWord (t : Thread) : Word :=
  word [(30, tstCode t.st), (27, if t.park.isSome then 6 else if t.retry.isSome || t.setup.isSome then 5 else t.wait),
    (26, b2n (t.wakeable && t.st == .idle)), (25, b2n t.serac), (24, b2n t.seracDep), (16, t.waitSeq % 256), (13, t.haltCause % 8),
    (0, if t.wait = 0 then 0 else t.waitOpnd % 128)]

/-- FETCH_PARK: the threads parked on a flash bank that a FLASHOP holds. -/
def State.fetchPark (s : State) (n : Nat) : Word :=
  word [(0, thrMask fun t => match (s.thr (n * 16 + t)).park with
    | some (l, _, _) => s.lineBusy l
    | none => false)]

/-- TP_STS of a port. DEPTH counts the queue; an operation still in the crossing does not count (DESIGN CHOICE, log entry 46). -/
def tpStsWord (p : TPort) : Word := word [(24, p.lateCnt), (16, p.sqCnt), (8, p.queue.length), (0, p.recOut)]

/-- CHE_STS of an end; its store holds the staged words and the released ones (R164). -/
def cheStsWord (e : End) : Word :=
  word [(31, b2n !e.staged.isEmpty), (30, b2n e.aborted), (29, b2n e.peerErr), (24, e.staged.length), (19, e.staged.length + e.store.length),
    (15, e.buf.length)]

/-- CHE_CNT of an end. -/
def cheCntWord (e : End) : Word := word [(16, e.msgs), (0, e.drops)]

/-- CE_STS of an engine. -/
def State.ceSts (s : State) (n e : Nat) : Word :=
  let g := s.engine (n * 12 + e)
  word [(31, b2n (s.ceRunning n e)), (30, b2n g.ibank), (20, s.schedPos n e), (0, g.drej)]

/-- CHN_STS of a channel. -/
def State.chnSts (s : State) (n e c : Nat) : Word :=
  let ch := (s.chan (chanKey n e c)).landed
  word [(24, ch.pc), (16, ch.shcnt), (0, (s.chFlags n e c ch).toNat)]

/-- An owner as OWN_PIN shows it (R328). -/
def State.ownPin (s : State) (n p : Nat) : Word :=
  let f := s.funcOf n p
  if f = 14 ∨ f = 15 then word [(27, 1)]
  else ((ownerAt s.reg n p).getD 0) ||| (if f = 13 then word [(26, 1)] else 0)

/-- OWN_WSLOT of a thread and half. -/
def State.ownSlot (s : State) (n t h : Nat) : Word :=
  word ((List.range 4).flatMap fun i => match s.portOf n t (4 * h + i) with
    | some p => [(8 * i + 7, 1), (8 * i, p)]
    | none => [])

/-- A status register of thread, port, end or row index `i` of Span n. -/
def State.coreView (s : State) (r : Reg) (n i j : Nat) : Option Word :=
  match r with
  | .coreSts => some (s.coreSts n)
  | .roundCnt => some (BitVec.ofNat 32 (s.core n).round)
  | .arbCnt => some (word [(16, (s.core n).sbEntries), (0, (s.core n).retries)])
  | .thrSts => some (thrStsWord (s.thr (n * 16 + i)))
  | .thrPc => some (s.thr (n * 16 + i)).pc
  | .fetchSts => some (word [(16, (s.core n).mispredict), (0, (s.core n).lineMiss)])
  | .fetchPark => some (s.fetchPark n)
  | .tpSts => some (tpStsWord (s.port (n * 32 + i)))
  | .twGrp => some ((s.thr (n * 16 + i)).squashed.zeroExtend 32)
  | .twEvt => some (s.thr (n * 16 + i)).twEvt
  | .seracSts => some (word [(16, (s.core n).cycles), (0, (s.core n).members.toNat)])
  | .secretMapLo => some (BitVec.ofNat 32 (s.core n).secret.toNat)
  | .secretMapHi => some (BitVec.ofNat 32 ((s.core n).secret.toNat / 2 ^ 32))
  | .cheSts => some (cheStsWord (s.chEnd (n * 128 + i)))
  | .cheCnt => some (cheCntWord (s.chEnd (n * 128 + i)))
  | .ownPin => some (s.ownPin n i)
  | .ownWslot => some (s.ownSlot n i j)
  | _ => none

/-- A status register of engine `i` and channel `j` of Span n. -/
def State.cloveView (s : State) (r : Reg) (n i j : Nat) : Option Word :=
  let ch := s.chan (chanKey n i j)
  match r with
  | .ceSts => some (s.ceSts n i)
  | .chnSts => some (s.chnSts n i j)
  | .chnSh => some ch.sh
  | .chnCnt => some (word [(16, ch.cntB.toNat), (0, ch.cntA.toNat)])
  | .chnRwrap => some (word [(8, ch.rwb), (0, ch.rwe)])
  | .chnFifo => some (word [(24, ch.inF.length), (16, ch.outF.length), (0, ch.staleCnt)])
  | .chnCrcv => some ch.crcv
  | _ => none

/-- A register of the pins of bank n; what the pads of a bank bring is open where it is read (R217, R218). -/
def State.pinView (s : State) (r : Reg) (n i : Nat) : Option Word :=
  let b := s.bank n
  match r with
  | .gpioOut => some (b.gv.zeroExtend 32)
  | .gpioOutSet => some (b.gv.zeroExtend 32)
  | .gpioOutClr => some (b.gv.zeroExtend 32)
  | .gpioOe => some (b.ge.zeroExtend 32)
  | .gpioOeSet => some (b.ge.zeroExtend 32)
  | .gpioOeClr => some (b.ge.zeroExtend 32)
  | .gpioIn => some ((s.padIn n).zeroExtend 32)
  | .padBank => some (setBits (s.reg (spanOff n 0x124)) 1 1 (b2n (s.clk.sensed.getLsbD n)))
  | .rimeSts => some (word [(8, b.rimeFails), (0, b.rimeSeq)])
  | .rimeLock => some (b.rimeLock.zeroExtend 32)
  | .pinSts => some (s.pinSts n i)
  | _ => none

/-- A register of timer channel `i` of Span n. -/
def State.timerView (s : State) (r : Reg) (n i : Nat) : Option Word :=
  let t := s.timer (tmKey n i)
  match r with
  | .tmCmp => some t.cmp
  | .tmCount => some (s.tmCount n i)
  | .tmCap => some t.cap
  | .tmSts => some (s.tmSts n i)
  | _ => none

/-- The first of four answers. -/
def firstSome {α : Type} : List (Option α) → Option α
  | [] => none
  | some a :: _ => some a
  | none :: r => firstSome r

/-- A register of Span n with the indices that follow the Span's. -/
def State.spanView (s : State) (r : Reg) (n i j : Nat) : Option Word :=
  firstSome [s.coreView r n i j, s.cloveView r n i j, s.pinView r n i, s.timerView r n i]

end Sys2Proof.Machine
end

