-- ==== Sys2Proof/Machine/Peek.lean ====
section
/-! DEFINITION. What every register of the setup window reads as, without side effects (R8 to R11, R356, and the register tables of every
chapter). -/
namespace Sys2Proof.Machine

/-! ## Identity, resets, clocks and boot (00, 02, 17) -/

/-- SPAN_RST. -/
def State.spanRstWord (s : State) : Word := word [(16, ((List.range 16).map fun n => b2n (s.inRst n) * 2 ^ n).sum)]

/-- TB clocks the domains that run on it: it counts tb_clk_i, outside MAIN reset and LF mode (R30, R331). -/
def Clk.tbRuns (c : Clk) : Bool := !c.mainRst && !c.lfMode

/-- R35: TMDn is clocked: not while SPAN_EN[n] is 0 and no timer channel of the Span has EN = 1. -/
def State.tmdRuns (s : State) (n : Nat) : Bool :=
  s.clk.tbRuns && (s.spanEn n || (List.range 8).any fun k => s.bit (tmOff n k) 31)

/-- R35: the Clove step logic and timed queues of PBn are clocked: not while SPAN_EN[n] is 0. -/
def State.pbRuns (s : State) (n : Nat) : Bool := s.clk.tbRuns && s.spanEn n

/-- CLK_STS1. -/
def State.clkSts1 (s : State) : Word :=
  word [(16, ((List.range 16).map fun n => b2n (s.tmdRuns n) * 2 ^ n).sum), (0, ((List.range 16).map fun n => b2n (s.pbRuns n) * 2 ^ n).sum)]

/-- PWR_STS.MODE. -/
def State.pwrMode (s : State) : Nat :=
  if s.clk.sleeping then (if s.clk.lfMode then 2 else 1) else if s.clk.lfMode && !s.clk.lfDebug || s.clk.awaits != 0 then 3 else 0

/-- BOOT_STS. -/
def State.bootSts (s : State) : Word :=
  let b := s.boot
  word [(31, b2n b.hostRdy), (30, b2n b.done), (27, b.result), (24, b.restarts), (16, b.enfail), (0, b.accepted.toNat)]

/-- The registers of 02 and 17 that are no plain storage. -/
def State.resetView (s : State) (r : Reg) : Option Word := match r with
  | .spanRst => some s.spanRstWord
  | .rstSts => some (word [(0, s.clk.cause)])
  | .clkSts0 => some (s.clk.clks.zeroExtend 32)
  | .clkSts1 => some s.clkSts1
  | .pwrCtrl => some (word [(0, b2n s.clk.sleeping)])
  | .pwrSts => some (word [(2, b2n s.clk.sleepDeny), (0, s.pwrMode)])
  | .bootSts => some s.bootSts
  | .bootEntry => some s.boot.entry
  | _ => none

/-! ## Firn, Freeze and time (11, 12) -/

/-- FRZ_STS. -/
def State.frzSts (s : State) : Word := word [(29, frzCode s.frz.st), (26, lastCode s.frz.last), (0, s.frz.lastCode)]

/-- FIRN_PEEK_ADDR.DIRTY of the word at an offset. -/
def State.unitDirty (s : State) (off : Nat) : Bool :=
  s.dirty.contains (if 0x30020 ≤ off ∧ off < 0x30030 then regionUnit else unitOf off)

/-- The registers of the Freeze controller; `i` is the index of PF_CNT. -/
def State.frzView (s : State) (r : Reg) (i : Nat) : Option Word := match r with
  | .reason => some s.frz.reason
  | .reasonDetail => some s.frz.reasonDetail
  | .frzCtl => some (s.frz.ctl.zeroExtend 32)
  | .frzSts => some s.frzSts
  | .frzLastLo => some (BitVec.ofNat 32 s.frz.lastTick)
  | .frzLastHi => some (BitVec.ofNat 32 (s.frz.lastTick / 2 ^ 32))
  | .frzDirty => some s.frzDirty
  | .frzLock => some (word [(0, s.frz.holder)])
  | .frzCnt => some (word [(16, s.frz.applied), (0, s.frz.aborted)])
  | .firnPeekAddr => some (setBits (s.reg 0x130) 31 1 (b2n (s.unitDirty s.peekOff)))
  | .pfCnt => some (word [(16, pfLimit i), (0, s.pfUsed i)])
  | _ => none

/-- The timebase registers, as requester q reads them (R329). -/
def State.timeView (s : State) (q : Nat) (r : Reg) : Option Word := match r with
  | .tbLo => some (BitVec.ofNat 32 s.clk.tb)
  | .tbHi => some (BitVec.ofNat 32 (s.clk.tb / 2 ^ 32))
  | .tbHiSnap => some (tabGet 0 s.clk.tbSnap q)
  | .lfLo => some (BitVec.ofNat 32 s.clk.lf)
  | .lfHi => some (BitVec.ofNat 32 (s.clk.lf / 2 ^ 32))
  | .lfHiSnap => some (tabGet 0 s.clk.lfSnap q)
  | .tbmSts => some (word [(31, b2n s.clk.lfMode), (30, b2n s.clk.lfDebug), (16, s.clk.acc), (0, s.clk.lfEntries)])
  | _ => none

/-! ## Host interface and Guard (09, 10) -/

/-- The registers of the host interface; `i` is the session. -/
def State.hostView (s : State) (r : Reg) (i : Nat) : Option Word := match r with
  | .hiSts => some (word [(31, b2n s.host.adminFault), (0, s.host.drops)])
  | .cdtData0 => some (s.cdtData0 (s.fld 0x20100 0 12))
  | .cdtData1 => some (s.cdtData1 (s.fld 0x20100 0 12))
  | .sesSts => some (s.sesSts i)
  | .sesFault => some (word [(0, (s.ses i).fault)])
  | .sesInfl => some (s.sesInfl i)
  | _ => none

/-- The registers of the Guard and of measurement; `i` is the target, lane, component or data word. -/
def State.guardView (s : State) (r : Reg) (i : Nat) : Option Word := match r with
  | .gdCtl => some (word [(0, b2n s.gd.sealed)])
  | .gdSts => some s.gdSts
  | .gdData => some (s.gdWord i)
  | .gdProbeHi => some (setBits (s.reg 0x30044) 31 1 (b2n s.gd.probe.isSome))
  | .gdProbeRes => some s.gd.probeRes
  | .gtCnt0 => some (BitVec.ofNat 32 (s.tgt i).lookups)
  | .gtCnt1 => some (word [(16, (s.tgt i).denies), (0, (s.tgt i).oor)])
  | .gmLane => some (s.gmLane i)
  | .gmComp1 => some (s.gmComp i)
  | .gmCtl => some (word [(0, b2n s.meas.closePend)])
  | .gmSts => some s.gmSts
  | .gmSeq => some (BitVec.ofNat 32 s.meas.seq)
  | _ => none

/-! ## Moraine and the cascade (13, 14) -/

/-- MOR_STS.FULL: no block is free for an ordinary entry. -/
def State.morIsFull (s : State) : Bool := s.mor.next % 64 == 0 && (s.mor.alloc s.morKeep s.clk.tb false).isNone

/-- MOR_STS. -/
def State.morSts (s : State) : Word :=
  let m := s.mor
  word [(31, b2n s.morIsFull), (30, b2n m.dropping), (8, (m.blocks.filter m.pinned).length % 256),
    (0, (m.blocks.filter (m.guarded s.morKeep)).length % 256)]

/-- R367: the entry that MOR_RIDX names, where it is held. -/
def State.morRead (s : State) : Option MorEntry := (s.mor.log.find? fun x => x.1 == (s.reg 0x40040).toNat).map (·.2)

/-- MOR_RDATA[w]. -/
def State.morRdata (s : State) (w : Nat) : Word :=
  match s.morRead with
  | some e => BitVec.ofNat 32 (leNat ((e.bytes.drop (4 * w)).take 4))
  | none => 0

/-- The registers of Moraine; `i` is the count, word or code. -/
def State.morView (s : State) (r : Reg) (i : Nat) : Option Word := match r with
  | .morSts => some s.morSts
  | .morNext => some (BitVec.ofNat 32 s.mor.next)
  | .morOldest => some (BitVec.ofNat 32 s.morOldest)
  | .morAck => some (BitVec.ofNat 32 s.mor.ack)
  | .morDrop => some (BitVec.ofNat 32 (tabGet 0 s.mor.drop i))
  | .morRsts => some (word [(31, b2n s.morRead.isSome)])
  | .morRdata => some (s.morRdata i)
  | .morTrg => some (s.reg (0x44000 + 4 * i) ||| BitVec.ofNat 32 (tabGet 0 s.mor.supp i))
  | _ => none

/-- The registers of the cascade; `i` is the port. -/
def State.cascView (s : State) (r : Reg) (i : Nat) : Option Word :=
  let p := s.lport i
  match r with
  | .cascCfg => some (setBits (s.reg 0x50000) 30 2 s.casc.role)
  | .cascSts => some s.cascSts
  | .cascNodes => some (word [(16, s.casc.sweepSeq), (0, s.casc.nodes)])
  | .cascTag => some (BitVec.ofNat 32 s.casc.tag)
  | .cascCtl => some (setBits (s.reg 0x50010) 31 1 (b2n s.casc.sweeping))
  | .cascTime => some s.cascTime
  | .cascTcnt => some (word [(16, s.casc.repeats), (0, s.casc.skips)])
  | .cfSts => some (word [(16, s.casc.cfId), (0, s.casc.cfNode)])
  | .lpSts => some p.sts
  | .lpRange => some (word [(16, p.hi), (0, p.lo)])
  | .lpCnt => some (word [(16, p.crcErr), (0, p.resets)])
  | .lpDrop => some (BitVec.ofNat 32 p.drop)
  | _ => none

/-! ## Flash, alarms, backup domain and debug (15, 16) -/

/-- The registers of the flash port, readout protection and the option area. -/
def State.flashView (s : State) (r : Reg) : Option Word := match r with
  | .fpSts => some s.fpSts
  | .fpEcc => some (word [(16, s.fp.corrected), (0, s.fp.uncorrectable)])
  | .rdpSts => some s.rdpSts
  | .optSts => some s.optSts
  | .optView0 => some s.optView0
  | .optView1 => some s.optView1
  | _ => none

/-- The registers of the alarms and the backup domain; `i` is the alarm or entry and `j` the word of an entry. -/
def State.almView (s : State) (r : Reg) (i j : Nat) : Option Word := match r with
  | .almSts => some (s.almSts i)
  | .almTest => some (setBits (s.reg 0x70104) 30 1 (b2n s.alm.test.isSome))
  | .bkSts => some (word [(31, b2n s.meas.brOpen), (0, s.bk.head)])
  | .bkAck => some (word [(16, s.bk.lost), (0, s.bk.ack)])
  | .bkAlmen => some (s.bk.almen.zeroExtend 32)
  | .bkLatch => some (s.bk.latch.zeroExtend 32)
  | .bkEntry => some (BitVec.ofNat 32 ((tabGet 0 s.bk.ring i).toNat / 2 ^ (32 * j)))
  | _ => none

/-- Threads that the debugger holds. -/
def State.dbgHeld (s : State) (g : Nat) : Bool := (s.thr g).st == .halted && (s.thr g).haltCause == 1

/-- R441: the command that runs has not ended: its unit has still to act. -/
def State.dbgBusy (s : State) : Bool := match s.dbg.busy with
  | none => false
  | some v =>
    let n := bits v 24 4
    let ch := s.chan (chanKey n (bits v 20 4) (bits v 18 2))
    match bits v 28 4 with
    | 3 => (s.thr (n * 16 + bits v 20 4)).stepping
    | 5 => ch.dbgHalt
    | 7 => ch.dbgStep
    | 9 => s.dbg.resuming
    | _ => false

/-- What DBG_TREG_SEL names: the thread and SEL. -/
def State.tregThr (s : State) : Nat := s.fld 0x80020 12 4 * 16 + s.fld 0x80020 8 4
def State.tregSel (s : State) : Nat := s.fld 0x80020 0 8

/-- R105: the numbers of special registers. -/
def srNumbered (k : Nat) : Bool := Nat.ble k 0x1A && k != 0x0B && k != 0x0F && k != 0x13

/-- The register that SEL names of a thread with nothing in flight; none where DBG_TREG_DATA refuses it. -/
def State.tregRead (s : State) (g k : Nat) : Option Word :=
  let t := s.thr g
  if srNumbered k then some (srRead t g (s.det (g / 16) (g % 16)) k)
  else if k = 0x20 then some t.a
  else if k = 0x21 then some t.x
  else if k = 0x22 then some t.y
  else if k = 0x23 then some t.pc
  else if 0x24 ≤ k ∧ k < 0x2C then some (tabGet 0 t.rstk (k - 0x24))
  else none

/-- The debug registers. -/
def State.dbgView (s : State) (r : Reg) : Option Word := match r with
  | .dbgSts => some (word [(31, b2n s.dbg.devHalt), (0, countBelow s.dbgHeld 256)])
  | .dbgCmdSts => some (word [(31, b2n (s.dbg.done && !s.dbgBusy)), (30, b2n s.dbgBusy), (0, s.dbg.result)])
  | .dbgTregSel => some (setBits (s.reg 0x80020) 31 1 (b2n s.dbg.tregErr))
  | .dbgTregData => some (if s.dbgHeld s.tregThr then (s.tregRead s.tregThr s.tregSel).getD 0 else 0)
  | .dbgMemAddr => some (setBits (s.reg 0x80030) 30 1 (b2n s.dbg.memErr))
  | .dbgMemLo => some s.dbg.memLo
  | .dbgMemHi => some s.dbg.memHi
  | _ => none

/-! ## The whole window -/

/-- The value of a register by its row and indices, for requester q, where it is no plain storage. -/
def State.view (s : State) (q : Nat) (r : Reg) (off : Nat) (ix : List Nat) : Option Word :=
  if 0x100000 ≤ off then s.spanView r ((off - 0x100000) / 0x10000) (nth 0 ix 1) (nth 0 ix 2)
  else
    let i := nth 0 ix 0
    firstSome [s.resetView r, s.frzView r i, s.timeView q r, s.hostView r i, s.guardView r i, s.morView r i, s.cascView r i, s.flashView r,
      s.almView r i (nth 0 ix 1), s.dbgView r]

/-- The indices of an offset with the Span's first; a row of Span 0 alone has none for it. -/
def spanIx (d : RegDef) (ix : List Nat) : List Nat := if d.reg == .slot && d.base == 0x100800 then 0 :: ix else ix

/-- R9: the live word at an offset but for FIRN_PEEK_DATA; none where no register table names it (R11). -/
def State.liveWord (s : State) (q off : Nat) : Option Word := match regAt off with
  | none => none
  | some (d, ix) => some ((s.view q d.reg off (spanIx d ix)).getD (s.reg off))

/-- FIRN_PEEK_DATA: the staged copy of the word at OFFSET, or the live word where it has no RWF field. -/
def State.peekWord (s : State) (q : Nat) : Word :=
  let o := s.peekOff
  let m := BitVec.ofNat 32 (fieldsMask Acc.staged (regFields o))
  if m = 0 then (s.liveWord q o).getD 0
  else if 0x30020 ≤ o ∧ o < 0x30030 then BitVec.ofNat 32 ((tabGet 0 s.regionStaged s.gdIndex).toNat / 2 ^ (8 * (o - 0x30020)))
  else s.stg o &&& m

/-- R9, R11, R356: what a read of the word at an offset returns; none where no register table names it. -/
def State.peek (s : State) (q off : Nat) : Option Word := if off = 0x134 then some (s.peekWord q) else s.liveWord q off

/-- R31: the offset lies in the window of a Span whose reset is asserted. -/
def State.offInRst (s : State) (off : Nat) : Bool := Nat.ble 0x100000 off && s.inRst ((off - 0x100000) / 0x10000)

end Sys2Proof.Machine
end

