-- ==== Sys2Proof/Machine/Debug.lean ====
section
/-! DEFINITION. The debug commands (R441 to R445), access to thread registers and to Span memory, and DBG_RESET (R446). -/
namespace Sys2Proof.Machine

def State.setDbg (s : State) (d : Dbg) : State := { s with dbg := d }

/-! ## Threads (R441, R442) -/

/-- R441: the unit of a command lies in a Span whose reset is asserted: the command is refused by state (DESIGN CHOICE, log entry
17). -/
def State.onSpan (s : State) (n : Nat) (k : State → State) : State := if s.inRst n then s.dbgEnd 1 else k s

/-- R155, R157: the debugger halts a thread. -/
def State.dbgHaltThr (s : State) (n t : Nat) : State :=
  let g := n * 16 + t
  let th := s.thr g
  if th.st = .halted then s
  else s.setThr g { th.abandon with
    before := th.st
    st := .halted
    haltCause := 1
    nextRound := max th.nextRound (s.bound n th) }

/-- HALT. -/
def dbgHaltCmd (n t : Nat) (s : State) : State := s.onSpan n fun s => (s.dbgHaltThr n t).dbgEnd 0

/-- R155: a thread that the debugger held returns to its state; a wakeable one wakes where an enabled event is pending. -/
def Thread.resumed (th : Thread) : Thread :=
  let t := { th with
    st := th.before
    haltCause := 0 }
  if t.st = .idle ∧ t.wakeable ∧ t.pend.any (fun p => t.enabled p.1) then { t with
    st := t.prev
    wakeable := false }
  else t

/-- RESUME. -/
def dbgResumeCmd (n t : Nat) (s : State) : State := s.onSpan n fun s =>
  let g := n * 16 + t
  if s.dbgHeld g then (s.setThr g { (s.thr g).resumed with nextRound := max (s.thr g).nextRound (s.core n).round }).dbgEnd 0
  else s.dbgEnd 1

/-- STEP: the thread goes on until its next instruction has issued. -/
def dbgStepCmd (n t : Nat) (s : State) : State := s.onSpan n fun s =>
  let g := n * 16 + t
  if s.dbgHeld g then s.setThr g { (s.thr g).resumed with
    stepping := true
    nextRound := max (s.thr g).nextRound (s.core n).round }
  else s.dbgEnd 1

/-- ABORT_MSG (R180). -/
def dbgAbortCmd (n e : Nat) (s : State) : State := s.onSpan n fun s =>
  if s.abortBar n e then s.dbgEnd 1 else (abortMsg n e s).dbgEnd 0

/-! ## Clove channels (R441) -/

/-- CE_HALT, CE_RESUME and CE_STEP name an engine that the Span has. -/
def State.onChan (s : State) (n e : Nat) (k : State → State) : State := s.onSpan n fun s => if e < 12 then k s else s.dbgEnd 1

/-- CE_HALT. -/
def dbgCeHalt (n e c : Nat) (s : State) : State := s.onChan n e fun s =>
  let k := chanKey n e c
  let ch := s.chan k
  if !s.chnEn n e c || ch.stopping then s.dbgEnd 1
  else if ch.flags.getLsbD 11 then s.dbgEnd 0
  else s.setChan k { ch with dbgHalt := true }

/-- CE_RESUME and CE_STEP: HALT becomes 0; a step sets it again after one instruction. -/
def dbgCeGo (stepOne : Bool) (n e c : Nat) (s : State) : State := s.onChan n e fun s =>
  let k := chanKey n e c
  let ch := s.chan k
  if !s.chnEn n e c || ch.stopping || !ch.flags.getLsbD 11 then s.dbgEnd 1
  else
    let s1 := s.setChan k { ch with
      flags := ch.flags &&& ~~~0x800
      dbgStep := stepOne }
    if stepOne then s1 else s1.dbgEnd 0

/-! ## The whole device (R443, R445) -/

/-- R443: why a whole-device halt is refused: it is in force, or a Guard target is enabled. -/
def State.devHaltBar (s : State) : Nat := if s.dbg.devHalt then 1 else if (List.range 256).any s.gtEn then 3 else 0

/-- R443: issue stops in every Span; thread states do not change. -/
def State.startDevHalt (s : State) : State :=
  let s1 := iter (fun g s => pauseThr (g / 16) (g % 16) s) 256 s
  (s1.setDbg { s1.dbg with devHalt := true }).trigOut

/-- DEV_HALT. -/
def dbgDevHalt (s : State) : State := if s.devHaltBar = 0 then s.startDevHalt.dbgEnd 0 else s.dbgEnd s.devHaltBar

/-- DEV_RESUME: at once where TB has not entered LF mode, else once it has left it. -/
def dbgDevResume (s : State) : State :=
  if !s.dbg.devHalt then s.dbgEnd 1
  else if s.clk.lfMode then s.setDbg { s.dbg with resuming := true }
  else s.skipAll.endDevHalt

/-- R445: a rising edge on DBG_XTRIG_IN, where pin 8 of bank 0 is given to the sideband. -/
def xtrigStep (s : State) : State :=
  if s.bit 0x80000 30 && s.funcOf 0 8 == 14 && (s.ieMask 0).getLsbD 8 && s.devHaltBar == 0 then s.startDevHalt else s
def execDbgXtrigIn (s : State) : Out := .next (if s.clk.mainRst then s else xtrigStep s)

/-! ## DBG_CMD -/

/-- R441: the command of a DBG_CMD word. -/
def runDbg (v : Word) (s : State) : State :=
  let n := bits v 24 4
  let u := bits v 20 4
  let c := bits v 18 2
  match bits v 28 4 with
  | 1 => dbgHaltCmd n u s
  | 2 => dbgResumeCmd n u s
  | 3 => dbgStepCmd n u s
  | 4 => dbgAbortCmd n (bits v 11 7) s
  | 5 => dbgCeHalt n u c s
  | 6 => dbgCeGo false n u c s
  | 7 => dbgCeGo true n u c s
  | 8 => dbgDevHalt s
  | 9 => dbgDevResume s
  | _ => s.dbgEnd 4

/-- R441: a write of DBG_CMD; one while a command runs is ignored. -/
def dbgCmdWrite (v : Word) (s : State) : State :=
  if s.dbgBusy then s
  else runDbg v (s.setDbg { s.dbg with
    busy := some (v &&& 0xFFFFF800)
    done := false
    result := 0 })

/-- The DBG_CMD word of a command. -/
def dbgWord (op n u c e : Nat) : Word := word [(28, op), (24, n), (20, u), (18, c), (11, e)]

/-- A debug command that its row names. -/
def dbgRow (v : Word) (s : State) : Out := .next (if s.clk.mainRst then s else dbgCmdWrite v s)

def execHalt (n t : Fin 16) (s : State) : Out := dbgRow (dbgWord 1 n t 0 0) s
def execResume (n t : Fin 16) (s : State) : Out := dbgRow (dbgWord 2 n t 0 0) s
def execStep (n t : Fin 16) (s : State) : Out := dbgRow (dbgWord 3 n t 0 0) s
def execAbortMsg (n : Fin 16) (e : Fin 128) (s : State) : Out := dbgRow (dbgWord 4 n 0 0 e) s
def execCeHalt (n : Fin 16) (e : Fin 12) (c : Fin 4) (s : State) : Out := dbgRow (dbgWord 5 n e c 0) s
def execCeResume (n : Fin 16) (e : Fin 12) (c : Fin 4) (s : State) : Out := dbgRow (dbgWord 6 n e c 0) s
def execCeStep (n : Fin 16) (e : Fin 12) (c : Fin 4) (s : State) : Out := dbgRow (dbgWord 7 n e c 0) s
def execDevHalt (s : State) : Out := dbgRow (dbgWord 8 0 0 0 0) s
def execDevResume (s : State) : Out := dbgRow (dbgWord 9 0 0 0 0) s

/-! ## DBG_TREG -/

/-- Every result of a thread on its way has landed. -/
def Thread.settleAll (t : Thread) : Thread := t.land.foldl (fun t p => landOne t p.2) { t with land := [] }

/-- R105, R142: a write of a register of a thread that the debugger holds; none where MTS would trap. -/
def tregPut (t : Thread) (k : Nat) (v : Word) : Option Thread :=
  if k = 0x17 ∨ k = 0x18 then none
  else if srNumbered k then (match mtsTrap t.before k v 0 with
    | some _ => none
    | none => some (srWrite t k v))
  else if k = 0x20 then some { t with a := v }
  else if k = 0x21 then some { t with x := v }
  else if k = 0x22 then some { t with y := v }
  else if k = 0x23 then some { t with pc := v &&& ~~~1 }
  else if 0x24 ≤ k ∧ k < 0x2C then some { t with rstk := tabSet 0 t.rstk (k - 0x24) v }
  else none

/-- The access to DBG_TREG_DATA is refused. -/
def State.tregFail (s : State) (bad : Bool) : State := s.setDbg { s.dbg with tregErr := bad }

/-- The results of the selected thread land before an access, where the debugger holds it. -/
def State.tregSettle (s : State) : State :=
  let g := s.tregThr
  if s.dbgHeld g then s.setThr g (s.thr g).settleAll else s

/-- A read of DBG_TREG_DATA. -/
def dbgTregGet (s0 : State) : State :=
  let s := s0.tregSettle
  let r := if s.dbgHeld s.tregThr then s.tregRead s.tregThr s.tregSel else none
  State.answer (r.getD 0, s.tregFail r.isNone)

/-- A write of DBG_TREG_DATA. -/
def dbgTregPut (v : Word) (s0 : State) : State :=
  let s := s0.tregSettle
  let g := s.tregThr
  match if s.dbgHeld g then tregPut (s.thr g) s.tregSel v else none with
  | some t => (s.setThr g t).tregFail false
  | none => s.tregFail true
def execDbgTregData (src : Src) (v : Option Word) (s : State) : Out :=
  .next (s.via src (match v with
    | some w => dbgTregPut w
    | none => dbgTregGet))

/-! ## DBG_MEM -/

/-- What DBG_MEM_ADDR names: the Span and the byte address of a granule. -/
def State.dmSpan (s : State) : Nat := s.fld 0x80030 20 4
def State.dmAddr (s : State) : Nat := s.fld 0x80030 3 17 * 8

/-- R440: the granule lies in a page set in SECRET_MAP. -/
def State.dmSecret (s : State) : Bool := (s.core s.dmSpan).secret.getLsbD (s.dmAddr / 0x4000)

/-- DBG_MEM_ADDR.ERR. -/
def State.dmErr (s : State) (bad : Bool) : State := s.setDbg { s.dbg with memErr := bad }

/-- R440: a refusal of an access at a window offset, with its reason. -/
def State.dbgRefused (s : State) (off why : Nat) : State := s.offer 0x0904 0 (BitVec.ofNat 32 off) (BitVec.ofNat 32 why) 0

/-- DBG_MEM_ADDR after an access of DBG_MEM_HI. -/
def State.dmNext (s : State) : State :=
  if s.bit 0x80030 31 then s.setReg 0x80030 (setBits (s.reg 0x80030) 3 17 (s.fld 0x80030 3 17 + 1)) else s

/-- A read of DBG_MEM_LO reads a granule; its high word is held. What an uncorrectable one reads as is free (R433); a refused access
reads 0 (log entry 17). -/
def dbgMemLoGet (s : State) : State :=
  if s.dmSecret then State.answer (0, (s.dbgRefused 0x80034 1).dmErr true)
  else if s.inRst s.dmSpan then State.answer (0, s.dmErr true)
  else
    let (good, s1) := (s.fabricTurn s.dmSpan s.dmAddr).readGran 0 (spanGran s.dmSpan s.dmAddr) s.dmSpan s.dmAddr
    if !good then
      let (v, s2) := s1.freeDw
      State.answer (BitVec.ofNat 32 v, (s2.setDbg { s2.dbg with memHi := BitVec.ofNat 32 (v / 2 ^ 32) }).dmErr true)
    else
      let v := s1.memRead s1.dmSpan s1.dmAddr 8
      State.answer (BitVec.ofNat 32 v, (s1.setDbg { s1.dbg with memHi := BitVec.ofNat 32 (v / 2 ^ 32) }).dmErr false)

/-- A write of DBG_MEM_LO holds the low word. -/
def dbgMemLoPut (v : Word) (s : State) : State := s.setDbg { s.dbg with memLo := v }

/-- A read of DBG_MEM_HI returns the held word. -/
def dbgMemHiGet (s : State) : State := State.answer (s.dbg.memHi, s.dmNext)

/-- A write of DBG_MEM_HI writes the granule. -/
def dbgMemHiPut (v : Word) (s : State) : State :=
  (if s.dmSecret then (s.dbgRefused 0x80038 1).dmErr true
  else if s.inRst s.dmSpan then s.dmErr true
  else (s.fabricWrite s.dmSpan 8 s.dmAddr (s.dbg.memLo.toNat + v.toNat * 2 ^ 32)).dmErr false).dmNext

def execDbgMemLo (src : Src) (v : Option Word) (s : State) : Out :=
  .next (s.via src (match v with
    | some w => dbgMemLoPut w
    | none => dbgMemLoGet))
def execDbgMemHi (src : Src) (v : Option Word) (s : State) : Out :=
  .next (s.via src (match v with
    | some w => dbgMemHiPut w
    | none => dbgMemHiGet))

/-! ## DBG_RESET -/

/-- R446: a write of DBG_RESET. -/
def dbgResetWrite (v : Word) (s : State) : State :=
  if bits v 16 16 ≠ 0x4D52 then s.dbgRefused 0x80040 2 else if v.getLsbD 0 then s.mainReset 5 else s
def execDbgReset (v : Word) (s : State) : Out := .next (if s.clk.mainRst then s else dbgResetWrite v s)

end Sys2Proof.Machine
end

