-- ==== Sys2Proof/Machine/Moraine.lean ====
section
/-! DEFINITION. The Moraine recorder at work: snapshots (R356), writing an entry (R361), buckets (R357), acknowledgement (R365), and the
close and signature of a boot record, whose entries it writes (R359, R360). -/
namespace Sys2Proof.Machine

/-! ## Snapshots (R356) -/

/-- R354: a code with its own payload, which takes no snapshot. -/
def morFixed (code : Nat) : Bool := [0x0001, 0x0002, 0x0004, 0x0005, 0x0006, 0x0102, 0x020A, 0x020B].contains code

/-- MOR_SNAP word j of slot i. -/
def snapOff (i j : Nat) : Nat := 0x41000 + i * 0x20 + j * 4

/-- R356: snapshot word j of a slot: its value, and whether it sets SNAPERR. The recorder reads the system port's HI_SNAP copies
(DESIGN CHOICE, log entry 16). -/
def State.snapWord (s : State) (i j : Nat) : Nat × Bool :=
  let w := s.reg (snapOff i j)
  let o := bits w 2 19 * 4
  if !w.getLsbD 31 then (0, false)
  else if s.offInRst o then (0, true)
  else match s.peek 0 o with
    | some v => (v.toNat, false)
    | none => (0, true)

/-- R356: an entry with its snapshot. -/
def State.snapped (s : State) (e : MorEntry) : MorEntry :=
  let trg := s.reg (morTrgOff e.code)
  if morFixed e.code || !trg.getLsbD 30 then e
  else
    let ws := (List.range 8).map (s.snapWord (bits trg 24 6))
    { e with
      snapErr := ws.any (·.2)
      payload := setBits e.payload 128 256 (ws.foldr (fun x n => x.1 + n * 2 ^ 32) 0) }

/-! ## The recorder (R361) -/

/-- R361: a privileged entry that waits is accepted once the queue has room. -/
def Mor.accept (m : Mor) : Mor := match m.waiting with
  | e :: r => if m.queue.length < 32 then { m with queue := m.queue ++ [e], waiting := r } else m
  | [] => m

/-- R361: the recorder writes the entry at the head of its queue, at most one in 16 ticks. -/
def morEntryStep (s : State) : State := match s.mor.queue with
  | [] => s
  | e :: r =>
    let due := match s.mor.lastWrite with
      | some t => decide (t + 16 ≤ s.clk.tb)
      | none => true
    if !due then s
    else (s.setMor ({ s.mor with queue := r }.accept)).morWrite (s.snapped e) s.snapped
def execMoraineEntry (s : State) : Out := .next (if s.clk.mainRst then s else morEntryStep s)

/-! ## Buckets and acknowledgement -/

/-- R357: the tokens that a code's bucket has gained are added. -/
def State.refillCode (s : State) (code : Nat) : State :=
  let m := s.mor
  s.setMor { m with
    spent := tabSet 0 m.spent code (morSpent m (s.reg (morTrgOff code)) code s.clk.tb)
    refill := tabSet 0 m.refill code s.clk.tb }
def execTokenRefill (code : Fin 4096) (s : State) : Out := .next (if s.clk.mainRst then s else s.refillCode code)

/-- R357: a write of MOR_TRG fills the bucket; writes for privileged or reserved codes are ignored. -/
def morTrgWrite (src : Src) (code : Nat) (v : Word) (s : State) : State :=
  if morPrivileged code || !morKnown code then s
  else
    let s1 := (s.refillCode code).plainWrite src (morTrgOff code) v
    s1.setMor { s1.mor with spent := tabSet 0 s1.mor.spent code 0 }

/-- R365: a write of MOR_ACK, which the debug TAP has no part in. -/
def morAckWrite (src : Src) (v : Word) (s : State) : State := if src = .tap then s else s.morAckTo v.toNat
def execMorAck (v : Word) (s : State) : Out := .next (if s.clk.mainRst then s else morAckWrite .host v s)

/-- R367: a write of MOR_RIDX holds the block of its entry for the reader. -/
def morRidxWrite (src : Src) (v : Word) (s : State) : State :=
  let s1 := s.plainWrite src 0x40040 v
  s1.setMor { s1.mor with hold := some (v.toNat, s.clk.tb) }

/-- R367: a read of MOR_RDATA[15] ends the hold. -/
def State.endHold (s : State) : State := s.setMor { s.mor with hold := none }

/-! ## Boot records -/

def execRecordClose (s : State) : Out := .next (if s.clk.mainRst then s else recordCloseStep s.snapped s)
def execSignComplete (key : Option Digest) (s : State) : Out := .next (if s.clk.mainRst then s else signAndForward key s.snapped s)

end Sys2Proof.Machine
end

