-- ==== Sys2Proof/Machine/Serac.lean ====
section
/-! DEFINITION. Serac: the search for threads that wait on each other over channels (R171 to R178). -/
namespace Sys2Proof.Machine

/-! ## What a scan finds (R171 to R174) -/

/-- R172: the input end a waiting thread names and its peer, as Span and end. -/
def State.waitPeer (s : State) (g : Nat) : Nat × Nat × Nat × Nat :=
  let n := g / 16
  let e := (s.thr g).waitOpnd
  let peer := s.reg (cheOff n e + 4)
  (n, e, bits peer 15 4, bits peer 0 7)

/-- R172, condition 6: an enabled end of the thread other than `e` raises events. -/
def State.otherEvt (s : State) (g e : Nat) : Bool :=
  (findBelow 128 fun x =>
    let c := s.reg (cheOff (g / 16) x)
    x != e && c.getLsbD 31 && c.getLsbD 26 && bits c 20 4 == g % 16).isSome

/-- An operation for a timed port, not the reopening of a guard group. -/
def CrossItem.isOp : CrossItem → Bool
  | .op _ => true
  | .reopen _ => false

/-- R172, condition 7: an entry is pending in the thread's window. -/
def State.windowBusy (s : State) (g : Nat) : Bool :=
  (s.thr g).cross.any CrossItem.isOp || (findBelow 32 fun p =>
    let c := s.reg (spanOff (g / 16) (0x200 + 8 * p))
    c.getLsbD 31 && bits c 20 4 == g % 16 && (s.port (g / 16 * 32 + p)).queue != []).isSome

/-- R172: a thread is blocked, by its registers as the rounds that are over leave them. -/
def State.blocked (s : State) (g : Nat) : Bool :=
  let th := (s.thr g).settle (s.core (g / 16)).round
  let (n, e, ps, pe) := s.waitPeer g
  (th.st == .operate || th.st == .service) && th.wait == 1
    && cheKind (s.reg (cheOff n e)) == 0 && !(s.reg (cheOff n e + 4)).getLsbD 31
    && (s.chEnd (n * 128 + e)).buf == [] && (s.chEnd (ps * 128 + pe)).store == []
    && !(th.arm && th.even.getLsbD 5) && !(th.even.getLsbD 1 || th.even.getLsbD 2 || th.even.getLsbD 3)
    && !(th.even.getLsbD 0 && s.otherEvt g e)
    && !((th.even.getLsbD 6 || th.even.getLsbD 7) && s.windowBusy g)

/-- R172, R173: the sender of a blocked thread; none where the peer output end is disabled. -/
def State.sender (s : State) (g : Nat) : Option Nat :=
  if !s.blocked g then none
  else
    let (_, _, ps, pe) := s.waitPeer g
    if s.endOn ps pe true then some (ps * 16 + s.fld (cheOff ps pe) 20 4) else none

/-- The threads from `cur` on along the senders, back to `g`. -/
def orbit (t : List (Option Nat)) (g : Nat) : Nat → Nat → List Nat → Option (List Nat)
  | 0, _, _ => none
  | f + 1, cur, acc => match nth none t cur with
    | none => none
    | some x => if x = g then some (acc ++ [cur]) else orbit t g f x (acc ++ [cur])

/-- The senders lead from `cur` to `g`. -/
def leadsTo (t : List (Option Nat)) (g : Nat) : Nat → Nat → Bool
  | 0, _ => false
  | f + 1, cur => match nth none t cur with
    | none => false
    | some x => x == g || leadsTo t g f x

/-- R174: WAIT_SEQ of the members, then MSGS of their ends. -/
def State.marks (s : State) (l : List Nat) : List Nat :=
  l.map (fun g => (s.thr g).waitSeq) ++ l.flatMap fun g =>
    let (n, e, ps, pe) := s.waitPeer g
    [(s.chEnd (n * 128 + e)).msgs, (s.chEnd (ps * 128 + pe)).msgs]

/-- R173: the cycles, each from its lowest member on, with their dependants. -/
def State.cycles (s : State) : List SeracCycle :=
  let t := (List.range 256).map s.sender
  (List.range 256).filterMap fun g => match orbit t g 256 g [] with
    | some l => if l.all fun x => decide (g ≤ x) then
        some { members := l, marks := s.marks l, deps := (List.range 256).filter fun x => !l.contains x && leadsTo t g 256 x }
      else none
    | none => none

/-! ## Confirmation (R174 to R177) -/

/-- WAIT_SEQ of a cycle's members. -/
def SeracCycle.seqs (c : SeracCycle) : List Nat := c.marks.take c.members.length

/-- R174: the same cycle, its members waiting as before. -/
def SeracCycle.same (c d : SeracCycle) : Bool := c.members == d.members && c.seqs == d.seqs

/-- A bitmap of global threads. -/
def bitmap (l : List Nat) : Nat := (l.map (2 ^ ·)).sum

/-- Span n holds one of the threads. -/
def inSpan (n : Nat) (l : List Nat) : Bool := l.any fun g => g / 16 == n

/-- SERAC_CTL. -/
def seracOff (n : Nat) : Nat := spanOff n 0x380

/-- R176: the watchdog notice of a Span. -/
def State.seracNotice (s : State) (c : SeracCycle) (n : Nat) : State :=
  let ctl := s.reg (seracOff n)
  let g := n * 16 + bits ctl 20 4
  let e := bits ctl 0 7
  if (s.thr g).st ≠ .service ∨ c.members.contains g = true ∨ c.deps.contains g = true then
    s.offer 0x020C (objWord 0 n 0) 0 0 0
  else if 8 ≤ (s.chEnd (n * 128 + e)).buf.length then s.offer 0x020C (objWord 0 n 0) 1 0 0
  else s.bufPut n e (BitVec.ofNat 32 (s.src.count % 65536 * 2 ^ 16 + c.members.headD 0 * 2 ^ 8 + (c.members.length - 1))) true
    (s.core n).round

/-- R175: SERAC_STS of a Span that holds a member, and the bits of THR_STS in one that holds a member or a dependant. -/
def State.seracMark (s : State) (c : SeracCycle) (n : Nat) : State :=
  let s1 := if inSpan n c.members then s.setCore n { s.core n with
    cycles := satInc 0xFFFF (s.core n).cycles
    members := BitVec.ofNat 16 (bitmap ((c.members.filter fun g => g / 16 == n).map (· % 16))) } else s
  if inSpan n (c.members ++ c.deps) then
    iter (fun t s =>
      let g := n * 16 + t
      s.setThr g { s.thr g with
        serac := c.members.contains g
        seracDep := c.deps.contains g }) 16 s1
  else s1

/-- R177: the reset of a Span for a cycle, recorded first. -/
def State.seracReset (s : State) (c : SeracCycle) (n : Nat) : State :=
  (s.offer 0x020D (objWord 0 n 0) (BitVec.ofNat 32 (c.no % 65536)) 0 0).askSpanReset n

/-- The Spans that hold a member and satisfy `p` of their SERAC_CTL. -/
def State.seracSpans (s : State) (c : SeracCycle) (p : Word → Bool) : List Nat :=
  (List.range 16).filter fun n => inSpan n c.members && p (s.reg (seracOff n))

/-- R175: a cycle is confirmed. -/
def State.confirm (s : State) (c0 : SeracCycle) : State :=
  let tick := s.clk.tb
  let c := { c0 with no := s.src.count + 1 }
  let s0 := { s with src := { s.src with
    count := s.src.count + 1
    reported := s.src.reported ++ [c]
    deferred := s.src.deferred ++ [(c, s.seracSpans c fun w => w.getLsbD 29 && w.getLsbD 31)] } }
  let s1 := s0.offerEntry { tb := tick, code := 0x020A, payload := BitVec.ofNat 384 (tick + bitmap c.members * 2 ^ 64) }
  let s2 := if c.deps = [] then s1
    else s1.offerEntry { tb := tick, code := 0x020B, payload := BitVec.ofNat 384 (tick + bitmap c.deps * 2 ^ 64) }
  let s3 := (s.seracSpans c fun w => w.getLsbD 31).foldl (fun s n => s.seracNotice c n) s2
  let s4 := if (s.seracSpans c fun w => w.getLsbD 30) = [] then s3
    else s3.notify 2 {
      code := 0x8001
      result := []
      payload := leBytes 2 s3.src.count ++ leBytes 2 c.members.length ++ leBytes 4 0 ++ leBytes 8 tick ++ leBytes 32 (bitmap c.members)
        ++ leBytes 32 (bitmap c.deps) }
  let s5 := iter (fun n s => s.seracMark c n) 16 s4
  (s.seracSpans c fun w => w.getLsbD 29 && !w.getLsbD 31).foldl (fun s n => s.seracReset c n) s5

/-- R177: the resets that were deferred to this scan. -/
def State.seracLate (s : State) (found : List SeracCycle) : State :=
  s.src.deferred.foldl (fun s x => if found.any x.1.same then x.2.foldl (fun s n => s.seracReset x.1 n) s else s)
    { s with src := { s.src with deferred := [] } }

/-- R174: the cycles of this scan that are confirmed by it. -/
def Serac.confirmed (x : Serac) (found : List SeracCycle) : List SeracCycle :=
  found.filter fun c => (x.found.any fun d => d.members == c.members && d.marks == c.marks) && !x.reported.any c.same

/-- A scan and what follows of it. -/
def State.scan (s : State) : State :=
  let found := s.cycles
  let s1 := { s with src := { s.src with
    lastScan := some s.clk.tb
    reported := s.src.reported.filter fun c => c.members.map (fun g => (s.thr g).waitSeq) == c.seqs } }
  let new := s1.src.confirmed found
  let s2 := { s1.seracLate found with src := { (s1.seracLate found).src with found := found } }
  new.foldl State.confirm s2

/-- R171: Serac scans at each tick whose TB[9:0] is 0. -/
def seracStep (s : State) : State :=
  if s.running && s.clk.tb % 1024 == 0 && s.src.lastScan != some s.clk.tb then s.scan else s
def execSeracScan (s : State) : Out := .next (seracStep s)

end Sys2Proof.Machine
end

