-- ==== Sys2Proof/Machine/Setup.lean ====
section
/-! DEFINITION. Accesses to the setup window: the write of any register by its own behaviour (R8 to R11, R466), the read of any register
with its side effects, and the answer to a thread's access (R108). -/
namespace Sys2Proof.Machine

/-! ## Writes of registers without a row of their own -/

/-- R156: a write of THR_PC. -/
def thrPcWrite (src : Src) (n t : Nat) (v : Word) (s : State) : State :=
  let th := s.thr (n * 16 + t)
  if th.active then s.refuse src (spanOff n (0x408 + 0x40 * t)) 0x0130 (thrObj n t)
  else s.setThr (n * 16 + t) { th with pc := v &&& ~~~1 }

/-- CHE_STS.PEER_ERR is cleared where written as 1. -/
def cheStsWrite (n e : Nat) (v : Word) (s : State) : State :=
  if v.getLsbD 29 then s.setEnd (n * 128 + e) { s.chEnd (n * 128 + e) with peerErr := false } else s

/-- R421: pages of SECRET_MAP are set. -/
def secretWrite (n lo : Nat) (v : Word) (s : State) : State :=
  let c := s.core n
  s.setCore n { c with secret := c.secret ||| BitVec.ofNat 64 (v.toNat * 2 ^ lo) }

/-- FETCH_CTRL: BTB_EN, and the flushes. -/
def fetchCtrlWrite (src : Src) (n : Nat) (v : Word) (s : State) : State :=
  let s1 := s.plainWrite src (spanOff n 0xC00) (v &&& 0x100)
  let s2 := if v.getLsbD 1 then btbFlush n s1 else s1
  if v.getLsbD 0 then lbufFlush n s2 else s2

/-- FETCH_STS: a field that a 1 is written to is cleared. -/
def fetchStsWrite (n : Nat) (v : Word) (s : State) : State :=
  let c := s.core n
  s.setCore n { c with
    mispredict := if bits v 16 16 = 0 then c.mispredict else 0
    lineMiss := if bits v 0 16 = 0 then c.lineMiss else 0 }

/-- PWR_STS.SLEEP_DENY is cleared where written as 1. -/
def pwrStsWrite (v : Word) (s : State) : State := if v.getLsbD 2 then s.setClk { s.clk with sleepDeny := false } else s

/-- CASC_CTL. -/
def cascCtlWrite (src : Src) (v : Word) (s : State) : State :=
  let s1 := s.plainWrite src 0x50010 (v &&& 1)
  if v.getLsbD 31 then sweepStep s1 else s1

/-- BK_ALMEN and BK_LATCH (R425, R429). -/
def bkAlmenWrite (v : Word) (s : State) : State := s.setBk { s.bk with almen := s.bk.almen ||| v.truncate 8 }
def bkLatchWrite (v : Word) (s : State) : State := s.setBk { s.bk with latch := s.bk.latch &&& ~~~(v.truncate 8) }

/-- ECC_CNT: a field that a 1 is written to is cleared. -/
def eccCntWrite (off : Nat) (v : Word) (s : State) : State :=
  let w := if bits v 16 16 = 0 then s.reg off else setBits (s.reg off) 16 16 0
  s.setReg off (if bits v 0 16 = 0 then w else setBits w 0 16 0)

/-- ECC_LAST0.VALID is cleared where written as 1. -/
def eccLastWrite (v : Word) (s : State) : State := if v.getLsbD 31 then s.setReg 0x80120 (s.reg 0x80120 &&& 0x7FFFFFFF) else s

/-! ## Writes by register -/

/-- A write of a register of Span n; `i` and `j` are the indices after the Span's. -/
def spanWrite (src : Src) (r : Reg) (off n i j : Nat) (v : Word) (s : State) : State := match r with
  | .thrCtl => thrCtlWrite src n i v s
  | .thrPc => thrPcWrite src n i v s
  | .cheCfg => cheWrite src n i v s
  | .chePeer => chePeerWrite src n i v s
  | .cheSts => cheStsWrite n i v s
  | .tpCfg => tpCfgWrite src n i v s
  | .twGrp => reopenGroups n i (v.truncate 8) s
  | .ceImdData => imdWrite src n i v s
  | .chnCfg => chnCfgWrite src n i j v s
  | .chnSts => chnStsWrite n i j v s
  | .tmCfg => tmCfgWrite src n i v s
  | .tmCmp => tmCmpPut n i v s
  | .tmCmpNow => tmCmpNowPut n i v s
  | .tmCount => tmCountPut n i v s
  | .tmSts => tmStsWrite n i v s
  | .pinDirect => pinDirectWrite src n i v s
  | .gpioOut => gpioVal n gpioAll (fun _ => pins24 v) s
  | .gpioOutSet => gpioVal n (fun _ => pins24 v) gpioAll s
  | .gpioOutClr => gpioVal n (fun _ => pins24 v) (fun _ => 0) s
  | .gpioOutTgl => gpioVal n (fun _ => pins24 v) (fun o => ~~~o) s
  | .gpioOe => gpioEn n gpioAll (fun _ => pins24 v) s
  | .gpioOeSet => gpioEn n (fun _ => pins24 v) gpioAll s
  | .gpioOeClr => gpioEn n (fun _ => pins24 v) (fun _ => 0) s
  | .gpioOeTgl => gpioEn n (fun _ => pins24 v) (fun o => ~~~o) s
  | .rimeKey => rimeKeyWrite n v s
  | .rimeSet => rimeSetWrite n v s
  | .secretMapLo => secretWrite n 0 v s
  | .secretMapHi => secretWrite n 32 v s
  | .seracCtl => seracCtlWrite src n v s
  | .fetchCtrl => fetchCtrlWrite src n v s
  | .fetchSts => fetchStsWrite n v s
  | .arbCnt => arbCntClear n s
  | _ => s.plainWrite src off v

/-- A write of a global register but for the host interface and Moraine. -/
def globalWrite (src : Src) (r : Reg) (off i : Nat) (v : Word) (s : State) : State := match r with
  | .spanEn => spanEnWrite src v s
  | .rstCtrl => rstCtrlWrite v s
  | .spanRst => spanRstWrite (v.truncate 16) s
  | .pwrCtrl => if v.getLsbD 0 then sleepReqStep s else s
  | .pwrSts => pwrStsWrite v s
  | .frzCtl => frzCtlWrite src v s
  | .frzLock => frzLockWrite src v s
  | .gdCtl => if v.getLsbD 0 then sealGuard s else s
  | .gdData => if i = 3 then gdData3Put src v s else gdDataPut i v s
  | .gdProbeHi => gdProbeWrite v s
  | .gtCfg => gtCfgWrite src i v s
  | .gmCtl => gmCtlWrite src v s
  | .cascCtl => cascCtlWrite src v s
  | .lpCtl => lpCtlWrite src i v s
  | .fpEcc => fpEccWrite v s
  | .rdpCtl => rdpCtlWrite src v s
  | .optCtl => optCtlWrite src v s
  | .almCfg => almCfgWrite src off v s
  | .almWin => almCfgWrite src off v s
  | .almResp => almCfgWrite src off v s
  | .almSts => if v.getLsbD 31 then alarmClearStep i s else s
  | .almTest => almTestWrite v s
  | .bkAck => bkAckWrite v s
  | .bkAlmen => bkAlmenWrite v s
  | .bkLatch => bkLatchWrite v s
  | .eccCnt => eccCntWrite off v s
  | .eccLast0 => eccLastWrite v s
  | .dbgCmd => dbgCmdWrite v s
  | .dbgTregData => dbgTregPut v s
  | .dbgMemLo => dbgMemLoPut v s
  | .dbgMemHi => dbgMemHiPut v s
  | .dbgReset => dbgResetWrite v s
  | _ => s.plainWrite src off v

/-- A write of a register of the host interface or of Moraine; any other is global. -/
def sysWrite (src : Src) (r : Reg) (off i : Nat) (v : Word) (s : State) : State := match r with
  | .hiCtl => hiCtlWrite src v s
  | .hiSts => hiStsWrite v s
  | .dbBaseLo => hiSetupWrite src off v s
  | .dbBaseHi => hiSetupWrite src off v s
  | .stBaseLo => hiSetupWrite src off v s
  | .stBaseHi => hiSetupWrite src off v s
  | .pollCfg => hiSetupWrite src off v s
  | .kick => kickWrite (bits v 0 10) s
  | .sesCtl => sesCtlWrite src i v s
  | .sesCmdLo => ringAddrWrite src off v s
  | .sesCmdHi => ringAddrWrite src off v s
  | .sesRspLo => ringAddrWrite src off v s
  | .sesRspHi => ringAddrWrite src off v s
  | .morAck => morAckWrite src v s
  | .morRidx => morRidxWrite src v s
  | .morTrg => morTrgWrite src i v s
  | _ => globalWrite src r off i v s

/-- R8 to R11, R31, R466: a write of the word at a window offset by a requester that the port has let in. -/
def State.setupWrite (s : State) (src : Src) (off : Nat) (v : Word) : State :=
  let s0 := { s with spErr := false }
  if s.offInRst off then { s with spErr := true }
  else match regAt off with
    | none => s0
    | some (d, ix) =>
      let jx := spanIx d ix
      if 0x100000 ≤ off then spanWrite src d.reg off ((off - 0x100000) / 0x10000) (nth 0 jx 1) (nth 0 jx 2) v s0
      else sysWrite src d.reg off (nth 0 jx 0) v s0

/-- R8: a write of `width` bytes at a window offset: one that is no aligned word of the window gets an error response. -/
def execRegisterWrite (src : Src) (off : Nat) (v : Word) (s : State) (width : Nat := 4) : Out :=
  .next (s.via src fun s => if width = 4 ∧ off % 4 = 0 ∧ off < 0x200000 then s.setupWrite src off v else { s with spErr := true })

/-! ## Reads -/

/-- R367, R433: a read of MOR_RDATA[w]. -/
def State.rdataRead (s : State) (w : Nat) : State :=
  let s1 := if s.morRead.isSome then s.noteExport (s.reg 0x40040).toNat else s
  if w = 15 then s1.endHold else s1

/-- What a read of a register leaves behind, and its data where it is not the plain word of `peek`. -/
def readEffect (src : Src) (r : Reg) (off n i : Nat) (s : State) : State :=
  let v := (s.peek (srcReq src) off).getD 0
  match r with
  | .tbLo => State.answer (s.tbLoRead (srcReq src))
  | .lfLo => State.answer (s.lfLoRead (srcReq src))
  | .tmCount => State.answer (v, s.tmCountRead n i)
  | .gdData => State.answer (v, if i = 3 then s.gdAdvance else s)
  | .morRdata => State.answer (v, s.rdataRead i)
  | .firnPeekData => let s1 := s.readFirnGran (s.peekOff / 8); State.answer (s1.peekWord (srcReq src), s1)
  | .gpioIn => State.answer (v, s.drawn)
  | .pinSts => State.answer (v, s.drawn)
  | .dbgTregData => dbgTregGet s
  | .dbgMemLo => dbgMemLoGet s
  | .dbgMemHi => dbgMemHiGet s
  | _ => State.answer (v, s)

/-- R8, R11, R31: a read of the word at a window offset. -/
def State.setupRead (s : State) (src : Src) (off : Nat) : State :=
  if s.offInRst off then { s with spErr := true }
  else match regAt off with
    | none => State.answer (0, s)
    | some (d, ix) => readEffect src d.reg off ((off - 0x100000) / 0x10000) (nth 0 (spanIx d ix) (if 0x100000 ≤ off then 1 else 0)) s

/-! ## A thread's access (R108) -/

/-- R108: the round in which the response to an access of thread t comes. -/
def State.answerRound (s : State) (n : Nat) (p : Pend) : Nat := max ((s.core n).round + 2) (p.r + 5)

/-- R98, R108: an answered access completes its instruction: a load has its value, and issue resumes once it has landed. An abandoned
instruction writes nothing. -/
def setupDone (n t : Nat) (p : Pend) (v : Nat) (s : State) : State :=
  let g := n * 16 + t
  let q := s.answerRound n p
  let s1 := if p.dead || p.store.isSome then s else (p.ctx s n t).operandDone q v s
  let th := s1.thr g
  s1.setThr g { th with nextRound := max th.nextRound (if p.store.isNone && isLoad p.dec.mn then max (p.r + 8) (q + 1) else max (p.r + 6) (q + 1)) }

/-- R108: an error response: a load writes all ones, a store has no effect, T is set, and the access is recorded. -/
def setupFail (n t : Nat) (p : Pend) (s : State) : State :=
  let g := n * 16 + t
  let s1 := setupDone n t p (2 ^ 32 - 1) (s.setThr g { s.thr g with setup := none })
  let s2 := s1.setThr g ((s1.thr g).lands (max (p.r + 6) (s.answerRound n p + 1)) [.fl 0x20 0x20])
  (s2.offer 0x0205 (thrObj n t) (BitVec.ofNat 32 p.addr) (BitVec.ofNat 32 (b2n p.store.isSome)) 0).stepDone n t

/-- R108: the response has come, and the instruction completes; nothing is left of it where the access has reset its Span. -/
def setupLand (n t : Nat) (p : Pend) (s : State) : State :=
  let g := n * 16 + t
  if (s.thr g).setup.isNone then s
  else (setupDone n t p s.spRdata.toNat (s.setThr g { s.thr g with setup := none })).stepDone n t

/-- R108: the access of thread t's setup-window instruction is made and answered; `err` is an error of the fabric's own. -/
def setupResponse (n t : Nat) (err : Bool) (s : State) : State :=
  match (s.thr (n * 16 + t)).setup with
  | none => s
  | some p =>
    let off := windowOff n p.addr
    let src : Src := .thread (Fin.ofNat 256 (n * 16 + t))
    if err || s.offInRst off then setupFail n t p s
    else setupLand n t p (match p.store with
      | some v => s.setupWrite src off (BitVec.ofNat 32 v)
      | none => s.setupRead src off)
def execSetupAccessResponse (n t : Fin 16) (err : Bool) (s : State) : Out :=
  .next (if s.clk.mainRst then s else setupResponse n t err s)

end Sys2Proof.Machine
end

