-- ==== Sys2Proof/Machine/Tap.lean ====
section
/-! DEFINITION. The debug TAP (R438 to R440, R446) and time-outs at the surroundings (R436). -/
namespace Sys2Proof.Machine

/-- CLK_STS0.DBG: TCK has toggled. -/
def State.tck (s : State) : State := if s.clk.mainRst then s else s.setClk { s.clk with clks := s.clk.clks ||| 0x10 }

/-- R438: the TAP instruction register and what its data register shifts out. -/
def State.tapIr (s : State) (ir : Nat) (dr : BitVec 52) : State := s.setDbg { s.dbg with
  ir := ir
  dr := dr }

def execIdcode (s : State) : Out := .next (s.tck.tapIr 1 0x25616DCB)
def execBypass (s : State) : Out := .next (s.tck.tapIr 0xF 0)

/-- R446: trst_n_i resets the TAP, and the crossing of its accesses (R347); halts stay. -/
def tapResetStep (s : State) : State := (s.tapIr 1 0).setDbg { (s.tapIr 1 0).dbg with
  accErr := false
  accOff := 0
  accData := 0 }
def execTapReset (s : State) : Out := .next (tapResetStep s)

/-- R440: a register that DBGACC does not reach at level 1. -/
def rdpHides (r : Reg) : Bool :=
  [.dbgMemLo, .dbgMemHi, .gdData, .firnPeekData, .morRdata, .bkEntry, .optCtl, .optSrc, .optSts, .optView0, .optView1].contains r

/-- R440: at level 1 DBGACC refuses the access: a hidden register, or a write of a register that has an RWF field. -/
def tapBarred (write : Bool) (off : Nat) : Bool := match regAt off with
  | some (d, _) => rdpHides d.reg || (write && d.fields.any fun f => f.acc.staged)
  | none => false

/-- R439: the result of an access, as the next Capture-DR loads it. -/
def State.accResult (s : State) (err : Bool) (word : Nat) (data : Word) : State := s.setDbg { s.dbg with
  accErr := err
  accOff := word
  accData := data }

/-- R439: what Capture-DR loads: the result of the access before. -/
def State.capture (s : State) : BitVec 52 :=
  BitVec.ofNat 52 (b2n s.dbg.accErr * 2 ^ 51 + s.dbg.accOff % 2 ^ 19 * 2 ^ 32 + s.dbg.accData.toNat)

/-- R439: the access of an Update-DR. -/
def tapAccess (dr : BitVec 52) (s : State) : State :=
  let word := bits dr 32 19
  let off := word * 4
  let write := dr.getLsbD 51
  if s.optn.level = 1 ∧ tapBarred write off = true then (s.dbgRefused off 0).accResult true word 0
  else if write then
    let s1 := s.via .tap fun s => s.setupWrite .tap off (dr.truncate 32)
    s1.accResult s1.spErr word 0
  else
    let s1 := s.via .tap fun s => s.setupRead .tap off
    s1.accResult s1.spErr word (if s1.spErr then 0 else s1.spRdata)

/-- R439, R440: DBGACC; at level 2 it selects BYPASS. The access ends within the command, so no later one meets it outstanding (DESIGN
CHOICE, log entry 1). -/
def execDbgacc (dr : BitVec 52) (s : State) : Out :=
  .next (if 2 ≤ s.optn.level then s.tck.tapIr 0xF 0 else tapAccess dr (s.tck.tapIr 8 s.capture))

/-! ## Time-outs (R436) -/

/-- R436, R265: the key port did not answer: signing is abandoned. -/
def keyTimeout (s : State) : State :=
  if s.meas.closing && s.meas.ring.isNone && s.meas.queue != [] then signAndForward none s.snapped (s.ifaceEntry 1) else s

/-- R436, R108: a thread's setup-window access did not complete. -/
def setupTimeout (n t : Nat) (s : State) : State := match (s.thr (n * 16 + t)).setup with
  | some p => setupFail n t p (s.ifaceEntry 2)
  | none => s

/-- R436: a transaction with the surroundings is incomplete after 64 µs. -/
def timeoutStep (u : IfaceUnit) (s : State) : State := match u with
  | .systemPort h => hostFailStep h true s
  | .flash b => flashTimeoutStep b (b2n (s.bankBusy b)) s
  | .setupAccess n t => setupTimeout n t s
  | .keyPort => keyTimeout s
def execIfaceTimeout (u : IfaceUnit) (s : State) : Out := .next (if s.clk.mainRst then s else timeoutStep u s)

end Sys2Proof.Machine
end

