-- ==== Sys2Proof/Machine/Dispatch.lean ====
section
/-! DEFINITION. What each command does: one arm per constructor, each a direct call of its meaning. -/
namespace Sys2Proof.Machine

/-- The effect of a command on everything but the queue. -/
def exec (i : Instr) (s : State) : Host.Outcome State Fault Refusal :=
  match i with
  | .spanEnable n => Sys2Proof.Machine.execSpanEnable n s
  | .spanDisable n => Sys2Proof.Machine.execSpanDisable n s
  | .spanCoreStop n => Sys2Proof.Machine.execSpanCoreStop n s
  | .mainResetRequest v => Sys2Proof.Machine.execMainResetRequest v s
  | .mainResetRelease clks vsense => Sys2Proof.Machine.execMainResetRelease clks s vsense
  | .spanResetPulse mask => Sys2Proof.Machine.execSpanResetPulse mask s
  | .spanResetRelease n => Sys2Proof.Machine.execSpanResetRelease n s
  | .tbrd n t => Sys2Proof.Machine.execTbrd n t s
  | .waitt n t => Sys2Proof.Machine.execWaitt n t s
  | .waite n t => Sys2Proof.Machine.execWaite n t s
  | .waitWake n t => Sys2Proof.Machine.execWaitWake n t s
  | .tq n t => Sys2Proof.Machine.execTq n t s
  | .tqEntry n t => Sys2Proof.Machine.execTqEntry n t s
  | .timedEntryDue n t guardPins pins => Sys2Proof.Machine.execTimedEntryDue n t guardPins pins s
  | .tqsr n t => Sys2Proof.Machine.execTqsr n t s
  | .tqgc n t => Sys2Proof.Machine.execTqgc n t s
  | .tqev n t => Sys2Proof.Machine.execTqev n t s
  | .twGrpReopen n t groups => Sys2Proof.Machine.execTwGrpReopen n t groups s
  | .tpEnable n p v => Sys2Proof.Machine.execTpEnable n p v s
  | .tpDisable n p v => Sys2Proof.Machine.execTpDisable n p v s
  | .eventLatch n t => Sys2Proof.Machine.execEventLatch n t s
  | .eventEntry n t => Sys2Proof.Machine.execEventEntry n t s
  | .deadlineFire n t => Sys2Proof.Machine.execDeadlineFire n t s
  | .retryService n t => Sys2Proof.Machine.execRetryService n t s
  | .storeBufferDrain n => Sys2Proof.Machine.execStoreBufferDrain n s
  | .setupAccessResponse n t err => Sys2Proof.Machine.execSetupAccessResponse n t err s
  | .lineFill n line ecc => Sys2Proof.Machine.execLineFill n line ecc s
  | .parkLong n t => Sys2Proof.Machine.execParkLong n t s
  | .xipWait n t => Sys2Proof.Machine.execXipWait n t s
  | .btbFlush n => Sys2Proof.Machine.execBtbFlush n s
  | .lbufFlush n => Sys2Proof.Machine.execLbufFlush n s
  | .arbCntClear n => Sys2Proof.Machine.execArbCntClear n s
  | .ld n t => Sys2Proof.Machine.execLd n t s
  | .ldx n t => Sys2Proof.Machine.execLdx n t s
  | .ldy n t => Sys2Proof.Machine.execLdy n t s
  | .lds n t => Sys2Proof.Machine.execLds n t s
  | .st n t => Sys2Proof.Machine.execSt n t s
  | .stx n t => Sys2Proof.Machine.execStx n t s
  | .sty n t => Sys2Proof.Machine.execSty n t s
  | .lil n t => Sys2Proof.Machine.execLil n t s
  | .lih n t => Sys2Proof.Machine.execLih n t s
  | .add n t => Sys2Proof.Machine.execAdd n t s
  | .adc n t => Sys2Proof.Machine.execAdc n t s
  | .sub n t => Sys2Proof.Machine.execSub n t s
  | .sbc n t => Sys2Proof.Machine.execSbc n t s
  | .andd n t => Sys2Proof.Machine.execAndd n t s
  | .orr n t => Sys2Proof.Machine.execOrr n t s
  | .xorr n t => Sys2Proof.Machine.execXorr n t s
  | .cmp n t => Sys2Proof.Machine.execCmp n t s
  | .cpx n t => Sys2Proof.Machine.execCpx n t s
  | .cpy n t => Sys2Proof.Machine.execCpy n t s
  | .bit n t => Sys2Proof.Machine.execBit n t s
  | .inc n t => Sys2Proof.Machine.execInc n t s
  | .dec n t => Sys2Proof.Machine.execDec n t s
  | .neg n t => Sys2Proof.Machine.execNeg n t s
  | .nott n t => Sys2Proof.Machine.execNott n t s
  | .mov n t => Sys2Proof.Machine.execMov n t s
  | .shl n t => Sys2Proof.Machine.execShl n t s
  | .shr n t => Sys2Proof.Machine.execShr n t s
  | .asr n t => Sys2Proof.Machine.execAsr n t s
  | .ror n t => Sys2Proof.Machine.execRor n t s
  | .mul n t => Sys2Proof.Machine.execMul n t s
  | .dadd n t => Sys2Proof.Machine.execDadd n t s
  | .dsub n t => Sys2Proof.Machine.execDsub n t s
  | .dadj n t => Sys2Proof.Machine.execDadj n t s
  | .crcs n t => Sys2Proof.Machine.execCrcs n t s
  | .par n t => Sys2Proof.Machine.execPar n t s
  | .brev n t => Sys2Proof.Machine.execBrev n t s
  | .br n t => Sys2Proof.Machine.execBr n t s
  | .nvHint n t => Sys2Proof.Machine.execNvHint n t s
  | .call n t => Sys2Proof.Machine.execCall n t s
  | .dbx n t => Sys2Proof.Machine.execDbx n t s
  | .jmpr n t => Sys2Proof.Machine.execJmpr n t s
  | .callr n t => Sys2Proof.Machine.execCallr n t s
  | .ret n t => Sys2Proof.Machine.execRet n t s
  | .rete n t => Sys2Proof.Machine.execRete n t s
  | .loop n t => Sys2Proof.Machine.execLoop n t s
  | .lclr n t => Sys2Proof.Machine.execLclr n t s
  | .mfs n t => Sys2Proof.Machine.execMfs n t s
  | .mts n t => Sys2Proof.Machine.execMts n t s
  | .wtld n t => Sys2Proof.Machine.execWtld n t s
  | .wtadd n t => Sys2Proof.Machine.execWtadd n t s
  | .wtarm n t => Sys2Proof.Machine.execWtarm n t s
  | .cin n t => Sys2Proof.Machine.execCin n t s
  | .cout n t => Sys2Proof.Machine.execCout n t s
  | .coute n t => Sys2Proof.Machine.execCoute n t s
  | .cend n t => Sys2Proof.Machine.execCend n t s
  | .nop n t => Sys2Proof.Machine.execNop n t s
  | .sett n t => Sys2Proof.Machine.execSett n t s
  | .clrt n t => Sys2Proof.Machine.execClrt n t s
  | .idle n t => Sys2Proof.Machine.execIdle n t s
  | .brk n t => Sys2Proof.Machine.execBrk n t s
  | .xop n t => Sys2Proof.Machine.execXop n t s
  | .flashopProgram n t => Sys2Proof.Machine.execFlashopProgram n t s
  | .flashopEraseSector n t => Sys2Proof.Machine.execFlashopEraseSector n t s
  | .flashopBlankCheck n t => Sys2Proof.Machine.execFlashopBlankCheck n t s
  | .flashopMarginReadM0 n t => Sys2Proof.Machine.execFlashopMarginReadM0 n t s
  | .flashopMarginReadM1 n t => Sys2Proof.Machine.execFlashopMarginReadM1 n t s
  | .flashopComplete res => Sys2Proof.Machine.execFlashopComplete res s
  | .flashTimeout bank kind => Sys2Proof.Machine.execFlashTimeout bank kind s
  | .thrGo src n t v => Sys2Proof.Machine.execThrGo src n t v s
  | .thrStop src n t v => Sys2Proof.Machine.execThrStop src n t v s
  | .cheEnable src n e v => Sys2Proof.Machine.execCheEnable src n e v s
  | .cheDisable src n e v => Sys2Proof.Machine.execCheDisable src n e v s
  | .channelDelivery n e => Sys2Proof.Machine.execChannelDelivery n e s
  | .seracWdEnable src n v => Sys2Proof.Machine.execSeracWdEnable src n v s
  | .cloveNop n e pins => Sys2Proof.Machine.execCloveNop n e pins s
  | .cloveOut n e pins => Sys2Proof.Machine.execCloveOut n e pins s
  | .cloveIn n e pins => Sys2Proof.Machine.execCloveIn n e pins s
  | .cloveSet n e pins => Sys2Proof.Machine.execCloveSet n e pins s
  | .cloveOe n e pins => Sys2Proof.Machine.execCloveOe n e pins s
  | .clovePull n e pins => Sys2Proof.Machine.execClovePull n e pins s
  | .clovePulln n e pins => Sys2Proof.Machine.execClovePulln n e pins s
  | .clovePush n e pins => Sys2Proof.Machine.execClovePush n e pins s
  | .clovePushn n e pins => Sys2Proof.Machine.execClovePushn n e pins s
  | .cloveMov n e pins => Sys2Proof.Machine.execCloveMov n e pins s
  | .cloveAnd n e pins => Sys2Proof.Machine.execCloveAnd n e pins s
  | .cloveOr n e pins => Sys2Proof.Machine.execCloveOr n e pins s
  | .cloveXor n e pins => Sys2Proof.Machine.execCloveXor n e pins s
  | .cloveJmp n e pins => Sys2Proof.Machine.execCloveJmp n e pins s
  | .cloveWait n e pins => Sys2Proof.Machine.execCloveWait n e pins s
  | .cloveLdc n e pins => Sys2Proof.Machine.execCloveLdc n e pins s
  | .cloveMvr n e pins => Sys2Proof.Machine.execCloveMvr n e pins s
  | .cloveLdsh n e pins => Sys2Proof.Machine.execCloveLdsh n e pins s
  | .cloveDly n e pins => Sys2Proof.Machine.execCloveDly n e pins s
  | .cloveWrap n e pins => Sys2Proof.Machine.execCloveWrap n e pins s
  | .cloveCrc n e pins => Sys2Proof.Machine.execCloveCrc n e pins s
  | .cloveGadr n e pins => Sys2Proof.Machine.execCloveGadr n e pins s
  | .cloveGpost n e pins => Sys2Proof.Machine.execCloveGpost n e pins s
  | .cloveHsh n e pins => Sys2Proof.Machine.execCloveHsh n e pins s
  | .cloveIrq n e pins => Sys2Proof.Machine.execCloveIrq n e pins s
  | .cloveHalt n e pins => Sys2Proof.Machine.execCloveHalt n e pins s
  | .cloveFifoIn n e c => Sys2Proof.Machine.execCloveFifoIn n e c s
  | .cloveFifoOut n e c => Sys2Proof.Machine.execCloveFifoOut n e c s
  | .cloveChannelEnable src n e c v => Sys2Proof.Machine.execCloveChannelEnable src n e c v s
  | .cloveChannelDisable src n e c v => Sys2Proof.Machine.execCloveChannelDisable src n e c v s
  | .ceImdData src n e v => Sys2Proof.Machine.execCeImdData src n e v s
  | .guardLookup n => Sys2Proof.Machine.execGuardLookup n s
  | .guardAnswer n => Sys2Proof.Machine.execGuardAnswer n s
  | .transactionFold target b => Sys2Proof.Machine.execTransactionFold target b s
  | .guardTargetEnable src target v => Sys2Proof.Machine.execGuardTargetEnable src target v s
  | .guardTargetDisable src target v => Sys2Proof.Machine.execGuardTargetDisable src target v s
  | .gdDataWrite k v => Sys2Proof.Machine.execGdDataWrite k v s
  | .gdData3Write src v => Sys2Proof.Machine.execGdData3Write src v s
  | .gdProbe v => Sys2Proof.Machine.execGdProbe v s
  | .signComplete key => Sys2Proof.Machine.execSignComplete key s
  | .ringWriteDone ok => Sys2Proof.Machine.execRingWriteDone ok s
  | .doorbellPoll g line => Sys2Proof.Machine.execDoorbellPoll g line s
  | .kick ses => Sys2Proof.Machine.execKick ses s
  | .serviceTurn ses slots => Sys2Proof.Machine.execServiceTurn ses slots s
  | .nopCommand ses => Sys2Proof.Machine.execNopCommand ses s
  | .sessionOpen ses => Sys2Proof.Machine.execSessionOpen ses s
  | .sessionClose ses => Sys2Proof.Machine.execSessionClose ses s
  | .cancel ses => Sys2Proof.Machine.execCancel ses s
  | .cdtSend ses => Sys2Proof.Machine.execCdtSend ses s
  | .cdtRecv ses => Sys2Proof.Machine.execCdtRecv ses s
  | .conduitItem d => Sys2Proof.Machine.execConduitItem d s
  | .recvLinger d => Sys2Proof.Machine.execRecvLinger d s
  | .cdtBind ses => Sys2Proof.Machine.execCdtBind ses s
  | .cdtUnbind ses => Sys2Proof.Machine.execCdtUnbind ses s
  | .recClose ses => Sys2Proof.Machine.execRecClose ses s
  | .recRead ses => Sys2Proof.Machine.execRecRead ses s
  | .morRead ses => Sys2Proof.Machine.execMorRead ses s
  | .memWrite ses => Sys2Proof.Machine.execMemWrite ses s
  | .memRead ses => Sys2Proof.Machine.execMemRead ses s
  | .hostAccessFail unit timeout => Sys2Proof.Machine.execHostAccessFail unit timeout s
  | .sessionEnable ses v => Sys2Proof.Machine.execSessionEnable ses v s
  | .sessionDisable ses v => Sys2Proof.Machine.execSessionDisable ses v s
  | .sessionQuiesced ses => Sys2Proof.Machine.execSessionQuiesced ses s
  | .hiCtl v => Sys2Proof.Machine.execHiCtl v s
  | .registerWrite src off v width => Sys2Proof.Machine.execRegisterWrite src off v s width
  | .freezeCheck src v => Sys2Proof.Machine.execFreezeCheck src v s
  | .freezeCommit src v => Sys2Proof.Machine.execFreezeCommit src v s
  | .persistDone ok => Sys2Proof.Machine.execPersistDone ok s
  | .freezeDiscard src v => Sys2Proof.Machine.execFreezeDiscard src v s
  | .firnClaim src => Sys2Proof.Machine.execFirnClaim src s
  | .firnRelease src => Sys2Proof.Machine.execFirnRelease src s
  | .timerEnable src n k v => Sys2Proof.Machine.execTimerEnable src n k v s
  | .timerDisable src n k v => Sys2Proof.Machine.execTimerDisable src n k v s
  | .timerIncrement n k => Sys2Proof.Machine.execTimerIncrement n k s
  | .tmCmp n k v => Sys2Proof.Machine.execTmCmp n k v s
  | .tmCmpNow n k v => Sys2Proof.Machine.execTmCmpNow n k v s
  | .tmCountWrite n k v => Sys2Proof.Machine.execTmCountWrite n k v s
  | .tmCountRead n k => Sys2Proof.Machine.execTmCountRead n k s
  | .captureSample n k level => Sys2Proof.Machine.execCaptureSample n k level s
  | .tbLoRead src => Sys2Proof.Machine.execTbLoRead src s
  | .lfLoRead src => Sys2Proof.Machine.execLfLoRead src s
  | .gpioOut n v => Sys2Proof.Machine.execGpioOut n v s
  | .gpioOutSet n v => Sys2Proof.Machine.execGpioOutSet n v s
  | .gpioOutClr n v => Sys2Proof.Machine.execGpioOutClr n v s
  | .gpioOutTgl n v => Sys2Proof.Machine.execGpioOutTgl n v s
  | .gpioOe n v => Sys2Proof.Machine.execGpioOe n v s
  | .gpioOeSet n v => Sys2Proof.Machine.execGpioOeSet n v s
  | .gpioOeClr n v => Sys2Proof.Machine.execGpioOeClr n v s
  | .gpioOeTgl n v => Sys2Proof.Machine.execGpioOeTgl n v s
  | .pinDirect src n pin v => Sys2Proof.Machine.execPinDirect src n pin v s
  | .directSwitch n => Sys2Proof.Machine.execDirectSwitch n s
  | .keeperRelease n pin => Sys2Proof.Machine.execKeeperRelease n pin s
  | .rimeKey n v => Sys2Proof.Machine.execRimeKey n v s
  | .rimeSet n v => Sys2Proof.Machine.execRimeSet n v s
  | .rimeTimeout n => Sys2Proof.Machine.execRimeTimeout n s
  | .tokenRefill code => Sys2Proof.Machine.execTokenRefill code s
  | .morAck v => Sys2Proof.Machine.execMorAck v s
  | .linkPortEnable p v => Sys2Proof.Machine.execLinkPortEnable p v s
  | .phyUp p up => Sys2Proof.Machine.execPhyUp p up s
  | .linkReset p cause => Sys2Proof.Machine.execLinkReset p cause s
  | .linkSilence p => Sys2Proof.Machine.execLinkSilence p s
  | .sbAliveLow p => Sys2Proof.Machine.execSbAliveLow p s
  | .linkKeepalive p => Sys2Proof.Machine.execLinkKeepalive p s
  | .helloSend p => Sys2Proof.Machine.execHelloSend p s
  | .hello p f => Sys2Proof.Machine.execHello p f s
  | .credit p f => Sys2Proof.Machine.execCredit p f s
  | .creditReturn p => Sys2Proof.Machine.execCreditReturn p s
  | .sync p f => Sys2Proof.Machine.execSync p f s
  | .syncPulse p => Sys2Proof.Machine.execSyncPulse p s
  | .syncCapture p => Sys2Proof.Machine.execSyncCapture p s
  | .msg p f => Sys2Proof.Machine.execMsg p f s
  | .ack p f => Sys2Proof.Machine.execAck p f s
  | .msgLost sender => Sys2Proof.Machine.execMsgLost sender s
  | .rdpRaise v => Sys2Proof.Machine.execRdpRaise v s
  | .rdpLower v => Sys2Proof.Machine.execRdpLower v s
  | .optionWrite v => Sys2Proof.Machine.execOptionWrite v s
  | .alarmSample levels => Sys2Proof.Machine.execAlarmSample levels s
  | .alarmClear k => Sys2Proof.Machine.execAlarmClear k s
  | .alarmTest v => Sys2Proof.Machine.execAlarmTest v s
  | .backupAlarmSample levels => Sys2Proof.Machine.execBackupAlarmSample levels s
  | .bkAck v => Sys2Proof.Machine.execBkAck v s
  | .ifaceTimeout unit => Sys2Proof.Machine.execIfaceTimeout unit s
  | .dbgacc dr => Sys2Proof.Machine.execDbgacc dr s
  | .halt n t => Sys2Proof.Machine.execHalt n t s
  | .resume n t => Sys2Proof.Machine.execResume n t s
  | .step n t => Sys2Proof.Machine.execStep n t s
  | .abortMsg n e => Sys2Proof.Machine.execAbortMsg n e s
  | .ceHalt n e c => Sys2Proof.Machine.execCeHalt n e c s
  | .ceResume n e c => Sys2Proof.Machine.execCeResume n e c s
  | .ceStep n e c => Sys2Proof.Machine.execCeStep n e c s
  | .dbgTregData src write => Sys2Proof.Machine.execDbgTregData src write s
  | .dbgMemLo src write => Sys2Proof.Machine.execDbgMemLo src write s
  | .dbgMemHi src write => Sys2Proof.Machine.execDbgMemHi src write s
  | .dbgReset v => Sys2Proof.Machine.execDbgReset v s
  | .linkResetRelease p => Sys2Proof.Machine.execLinkResetRelease p s
  | .optionWriteDone ok => Sys2Proof.Machine.execOptionWriteDone ok s
  | .cloveIdleStep n e pins => Sys2Proof.Machine.execCloveIdleStep n e pins s
  | .idleRound n => Sys2Proof.Machine.execIdleRound n s
  | .rstMainN => Sys2Proof.Machine.execRstMainN s
  | .backupReset => Sys2Proof.Machine.execBackupReset s
  | .mainPokFall => Sys2Proof.Machine.execMainPokFall s
  | .sleepReq => Sys2Proof.Machine.execSleepReq s
  | .lfModeEntry clks => Sys2Proof.Machine.execLfModeEntry s clks
  | .lfModeStep clks => Sys2Proof.Machine.execLfModeStep s clks
  | .lfModeExit clks => Sys2Proof.Machine.execLfModeExit s clks
  | .wake => Sys2Proof.Machine.execWake s
  | .timeCorrection => Sys2Proof.Machine.execTimeCorrection s
  | .seracScan => Sys2Proof.Machine.execSeracScan s
  | .gdData3Read => Sys2Proof.Machine.execGdData3Read s
  | .regionSyncDone => Sys2Proof.Machine.execRegionSyncDone s
  | .guardSeal => Sys2Proof.Machine.execGuardSeal s
  | .probeDone => Sys2Proof.Machine.execProbeDone s
  | .gmClose => Sys2Proof.Machine.execGmClose s
  | .recordClose => Sys2Proof.Machine.execRecordClose s
  | .noticeWrite => Sys2Proof.Machine.execNoticeWrite s
  | .checkDone => Sys2Proof.Machine.execCheckDone s
  | .freezeApply => Sys2Proof.Machine.execFreezeApply s
  | .freezeDrainDone => Sys2Proof.Machine.execFreezeDrainDone s
  | .drainLimit => Sys2Proof.Machine.execDrainLimit s
  | .freezeSyncDone => Sys2Proof.Machine.execFreezeSyncDone s
  | .discardDone => Sys2Proof.Machine.execDiscardDone s
  | .moraineEntry => Sys2Proof.Machine.execMoraineEntry s
  | .sweep => Sys2Proof.Machine.execSweep s
  | .cfrzVoteLimit => Sys2Proof.Machine.execCfrzVoteLimit s
  | .cfrzOrphan => Sys2Proof.Machine.execCfrzOrphan s
  | .wipeDone => Sys2Proof.Machine.execWipeDone s
  | .keyEraseEnd => Sys2Proof.Machine.execKeyEraseEnd s
  | .backupRingWrite => Sys2Proof.Machine.execBackupRingWrite s
  | .alarmTestEnd => Sys2Proof.Machine.execAlarmTestEnd s
  | .idcode => Sys2Proof.Machine.execIdcode s
  | .bypass => Sys2Proof.Machine.execBypass s
  | .tapReset => Sys2Proof.Machine.execTapReset s
  | .devHalt => Sys2Proof.Machine.execDevHalt s
  | .devResume => Sys2Proof.Machine.execDevResume s
  | .dbgXtrigIn => Sys2Proof.Machine.execDbgXtrigIn s
  | .lfEdge clks => Sys2Proof.Machine.execLfEdge s clks
  | .mainPokRise => Sys2Proof.Machine.execMainPokRise s
  | .rdpChangeDone => Sys2Proof.Machine.execRdpChangeDone s
  | .assign p f => Sys2Proof.Machine.execAssign p f s
  | .done p f => Sys2Proof.Machine.execDone p f s
  | .refuse p f => Sys2Proof.Machine.execRefuse p f s
  | .cfrzPrepare p f => Sys2Proof.Machine.execCfrzPrepare p f s
  | .cfrzVote p f => Sys2Proof.Machine.execCfrzVote p f s
  | .cfrzDrain p f => Sys2Proof.Machine.execCfrzDrain p f s
  | .cfrzDrained p f => Sys2Proof.Machine.execCfrzDrained p f s
  | .cfrzCommit p f => Sys2Proof.Machine.execCfrzCommit p f s
  | .cfrzAbort p f => Sys2Proof.Machine.execCfrzAbort p f s
  | .rclose p f => Sys2Proof.Machine.execRclose p f s
  | .rfwd p f => Sys2Proof.Machine.execRfwd p f s
  | .rack p f => Sys2Proof.Machine.execRack p f s

end Sys2Proof.Machine
end

