-- ==== Sys2Proof/Machine/Boot.lean ====
section
/-! DEFINITION. The boot ROM's flow: the ring scan (R263), images (R258, R259, R460, R461) and the sequence of R462 and R464. SP0.T0 runs
it as one happening (DESIGN CHOICE, log entry 1). -/
namespace Sys2Proof.Machine

/-- The boot ROM acts as SP0.T0. -/
def bootSrc : Src := .thread 0

def State.setBoot (s : State) (b : Boot) : State := { s with boot := b }

/-- `k` bytes of flash from `a` on, little-endian, and as a list. -/
def State.flashLe (s : State) (a k : Nat) : Nat := readNat s.flashByte k a
def State.flashList (s : State) (a k : Nat) : List Byte := (List.range k).map fun i => s.flashByte (a + i)

/-! ## The ring (R263, R264) -/

/-- R264: the SEQ of a valid slot. -/
def State.slotSeq (s : State) (k : Nat) : Option Nat :=
  let a := (s.optn.blk.ringBase + k) * 8192
  let c := s.flashLe (a + 0x1FF8) 8
  if c % 2 ^ 32 = 0x43525856 ∧ s.flashLe a 4 = 0x52425856 ∧ s.flashLe (a + 4) 2 = 1 ∧ s.flashLe (a + 12) 4 = c / 2 ^ 32 then
    some (c / 2 ^ 32)
  else none

/-- R263: the valid slot with the highest SEQ. -/
def State.lastSlot (s : State) : Option (Nat × Nat) :=
  (List.range 64).foldl (fun b k => match s.slotSeq k, b with
    | some q, some (k', q') => if q' < q then some (k, q) else some (k', q')
    | some q, none => some (k, q)
    | none, b => b) none

/-- R263: GM_SEQ, PREV and the flags of the next record. -/
def State.ringScan (s : State) : State :=
  let m := { s.meas with priorLost := s.meas.brOpen }
  match s.lastSlot with
  | some (k, q) =>
    let a := (s.optn.blk.ringBase + k) * 8192
    s.setMeas { m with
      seq := (q + 1) % 2 ^ 32
      prev := sha384 (s.flashList a (min (s.flashLe (a + 8) 4) 0x1FF8)) }
  | none => s.setMeas { m with
      seq := 0
      prev := 0
      chainStart := true }

/-! ## Images (R258, R460, R461) -/

/-- R460: a section, with the flash offset of its body. -/
structure Sec where
  typ : Nat
  span : Nat
  unit : Nat
  dest : Nat
  size : Nat
  body : Nat
  deriving DecidableEq, Repr

/-- R258: an image found in the region; `secs` is none where it is malformed. -/
structure Img where
  pos : Nat
  slot : Nat
  version : Nat
  length : Nat
  spans : Nat
  digest : Digest
  secs : Option (List Sec)
  deriving DecidableEq, Repr

/-- R461: an offset that no pair may name. -/
def pairBad (off : Nat) : Bool :=
  off % 4 != 0 || Nat.ble 0x200000 off || (Nat.ble 0x80000 off && Nat.blt off 0x90000) || [0x40, 0x100, 0x120, 0x60010, 0x60020].contains off

/-- R461: what makes a section malformed, its header apart. -/
def State.secBad (s : State) (x : Sec) : Bool := match x.typ with
  | 1 => x.dest % 8 != 0 || Nat.blt 0x100000 (x.dest + x.size) || (x.span == 0 && x.size != 0 && Nat.blt 0xF0000 (x.dest + x.size))
  | 2 => (List.range (x.size / 8)).any fun i => pairBad (s.flashLe (x.body + 8 * i) 4)
  | 3 => Nat.blt 256 (x.dest + x.size / 4)
  | 4 => x.size % 16 != 0 || Nat.blt 32768 (x.dest + x.size / 16)
  | 5 => x.size != 4096
  | 6 => (List.range (x.size / 8)).any fun i => pairBad (s.flashLe (x.body + 8 * i) 4)
  | 7 => x.span != 0 || x.size != 0
  | _ => true

/-- R460: the section whose header lies at `p`. -/
def State.readSec (s : State) (p : Nat) : Sec :=
  { typ := s.flashLe p 1, span := s.flashLe (p + 1) 1, unit := s.flashLe (p + 2) 2, dest := s.flashLe (p + 4) 4
    size := s.flashLe (p + 8) 4, body := p + 16 }

/-- R460, R461: a section's header, of an image whose SPANS are `spans`. -/
def State.headBad (s : State) (spans : Nat) (x : Sec) : Bool :=
  s.flashLe (x.body - 4) 4 != 0 || x.size % 8 != 0 || Nat.ble 16 x.span || !spans.testBit x.span
    || (if x.typ == 3 then Nat.blt 11 x.unit else x.unit != 0) || s.secBad x

/-- R460: the sections from `p` to the end of an image; none where they are malformed. -/
def State.readSecs (s : State) (spans last : Nat) : Nat → Nat → Option (List Sec)
  | 0, _ => none
  | f + 1, p =>
    if p = last then some []
    else if last < p + 16 then none
    else
      let x := s.readSec p
      if s.headBad spans x || Nat.blt last (x.body + x.size) then none
      else (State.readSecs s spans last f (x.body + x.size)).map (x :: ·)

/-- R258, R461: the header of an image is sound. -/
def State.imgHeadOk (s : State) (p last : Nat) : Bool :=
  let len := s.flashLe (p + 8) 4
  s.flashLe (p + 4) 2 == 1 && Nat.blt (s.flashLe (p + 6) 1) 16 && s.flashLe (p + 7) 1 == 0 && s.flashLe (p + 18) 14 == 0
    && Nat.ble 32 len && len % 8 == 0 && Nat.ble (p + len) last

/-- R258: the image at `p`, in a region that ends at `last`. A LENGTH that leaves the region is measured to its end (DESIGN CHOICE, log
entry 18). -/
def State.readImg (s : State) (p last : Nat) : Img :=
  let len := s.flashLe (p + 8) 4
  let spans := s.flashLe (p + 16) 2
  { pos := p, slot := s.flashLe (p + 6) 1, version := s.flashLe (p + 12) 4, length := len, spans := spans
    digest := sha384 (s.flashList p (min len (last - p)))
    secs := if s.imgHeadOk p last then s.readSecs spans (p + len) (len / 16 + 1) (p + 32) else none }

/-- R462: images back to back, up to a doubleword that is no MAGIC, the end of the region, or a LENGTH that leads nowhere (log entry
18). -/
def State.scanImgs (s : State) (last : Nat) : Nat → Nat → List Img
  | 0, _ => []
  | f + 1, p =>
    if last < p + 8 ∨ s.flashLe p 4 ≠ 0x4D495856 then []
    else
      let i := s.readImg p last
      if i.length < 32 ∨ last < p + i.length then [i] else i :: State.scanImgs s last f (p + i.length)

/-- The images of the image region. -/
def State.images (s : State) : List Img :=
  let a := s.optn.blk.bootImg
  s.scanImgs (a + s.optn.blk.imgSectors * 8192) (s.optn.blk.imgSectors * 256) a

/-! ## Judgement (R259) -/

/-- R259, R409: the digest of an image lets it be loaded. -/
def State.digestOk (s : State) (i : Img) : Bool :=
  !s.optn.bad && (s.fld 0x420 2 2 == 0 || (s.optn.blk.valid && tabGet 0 s.optn.blk.digests i.slot == i.digest))

/-- R259: the images that are rejected, given the slots already used. -/
def State.judged (s : State) : List Img → List Nat → List (Img × Bool)
  | [], _ => []
  | i :: r, used => (i, i.secs.isSome && s.digestOk i && !used.contains i.slot) :: State.judged s r (i.slot :: used)

/-- R259: a rejected image is recorded. -/
def State.rejectNote (s : State) (i : Img) : State := s.offer 0x0407 0 (BitVec.ofNat 32 i.slot) (BitVec.ofNat 32 i.version) 0

/-- R259, R261: the boot record lists the first image of each slot. -/
def State.noteImage (s : State) (x : Img × Bool) : State :=
  let i := x.1
  let s1 := if x.2 then s else s.rejectNote i
  if 16 ≤ i.slot ∨ (tabGet none s.meas.images i.slot).isSome then s1
  else s1.setMeas { s1.meas with images := tabSet none s1.meas.images i.slot (some {
    version := i.version
    length := i.length
    digest := i.digest
    rejected := !x.2 }) }

/-- R258, R462: an image as the load pass reads it again: its digest must be the one that was recorded. -/
def State.reread (s : State) (last : Nat) (x : Img × Bool) : Img × Bool := (x.1, x.2 && (s.readImg x.1.pos last).digest == x.1.digest)

/-- R258: an accepted image whose second digest differs is rejected. -/
def State.lateReject (s : State) (x : Img) : State :=
  let s1 := s.rejectNote x
  s1.setMeas { s1.meas with
    images := s1.meas.images.map fun e => (e.1, if e.1 = x.slot then e.2.map fun i => { i with rejected := true } else e.2) }

/-- R462: the accepted images in slot order. -/
def inOrder (l : List (Img × Bool)) : List Img :=
  (List.range 16).filterMap fun k => (l.find? fun x => x.2 && x.1.slot == k).map (·.1)

/-! ## Loading (R462, step 5) -/

/-- The pair i of a section: its offset and value. -/
def State.pair (s : State) (x : Sec) (i : Nat) : Nat × Word := (s.flashLe (x.body + 8 * i) 4, BitVec.ofNat 32 (s.flashLe (x.body + 8 * i + 4) 4))

/-- GD_DATA, whose RWF words go through a write buffer (R237). -/
def isGdData (off : Nat) : Bool := Nat.ble 0x30020 off && Nat.blt off 0x30030

/-- The RWF fields of a written word are staged. -/
def stageWord (off : Nat) (v : Word) (s : State) : State :=
  if isGdData off then s.setupWrite bootSrc off v else stageFields bootSrc off v (regFields off) s

/-- R461: the part of a section that the load pass carries out. -/
def loadSec (x : Sec) (s : State) : State := match x.typ with
  | 1 => iter (fun i s => s.memWrite x.span 8 (x.dest + 8 * i) (s.flashLe (x.body + 8 * i) 8)) (x.size / 8) s
  | 2 => iter (fun i s => stageWord (s.pair x i).1 (s.pair x i).2 s) (x.size / 8) s
  | 3 => iter (fun i s => stageWord (spanOff x.span (0x4000 + x.unit * 0x400 + 4 * (x.dest + i)))
      (BitVec.ofNat 32 (s.flashLe (x.body + 4 * i) 4)) s) (x.size / 4) s
  | 4 => iter (fun i s => s.stageEntry bootSrc (x.dest + i) (BitVec.ofNat 128 (s.flashLe (x.body + 16 * i) 16))) (x.size / 16) s
  | 5 => iter (fun i s => stageWord (0x4000 + 4 * i) (BitVec.ofNat 32 (s.flashLe (x.body + 4 * i) 4)) s) 1024 s
  | _ => s

/-- The Span memory that a rejected image wrote is cleared. -/
def clearSec (x : Sec) (s : State) : State :=
  if x.typ = 1 then iter (fun i s => s.memWrite x.span 8 (x.dest + 8 * i) 0) (x.size / 8) s else s

/-- The sections of a list of images, in order. -/
def secsOf (l : List Img) : List Sec := l.flatMap fun i => i.secs.getD []

/-- R312: every staged copy takes its live value. -/
def State.dropStaged (s : State) : State := regionSyncStep { s.syncStaged with gd := { s.gd with sync := true } }

/-- R462, R324: the one Freeze of the boot: whether its check passed, and the state after its apply. -/
def State.bootFreeze (s : State) : Bool × State :=
  match s.freezeBar with
  | some (c, d) => (false, s.frzCheckFail c d)
  | none =>
    let s1 := s.charges.foldl chargeOne (s.setFrz { s.frz with charged := s.charges })
    (true, ((regionSyncStep (s1.frzApply s1.clk.tb)).syncStaged).frzEnd .applied 0)

/-- R462: the fields of a SETUP pair that are not RWF, written with the RWF fields masked. -/
def setupPair (p : Nat × Word) (s : State) : State :=
  let m := BitVec.ofNat 32 (fieldsMask Acc.staged (regFields p.1))
  if isGdData p.1 then s else s.setupWrite bootSrc p.1 ((p.2 &&& ~~~m) ||| (s.reg p.1 &&& m))

/-- R462, R463: an ENABLE pair; each refusal counts. -/
def enablePair (p : Nat × Word) (s : State) : State :=
  if s.clk.mainRst then s
  else
    let s1 := s.setupWrite bootSrc p.1 p.2
    let k := (bits s1.frz.reason 25 7 + 128 - bits s.frz.reason 25 7) % 128
    s1.setBoot { s1.boot with enfail := min 255 (s1.boot.enfail + k) }

/-- The pairs of the sections of a type, run in order. -/
def runPairs (typ : Nat) (f : Nat × Word → State → State) (l : List Sec) (s : State) : State :=
  (l.filter fun x => x.typ == typ).foldl (fun s x => iter (fun i s => f (s.pair x i) s) (x.size / 8) s) s

/-- BOOT_ENTRY of the sections. -/
def entryOf (l : List Sec) : Word := l.foldl (fun e x => if x.typ = 7 then BitVec.ofNat 32 x.dest &&& ~~~1 else e) 0

/-! ## The steps after the load -/

/-- R228: the default Rime locks of a bank. -/
def rimeBank (n : Nat) (s : State) : State :=
  let m := bits s.optn.blk.rime (24 * n) 24
  if m = 0 then s else rimeSetWrite n (BitVec.ofNat 32 (0xA5000000 + m)) (rimeKeyWrite n 0xC01D (rimeKeyWrite n 0x1CE5 s))

/-- The Spans of the SPANS fields of a list of images. -/
def spansOf (l : List Img) : BitVec 16 := l.foldl (fun m i => m ||| BitVec.ofNat 16 i.spans) 0

/-- Step 7. -/
def enableSpans (m : BitVec 16) (s : State) : State :=
  iter (fun n s => if m.getLsbD n && !s.spanEn n then spanOn bootSrc n s else s) 16 s

/-- Steps 10 and 11: the host is released; SP0.T0 branches to BOOT_ENTRY, or executes an IDLE of the boot ROM, whose address is free
(R154, R155). -/
def State.enterBoot (s : State) : State :=
  let t := s.thr 0
  if s.boot.entry = 0 then (s.setThr 0 { t with
    st := .idle
    prev := .service
    wakeable := true
    pc := 0x1F000000 ||| (s.free &&& 0x7FFE) }).drawn
  else s.setThr 0 { t with
    st := .service
    pc := s.boot.entry }

def State.bootDone (s : State) (result : Nat) : State :=
  if s.clk.mainRst then s
  else (s.setBoot { s.boot with
    hostRdy := true
    done := true
    result := result
    toRun := false }).enterBoot

/-- Steps 6 to 9; the Spans of `m` are enabled. -/
def bootEnable (m : BitVec 16) (l : List Img) (s : State) : State :=
  let s1 := runPairs 6 enablePair (secsOf l) (enableSpans m (iter rimeBank 16 s))
  if s1.bit 0x420 0 then sealGuard s1 else s1

/-- R462: a refused Freeze rejects every accepted image. -/
def State.bootRefused (s : State) (l : List Img) : State :=
  let s1 := ((secsOf l).foldl (fun s x => clearSec x s) (l.foldl State.rejectNote s)).dropStaged
  s1.setMeas { s1.meas with images := s1.meas.images.map fun x => (x.1, x.2.map fun i => { i with rejected := true }) }

/-- Step 5 on: `l` are the accepted images, `m` their Spans but those of a rejected image (R259), and `result` is RESULT where the Freeze
passes. With no image accepted nothing is staged and no Freeze is committed (DEDUCED, log entry 20). -/
def State.bootLoad (s : State) (m : BitVec 16) (l : List Img) (result : Nat) : State :=
  if l = [] then (bootEnable m [] s).bootDone result
  else
  let secs := secsOf l
  let s1 := s.dropStaged.setFrz { s.frz with
    holder := srcCode bootSrc
    who := bootSrc
    boot := true }
  let (ok, s2) := (secs.foldl (fun s x => loadSec x s) s1).bootFreeze
  let s3 := s2.setFrz { s2.frz with boot := false }
  if !ok then (s3.bootRefused l).bootDone 3
  else
    let s4 := runPairs 2 setupPair secs s3
    let s5 := s4.setFrz { s4.frz with holder := 0 }
    let s6 := s5.setBoot { s5.boot with
      accepted := l.foldl (fun m i => m ||| BitVec.ofNat 16 (2 ^ i.slot)) 0
      entry := entryOf secs }
    (bootEnable m l s6).bootDone result

/-- R259: the Spans of the accepted images that no rejected image names. -/
def bootSpans (l : List (Img × Bool)) : BitVec 16 :=
  let part (ok : Bool) : List Img := (l.filter fun x => x.2 == ok).map (·.1)
  spansOf (part true) &&& ~~~spansOf (part false)

/-- R462, step 1: TB, LF, SYS, FLS, SIG and ALM show present. -/
def State.bootClocks (s : State) : Bool := s.clk.clks &&& 0x6F == 0x6F

/-- R462: the sequence after a MAIN reset: without its clocks 1 ms after the release it ends with RESULT 4. -/
def State.bootRun (s : State) : State :=
  if !s.bootClocks then (if s.boot.since + 1000000 ≤ s.clk.tb then s.bootDone 4 else s)
  else
    let s1 := s.ringScan
    let first := s1.judged s1.images []
    let s2 := first.foldl State.noteImage s1
    let l := first.map (s2.reread (s2.optn.blk.bootImg + s2.optn.blk.imgSectors * 8192))
    let s3 := (inOrder first).foldl (fun s x => if (inOrder l).contains x then s else s.lateReject x) s2
    s3.bootLoad (bootSpans l) (inOrder l) (if l = [] then 2 else if l.all (·.2) then 0 else 1)

/-- R464: after a SPAN[0] reset the boot ROM finds DONE = 1. -/
def State.bootAgain (s : State) : State := (s.setBoot { s.boot with
  toRun := false
  restarts := min 7 (s.boot.restarts + 1) }).enterBoot

/-- R462, R464: the boot ROM runs, where SP0.T0 was released and Firn is free. -/
def State.bootStep (s : State) : State :=
  if !s.boot.toRun || !s.running then s
  else if s.boot.done then s.bootAgain
  else if s.frz.st = .idle ∧ s.frz.holder = 0 then s.bootRun
  else s

end Sys2Proof.Machine
end

