-- ==== Sys2Proof/Machine/Tick.lean ====
section
/-! DEFINITION. What passes with one tick when no command is given. -/
namespace Sys2Proof.Machine

/-- R43, R30, R331: TB counts one tick, modulo 2^64; in MAIN reset and in LF mode it holds. -/
def Clk.tick (c : Clk) : Clk := if c.mainRst || c.lfMode then c else { c with tb := (c.tb + 1) % 2 ^ 64 }

/-- R377: a sweep that waited for a Freeze to end begins. -/
def State.sweepDue (s : State) : State := if s.casc.sweepPend && !s.cascBusy then s.startSweep else s

/-- R387: TIME_OK lapses where no pulse is captured. -/
def State.timeLapse (s : State) : State := if s.casc.timeOk && !s.casc.master && s.syncLost then s.setTimeOk false else s

/-- One tick: TB counts, the boot ROM runs where it is due, and what waits for nothing but time happens (DESIGN CHOICE, log entry 1: the
table has no row for a tick). -/
def State.tick (s : State) : State :=
  if s.clk.mainRst then s else (State.timeLapse (State.sweepDue { s with clk := s.clk.tick })).bootStep

end Sys2Proof.Machine
end

