-- ==== Sys2Proof/Safety.lean ====
section
/-! DEFINITION. What holds of every state a run can reach: memories and tables in their one canonical form, counters within
their widths, the recorder's queue within its 32 entries. -/
namespace Sys2Proof.Machine

/-- A byte memory is in its canonical form: addresses strictly rising, and no entry equal to `d`, what an unlisted address reads
as. -/
def Memory.wf (d : Byte) (m : List Host.Cell) : Bool := tabWf d m

/-- Span memory (R79), the flash array and the option area (R395) are in canonical form. -/
def State.memWf (s : State) : Prop :=
  Memory.wf 0 s.mem = true ∧ Memory.wf 0xFF s.flash = true ∧ Memory.wf 0xFF s.opt = true

/-- Every table of registers and units is in canonical form, so that equal machines are equal data. -/
def State.tabsWf (s : State) : Prop :=
  tabWf 0 s.regs = true ∧ tabWf 0 s.staged = true ∧ tabWf 0 s.regionLive = true ∧ tabWf 0 s.regionStaged = true ∧
  tabWf {} s.cores = true ∧ tabWf {} s.threads = true ∧ tabWf {} s.ports = true ∧ tabWf {} s.ends = true ∧
  tabWf {} s.engines = true ∧ tabWf {} s.chans = true ∧ tabWf {} s.banks = true ∧ tabWf {} s.timers = true ∧
  tabWf 0 s.sideband = true ∧ tabWf 0 s.upset = true

/-- R43: TB has 64 bits; R330: the LF counter has 48 and its accumulator 6; R361: the recorder's input queue has 32 entries. -/
def State.widths (s : State) : Prop :=
  s.clk.tb < 2 ^ 64 ∧ s.clk.lf < 2 ^ 48 ∧ s.clk.acc < 64 ∧ s.mor.queue.length ≤ 32

/-- The invariant of the block. -/
def State.Inv (s : State) : Prop := s.memWf ∧ s.tabsWf ∧ s.widths

end Sys2Proof.Machine
end

