-- ==== Sys2Proof/Claims.lean ====
section
/-! DEFINITION. The vocabulary of the statements: what a claim about an instruction of a thread takes as given, and the views of a
state that its conclusion speaks of. -/
namespace Sys2Proof.Machine

/-- R73: what thread t of Span n issues next, as its context (unit, round, lane, decoded word, and the thread as DEC reads it) and the
state in which its effect begins; `none` where it can issue nothing now, where something else of its core comes first (R82), or where a
later beat is next. -/
def State.slot (s : State) (n t : Nat) : Option (Ctx × State) :=
  if s.issues n && (s.thr (n * 16 + t)).canIssue then
    match s.findIssue n t with
    | some (r, lane, .instr h0 h1, s1) =>
      let d := strandDecode h0 h1
      let th := (s1.thr (n * 16 + t)).settle (r + 2)
      let run := !(s1.roundView n r).decIll d th && condTrue d.cond th.fl
      let s2 := (s1.enterSlot n t r lane (s1.slotUse n t r run)).ranFrom n t
      some (s2.ctx n t r lane d, s2)
    | _ => none
  else none

/-- R129: the later beat that thread t of Span n issues next, with its context and the state in which its effect begins. -/
def State.beatSlot (s : State) (n t : Nat) : Option (Ctx × Beats × State) :=
  if s.issues n && (s.thr (n * 16 + t)).canIssue then
    match s.findIssue n t with
    | some (r, lane, .beat m, s1) =>
      let s2 := (s1.enterSlot n t r lane (s1.slotUse n t r true)).ranFrom n t
      some (s2.ctx n t r lane m.dec, m.beats, s2)
    | _ => none
  else none

/-- The instruction is `mn`, raises no ILLEGAL in DEC and its condition holds: it has its effect. -/
def Ctx.runs (c : Ctx) (u : State) (mn : Mn) : Prop :=
  c.d.mn = mn ∧ (c.view u).decIll c.d c.th = false ∧ condTrue c.d.cond c.th.fl = true

/-- Thread g as an instruction that reads its registers in round `r` finds it (R86, R88). -/
def State.at (s : State) (g r : Nat) : Thread := (s.thr g).settle r

/-- Global thread numbers, as two Fin arguments give them. -/
def gthr (n t : Fin 16) : Nat := n.val * 16 + t.val

/-- The operand of a memory-format instruction as a number, where it has one now: an immediate, a register, Span memory whose port is
free in the instruction's MEM round, or flash or boot ROM whose line is present. -/
def Ctx.reads (c : Ctx) (u : State) (v : Nat) : Prop :=
  match c.d.mode with
  | .imm | .none => v = c.d.d.toNat
  | .reg => v = (selReg c.d.d.toNat c.th.a c.th.x c.th.y).toNat
  | _ => ∃ a, modeAddr (c.view u) c.n c.t c.d c.th.x c.th.y = some a ∧
      accessTrap (c.view u) c.n c.t c.th.st false a c.d.size = none ∧
      ((areaOf a = .span ∧ u.badGrans c.n a c.d.size = false ∧
          (u.phaseA c.n c.t c.r a c.d.size = true ∨ (u.core c.n).busy (bankOf a) (c.r + 4) = false) ∧
          v = u.memRead c.n a c.d.size) ∨
        ((areaOf a = .flash ∨ areaOf a = .rom) ∧ u.lineAbsent c.n a = false ∧ v = readNat (u.codeByte c.n) c.d.size a))

/-- R86, R125: the round in which the result of a memory-format instruction other than MUL has landed: WBK, or load return for a load
from memory. -/
def Ctx.due (c : Ctx) : Nat := if isLoad c.d.mn && c.d.usesMem then c.r + 8 else c.r + 6

/-- Where a store of the memory modes writes in Span memory, where it can be made now: its address traps nothing, and its port, the store
buffer of its lane or an entry of the same granule takes it. -/
def Ctx.stores (c : Ctx) (u : State) (a : Nat) : Prop :=
  c.d.usesMem = true ∧ modeAddr (c.view u) c.n c.t c.d c.th.x c.th.y = some a ∧
    accessTrap (c.view u) c.n c.t c.th.st true a c.d.size = none ∧ areaOf a = .span ∧
    (u.phaseA c.n c.t c.r a c.d.size = true ∨ (u.core c.n).busy (bankOf a) (c.r + 4) = false ∨
      (sbFind (u.core c.n).sb (a % 2 ^ 20 / 8)).isSome = true ∨ sbLane c.lane (u.core c.n).sb < 4)

/-- R79, R146, R150: the 16-byte descriptor at an address of Span memory that traps nothing, as a number, where it is read in the
instruction's MEM round. -/
def Ctx.descriptor (c : Ctx) (u : State) (a v : Nat) : Prop :=
  spanTrap (c.view u) c.n c.t c.th.st false a 16 8 = none ∧ u.badGrans c.n a 16 = false ∧
    (u.phaseA c.n c.t c.r a 16 = true ∨ ((u.core c.n).busy (bankOf a) (c.r + 4) = false ∧ bankOf (a + 15) = bankOf a)) ∧
    v = u.memRead c.n a 16

/-- R117: no active loop level ends at the instruction. -/
def Ctx.noLoop (c : Ctx) : Prop := ∀ k, k < 3 → tabGet 0 c.th.lc k = 0 ∨ tabGet 0 c.th.le k ≠ c.pc

/-- R117: loop level k is active and ends at the instruction. -/
def Ctx.endsLoop (c : Ctx) (k : Nat) : Prop := tabGet 0 c.th.lc k ≠ 0 ∧ tabGet 0 c.th.le k = c.pc

/-- R122, R124: what a beat of an XOP whose next micro-operation is `m`, with `rest` to follow, the temporaries `old` and the micro-flags
`fl`, leaves in a state w: `new` and `fn` are the temporaries and flags after it. A beat that is not the last changes no register; the
last writes in WBK what COMMIT names. -/
def Ctx.beatLeaves (c : Ctx) (u w : State) (m : DWord) (rest : List DWord) (new : Tab Word) (fn : BitVec 6) : Prop :=
  let th := w.thr c.g
  let a := u.at c.g (c.r + 6)
  let b := w.at c.g (c.r + 6)
  (m.getLsbD 62 = false → rest ≠ [] → th.multi = some ⟨c.d, .xop rest new fn⟩ ∧ th.pc = c.pc ∧
    b.a = a.a ∧ b.x = a.x ∧ b.y = a.y ∧ b.fl = a.fl) ∧
  (m.getLsbD 62 = true ∨ rest = [] → th.multi = none ∧ (c.noLoop → th.pc = c.pc + BitVec.ofNat 32 c.d.len) ∧
    b.a = (if m.getLsbD 32 then tabGet 0 new 0 else a.a) ∧ b.x = (if m.getLsbD 33 then tabGet 0 new 1 else a.x) ∧
    b.y = (if m.getLsbD 34 then tabGet 0 new 2 else a.y) ∧ flT b.fl = flT a.fl ∧ flH b.fl = flH a.fl ∧
    flN b.fl = (if m.getLsbD 35 then flN fn else flN a.fl) ∧ flZ b.fl = (if m.getLsbD 35 then flZ fn else flZ a.fl) ∧
    flC b.fl = (if m.getLsbD 35 then flC fn else flC a.fl) ∧ flV b.fl = (if m.getLsbD 35 then flV fn else flV a.fl))

/-- R122: a source of a micro-operation: a temporary, A, X, Y or the operand field. -/
def Ctx.xsource (c : Ctx) (temps : Tab Word) (k : Nat) : Word :=
  if k = 4 then c.th.a else if k = 5 then c.th.x else if k = 6 then c.th.y else if k = 7 then c.d.d else tabGet 0 temps k

/-- R122: the second source, or the constant in its place. -/
def Ctx.xsourceB (c : Ctx) (temps : Tab Word) (m : DWord) : Word :=
  if m.getLsbD 47 then m.truncate 32 else c.xsource temps (bits m 48 3)

/-- R122: `new` and `fn` are the temporaries and micro-flags after the micro-operation `m`, whose result is `r`, on `temps` and `fl`: its
destination takes the result, and with SF = 1 N and Z follow it. -/
def uopWrites (m : DWord) (temps new : Tab Word) (fl fn : BitVec 6) (r : Word) : Prop :=
  tabGet 0 new (bits m 54 3) = r ∧ (∀ j, j ≠ bits m 54 3 → tabGet 0 new j = tabGet 0 temps j) ∧
    (m.getLsbD 46 = false → fn = fl) ∧ (m.getLsbD 46 = true → flN fn = r.msb ∧ flZ fn = (r == 0))

/-- R97, R99, R121: the trap of vector `v` and detail `d` that the instruction raises `stage` rounds after its issue is on its way: the
entry latches with the PC of the instruction and goes to EVB, or the thread halts where its events are masked or EVB is no handler
address. -/
def Ctx.trapped (c : Ctx) (u w : State) (stage v d : Nat) : Prop :=
  let th := w.thr c.g
  let evb := (u.at c.g (c.r + stage)).evb
  if c.th.masked then th.st = .halted ∧ th.haltCause = 2 ∧ th.pc = c.pc
  else if evbOk evb then th.entry = some (c.r + stage + 1, c.pc, BitVec.ofNat 32 (v * 2 ^ 24 + d % 2 ^ 24)) ∧ th.pc = evb
  else th.st = .halted ∧ th.haltCause = 3 ∧ th.pc = c.pc

/-- The special registers of a thread that no arithmetic, move or branch writes. -/
def Thread.special (t : Thread) : List Word × List (BitVec 6) × DWord × List Bool × BitVec 8 × Tab Word × Nat × Nat :=
  ([t.epc, t.ecause, t.evb, t.crccfg], [t.efl], t.wt, [t.arm, t.rstkTrap, t.masked], t.even, t.rstk, t.rptr, t.depth)

/-- Nothing differs but threads and cores. -/
def State.outside (s w : State) : Prop := w = { s with threads := w.threads, cores := w.cores }

/-- Rows that write no more than A, X, Y and the flags, and read no memory. -/
def plainRows : List Mn := [.nop, .sett, .clrt, .lil, .lih, .mov, .inc, .dec, .neg, .nott, .par, .brev, .crcs, .dadj, .mfs]

/-- Rows whose operand is a memory-format operand and that write no memory, but for MUL. -/
def operandRows : List Mn :=
  [.ld, .ldx, .ldy, .lds, .add, .adc, .sub, .sbc, .andd, .orr, .xorr, .cmp, .cpx, .cpy, .bit, .shl, .shr, .asr, .ror, .dadd, .dsub]

/-- A word as eight decimal digits. -/
def decVal (w : Word) : Nat := (List.range 8).foldr (fun i acc => bits w (4 * i) 4 * 10 ^ i + acc) 0

/-- Every digit of the word is at most 9. -/
def goodDigits (w : Word) : Bool := (List.range 8).all fun i => decide (bits w (4 * i) 4 ≤ 9)

/-- The command that issues a Strand instruction; a reserved word has none. -/
def strandCmd (mn : Mn) (n t : Fin 16) : Instr :=
  match mn with
  | .tbrd => .tbrd n t
  | .waitt => .waitt n t
  | .waite => .waite n t
  | .tq => .tq n t
  | .tqsr => .tqsr n t
  | .tqgc => .tqgc n t
  | .tqev => .tqev n t
  | .ld => .ld n t
  | .ldx => .ldx n t
  | .ldy => .ldy n t
  | .lds => .lds n t
  | .st => .st n t
  | .stx => .stx n t
  | .sty => .sty n t
  | .lil => .lil n t
  | .lih => .lih n t
  | .add => .add n t
  | .adc => .adc n t
  | .sub => .sub n t
  | .sbc => .sbc n t
  | .andd => .andd n t
  | .orr => .orr n t
  | .xorr => .xorr n t
  | .cmp => .cmp n t
  | .cpx => .cpx n t
  | .cpy => .cpy n t
  | .bit => .bit n t
  | .inc => .inc n t
  | .dec => .dec n t
  | .neg => .neg n t
  | .nott => .nott n t
  | .mov => .mov n t
  | .shl => .shl n t
  | .shr => .shr n t
  | .asr => .asr n t
  | .ror => .ror n t
  | .mul => .mul n t
  | .dadd => .dadd n t
  | .dsub => .dsub n t
  | .dadj => .dadj n t
  | .crcs => .crcs n t
  | .par => .par n t
  | .brev => .brev n t
  | .br => .br n t
  | .nvHint => .nvHint n t
  | .call => .call n t
  | .dbx => .dbx n t
  | .jmpr => .jmpr n t
  | .callr => .callr n t
  | .ret => .ret n t
  | .rete => .rete n t
  | .loop => .loop n t
  | .lclr => .lclr n t
  | .mfs => .mfs n t
  | .mts => .mts n t
  | .wtld => .wtld n t
  | .wtadd => .wtadd n t
  | .wtarm => .wtarm n t
  | .cin => .cin n t
  | .cout => .cout n t
  | .coute => .coute n t
  | .cend => .cend n t
  | .nop | .reserved => .nop n t
  | .sett => .sett n t
  | .clrt => .clrt n t
  | .idle => .idle n t
  | .brk => .brk n t
  | .xop => .xop n t
  | .flashProgram => .flashopProgram n t
  | .flashErase => .flashopEraseSector n t
  | .flashBlank => .flashopBlankCheck n t
  | .flashM0 => .flashopMarginReadM0 n t
  | .flashM1 => .flashopMarginReadM1 n t

/-- R182 to R193: the next step of engine e is due, and executes an instruction `mn` of the channel it serves, whose word can be read
(R433). -/
def State.cruns (s : State) (n e : Nat) (pins : BitVec 24) (mn : ClMn) : Prop :=
  let x := s.cctx n e pins
  s.engineDue n e = true ∧ s.chRuns n e x.c x.ch = true ∧ s.clBad n e x.ch.pc = false ∧ clMn x.w = some mn

/-- R189: the PC in sequence of a channel. -/
def CCtx.seq (x : CCtx) : Nat := if x.ch.pc = x.ch.rwe then x.ch.rwb else (x.ch.pc + 1) % 256

/-- R184, R189, R193: the step has completed its instruction: the channel goes on at `pc` with STALL 0, its engine counts one step, and
every other channel of every engine keeps its registers. -/
def CCtx.completes (x : CCtx) (s w : State) (pc : Nat) : Prop :=
  let ch := w.chan x.key
  ch.pc = pc ∧ ch.flags.getLsbD 1 = false ∧ (w.engine (x.n * 12 + x.e)).k = (s.engine (x.n * 12 + x.e)).k + 1 ∧
    ∀ j, j ≠ x.key → (w.chan j).sh = (s.chan j).sh ∧ (w.chan j).pc = (s.chan j).pc ∧ (w.chan j).shcnt = (s.chan j).shcnt ∧
      (w.chan j).inF = (s.chan j).inF ∧ (w.chan j).outF = (s.chan j).outF ∧ (w.chan j).cntA = (s.chan j).cntA ∧
      (w.chan j).cntB = (s.chan j).cntB ∧ (w.chan j).crcv = (s.chan j).crcv ∧ (w.chan j).gen = (s.chan j).gen

/-- The command that steps an engine whose channel comes to an instruction. -/
def cloveCmd (mn : ClMn) (n : Fin 16) (e : Fin 12) (pins : BitVec 24) : Instr :=
  match mn with
  | .nop => .cloveNop n e pins
  | .out => .cloveOut n e pins
  | .inn => .cloveIn n e pins
  | .set => .cloveSet n e pins
  | .oe => .cloveOe n e pins
  | .pull => .clovePull n e pins
  | .pulln => .clovePulln n e pins
  | .push => .clovePush n e pins
  | .pushn => .clovePushn n e pins
  | .mov => .cloveMov n e pins
  | .and => .cloveAnd n e pins
  | .or => .cloveOr n e pins
  | .xor => .cloveXor n e pins
  | .jmp => .cloveJmp n e pins
  | .wait => .cloveWait n e pins
  | .ldc => .cloveLdc n e pins
  | .mvr => .cloveMvr n e pins
  | .ldsh => .cloveLdsh n e pins
  | .dly => .cloveDly n e pins
  | .wrap => .cloveWrap n e pins
  | .crc => .cloveCrc n e pins
  | .gadr => .cloveGadr n e pins
  | .gpost => .cloveGpost n e pins
  | .hsh => .cloveHsh n e pins
  | .irq => .cloveIrq n e pins
  | .halt => .cloveHalt n e pins

/-! ## Host commands -/

/-- R281: command c is the next of session k to start, alone in it, and no command of the admin session stands beside it. -/
def State.starts (s : State) (k : Nat) (c : Cmd) : Prop :=
  s.clk.mainRst = false ∧ (s.ses k).cmds = [c] ∧ c.started = false ∧ c.bad = false ∧ (k = 0 ∨ (s.ses 0).cmds = [])

/-- R278, R280: command c of session k, alone in it, has been answered with `r`, which takes its addressing from the command: the
response stands in host memory, and the reservation of the command has ended. -/
def State.answers (s w : State) (k : Nat) (c : Cmd) (r : Rsp) : Prop :=
  let r1 := { r with
    opcode := c.opcode
    tag := c.tag
    conduit := c.conduit }
  (w.ses k).cmds = [] ∧ (w.ses k).rsv = (s.ses k).rsv - c.need ∧ (w.ses k).rtail = ((s.ses k).rtail + slotsOf r.payload.length) % 2 ^ 24 ∧
    w.host.mem = (s.putRsp k r1).host.mem

/-! ## Frames of the link -/

/-- R371: a valid frame of type t comes to a port that carries frames. -/
def State.hears (s : State) (t p : Nat) (f : Frame) : Prop :=
  s.clk.mainRst = false ∧ 2 ≤ (s.lport p).st ∧ f.typ = t ∧ f.ok = true

/-- R379: a valid frame of type t comes to a port that carries all traffic, and is for this node. -/
def State.reached (s : State) (t p : Nat) (f : Frame) : Prop :=
  s.hears t p f ∧ (s.lport p).carries = true ∧ (t = 7 → s.casc.rooted = true) ∧ s.mayPass p f = true ∧ s.route f.dst = .here

end Sys2Proof.Machine
end

