-- ==== Sys2Proof/Certificates/Slice0/Obligations.lean ====
section
/-! DEFINITION. The statements for the provers: 60 obligations about the block. Each names the rules of spec/ it comes from; OBLIGATIONS.json lists
them with their titles. -/

open Sys2Proof Sys2Proof.Machine

/-- With a command at the front of the queue a step is `exec` of it on the state with the queue's rest. With none, one tick passes: TB counts
unless MAIN reset is asserted or TB is in LF mode (R43; that the empty queue stands for a tick is the model's choice, log entry 1). -/
def Obligations.StepRunsFront : Prop :=
  ∀ s : State,
    (∀ c rest, s.pending = c :: rest → step s = exec c (s.popped rest)) ∧
    (∀ c, step { s with pending := c :: s.pending } = exec c s) ∧
    (s.pending = [] → ∃ w, step s = .next w ∧ (s.clk.mainRst = true → w = s) ∧
      (s.clk.mainRst = false → s.boot.toRun = false → w.clk.tb = if s.clk.lfMode then s.clk.tb else (s.clk.tb + 1) % 2 ^ 64))

/-- Every step answers a next state: it takes the front of the queue and nothing else of it, and it keeps the invariant of the block:
memories and tables in their canonical form, TB, the LF count and its accumulator within their widths, and at most 32 entries in the
recorder's queue. -/
def Obligations.StepKeepsInv : Prop :=
  ∀ s : State, ∃ w, step s = .next w ∧ w.pending = s.pending.tail ∧ (s.Inv → w.Inv)

/-- The state after reset keeps the invariant, has an empty queue, both resets asserted, every Span disabled and in reset, every thread IDLE,
and the registers at the reset values of their tables. -/
def Obligations.ResetState : Prop :=
  let s := State.reset
  s.Inv ∧ s.pending = [] ∧ s.clk.mainRst = true ∧ s.clk.backupRst = true ∧ s.clk.tb = 0 ∧ s.clk.lf = 0 ∧ s.frz.st = .idle ∧ s.frz.holder = 0 ∧
    s.mem = [] ∧ s.bk.head = 0 ∧ s.mor.next = 0 ∧
    (∀ n : Fin 16, s.spanEn n = false ∧ (s.core n).inRst = true ∧
      s.reg (spanOff n 0x800) = (if n = 0 then 0x80 else 0) ∧ s.reg (spanOff n 0x400) = 0x10000000 ∧ s.reg (spanOff n 0xC00) = 0x100 ∧
      s.reg (ceOff n 11 + 4) = 0x100 ∧ s.reg (chnOff n 11 3) = 0x10000000 ∧ s.reg (chnOff n 11 3 + 4) = 0xFF ∧
      s.reg (tmOff n 7) = 0x1800 ∧ s.reg (pinOff n 23) = 0 ∧ s.reg (pinOff n 23 + 4) = 0x190) ∧
    (∀ g : Fin 256, (s.thr g).st = .idle ∧ (s.thr g).pc = 0 ∧ (s.thr g).masked = false) ∧
    s.reg 0x110 = 0x1000 ∧ s.reg 0x20018 = 0x00100100 ∧ s.reg 0x28000 = 0x00060600 ∧ s.reg 0x31000 = 0x030C8800 ∧ s.reg 0x40000 = 3 ∧
    s.reg 0x44000 = 0x80101400 ∧ s.reg 0x50030 = 0x10000 ∧ s.reg 0x50034 = 0x100000 ∧ s.reg 0x50104 = 0x01010100 ∧ s.reg 0x70000 = 0x10000 ∧
    s.reg 0x70004 = 0x400

/-- R132, R133: ADD, ADC, SUB, SBC, CMP, CPX and CPY. The first operand is A as DEC read it (X for CPX, Y for CPY), the second the
operand of the addressing mode. N, Z, C, V and H are stated as arithmetic on numbers; a compare writes no register and leaves H; T
stays. -/
def Obligations.ArithmeticResult : Prop :=
  ∀ (s u : State) (n t : Fin 16) (c : Ctx) (mn : Mn) (v : Nat),
    s.slot n t = some (c, u) → c.runs u mn → c.reads u v → mn ∈ [Mn.add, .adc, .sub, .sbc, .cmp, .cpx, .cpy] →
    let m := if mn = .cpx then c.th.x else if mn = .cpy then c.th.y else c.th.a
    let b : Word := BitVec.ofNat 32 v
    let k : Nat := if mn = .adc then b2n (flC c.th.fl) else if mn = .sbc then 1 - b2n (flC c.th.fl) else 0
    let plus : Bool := mn = .add || mn = .adc
    let compare : Bool := mn = .cmp || mn = .cpx || mn = .cpy
    let r : Word := if plus then m + b + BitVec.ofNat 32 k else m - b - BitVec.ofNat 32 k
    ∃ w, exec (strandCmd mn n t) s = .next w ∧
      let old := u.at (gthr n t) (c.r + 6)
      let new := w.at (gthr n t) (c.r + 6)
      new.a = (if compare then old.a else r) ∧
      flN new.fl = r.msb ∧ flZ new.fl = (r == 0) ∧
      flC new.fl = (if plus then decide (2 ^ 32 ≤ m.toNat + b.toNat + k) else decide (b.toNat + k ≤ m.toNat)) ∧
      flV new.fl = decide (r.toInt ≠ if plus then m.toInt + b.toInt + k else m.toInt - b.toInt - k) ∧
      flH new.fl = (if compare then flH old.fl else if plus then decide (16 ≤ m.toNat % 16 + b.toNat % 16 + k)
        else decide (m.toNat % 16 < b.toNat % 16 + k)) ∧
      flT new.fl = flT old.fl

/-- R132, R134: AND, OR, XOR and BIT, and the four shifts. C of a shift is the last bit moved out, 0 where the count is 0; BIT writes
no register. -/
def Obligations.LogicAndShiftResult : Prop :=
  ∀ (s u : State) (n t : Fin 16) (c : Ctx) (mn : Mn) (v : Nat),
    s.slot n t = some (c, u) → c.runs u mn → c.reads u v → mn ∈ [Mn.andd, .orr, .xorr, .bit, .shl, .shr, .asr, .ror] →
    let a := c.th.a
    let b : Word := BitVec.ofNat 32 v
    let k := v % 32
    let shift : Bool := mn = .shl || mn = .shr || mn = .asr || mn = .ror
    let r : Word := match mn with
      | .orr => a ||| b
      | .xorr => a ^^^ b
      | .shl => a <<< k
      | .shr => a >>> k
      | .asr => a.sshiftRight k
      | .ror => (a >>> k) ||| (a <<< (32 - k))
      | _ => a &&& b
    ∃ w, exec (strandCmd mn n t) s = .next w ∧
      let old := u.at (gthr n t) (c.r + 6)
      let new := w.at (gthr n t) (c.r + 6)
      new.a = (if mn = .bit then old.a else r) ∧
      flN new.fl = r.msb ∧ flZ new.fl = (r == 0) ∧
      flC new.fl = (if shift then decide (k ≠ 0) && a.getLsbD (if mn = .shl then 32 - k else k - 1) else flC old.fl) ∧
      flV new.fl = flV old.fl ∧ flH new.fl = flH old.fl ∧ flT new.fl = flT old.fl

/-- R72, R130: LD, LDX, LDY and LDS. The register named takes the operand in the round its result lands, load return for an operand from
memory, LD of size D loads A:X, and LDS extends the sign of a byte or halfword; N and Z follow the value loaded in WBK, and the other flags
stay. -/
def Obligations.LoadResult : Prop :=
  ∀ (s u : State) (n t : Fin 16) (c : Ctx) (mn : Mn) (v : Nat),
    s.slot n t = some (c, u) → c.runs u mn → c.reads u v → mn ∈ [Mn.ld, .ldx, .ldy, .lds] →
    let r : Word := if mn = .lds ∧ c.d.size = 1 then (BitVec.ofNat 8 v).signExtend 32
      else if mn = .lds ∧ c.d.size = 2 then (BitVec.ofNat 16 v).signExtend 32 else BitVec.ofNat 32 v
    let wide : Bool := mn = .ld && c.d.size = 8
    let hi : Word := BitVec.ofNat 32 (v / 2 ^ 32)
    ∃ w, exec (strandCmd mn n t) s = .next w ∧
      let loaded := w.at (gthr n t) c.due
      let old := u.at (gthr n t) (c.r + 6)
      let new := w.at (gthr n t) (c.r + 6)
      (if mn = .ldx then loaded.x else if mn = .ldy then loaded.y else loaded.a) = r ∧
      (wide = true → loaded.x = hi) ∧
      flN new.fl = (if wide then hi.msb else r.msb) ∧ flZ new.fl = (r == 0 && (!wide || hi == 0)) ∧
      flC new.fl = flC old.fl ∧ flV new.fl = flV old.fl ∧ flH new.fl = flH old.fl ∧ flT new.fl = flT old.fl

/-- R130, R84: ST, STX and STY. To Span memory: the bytes from the address the mode forms on hold the register (A:X for size D), whether
the bank or a store buffer took them; every other byte of every Span reads as before, and so do flash and the option area. In mode REG:
the register its selector names takes the value in WBK, and no memory changes. -/
def Obligations.StoreResult : Prop :=
  (∀ (s u : State) (n t : Fin 16) (c : Ctx) (mn : Mn) (a : Nat),
     s.slot n t = some (c, u) → c.runs u mn → mn ∈ [Mn.st, .stx, .sty] → c.stores u a →
     let v := if mn = .stx then c.th.x.toNat else if mn = .sty then c.th.y.toNat
       else if c.d.size = 8 then c.th.a.toNat + c.th.x.toNat * 2 ^ 32 else c.th.a.toNat
     ∃ w, exec (strandCmd mn n t) s = .next w ∧
       w.memRead n a c.d.size = v % 2 ^ (8 * c.d.size) ∧
       (∀ (m : Fin 16) (b : Nat), b < 0x100000 → (m ≠ n ∨ b < a ∨ a + c.d.size ≤ b) → w.memByte m b = u.memByte m b) ∧
       w.flash = u.flash ∧ w.opt = u.opt) ∧
  (∀ (s u : State) (n t : Fin 16) (c : Ctx) (mn : Mn),
     s.slot n t = some (c, u) → c.runs u mn → mn ∈ [Mn.st, .stx, .sty] → c.d.mode = .reg →
     let k := c.d.d.toNat
     let v := if mn = .stx then c.th.x else if mn = .sty then c.th.y else c.th.a
     ∃ w, exec (strandCmd mn n t) s = .next w ∧
       let old := u.at (gthr n t) (c.r + 6)
       let new := w.at (gthr n t) (c.r + 6)
       selReg k new.a new.x new.y = v ∧ new.fl = old.fl ∧ (∀ m b, w.memByte m b = u.memByte m b) ∧
       (k ≠ 0 → new.a = old.a) ∧ (k ≠ 1 → new.x = old.x) ∧ (k ≤ 1 → new.y = old.y))

/-- R129, R134: the first beat of MUL takes the operand and changes no register; the second issues in the thread's next own slot, and in its
WBK A:X is the 64-bit product and N, Z and C follow it, while V, H and T stay. (In mode XP the post-modify falls on the X of the product:
its value is open, log entry 44.) -/
def Obligations.MulResult : Prop :=
  (∀ (s u : State) (n t : Fin 16) (c : Ctx) (v : Nat),
     s.slot n t = some (c, u) → c.runs u .mul → c.reads u v →
     let p := c.th.a.toNat * (v % 2 ^ 32)
     ∃ w ws, exec (.mul n t) s = .next w ∧
       (w.thr (gthr n t)).multi = some ⟨c.d, .mul ws⟩ ∧ (w.thr (gthr n t)).pc = c.pc ∧
       (∀ r, let old := u.at (gthr n t) r; let new := w.at (gthr n t) r
         new.a = old.a ∧ new.x = old.x ∧ new.y = old.y ∧ new.fl = old.fl) ∧
       (∀ m b, w.memByte m b = u.memByte m b) ∧
       ∀ th : Thread, let new := ws.foldl landOne th
         new.a.toNat = p % 2 ^ 32 ∧ (c.d.mode ≠ .xp → new.x.toNat = p / 2 ^ 32) ∧
         new.y = (if c.d.mode = .yp then c.th.y + c.d.d else th.y) ∧
         flN new.fl = decide (2 ^ 63 ≤ p) ∧ flZ new.fl = decide (p = 0) ∧ flC new.fl = decide (2 ^ 32 ≤ p) ∧
         flV new.fl = flV th.fl ∧ flH new.fl = flH th.fl ∧ flT new.fl = flT th.fl) ∧
  (∀ (s u : State) (n t : Fin 16) (c : Ctx) (ws : List LandW),
     s.beatSlot n t = some (c, .mul ws, u) → c.d.mn = .mul →
     ∃ w, exec (.mul n t) s = .next w ∧
       let new := w.at (gthr n t) (c.r + 6)
       let done := ws.foldl landOne (u.at (gthr n t) (c.r + 6))
       new.a = done.a ∧ new.x = done.x ∧ new.y = done.y ∧ new.fl = done.fl ∧ (w.thr (gthr n t)).multi = none ∧
       (c.noLoop → (w.thr (gthr n t)).pc = c.pc + BitVec.ofNat 32 c.d.len) ∧ (∀ m b, w.memByte m b = u.memByte m b))

/-- R130, R132, R137: LIL, LIH, INC, DEC, NEG, NOT, MOV, BREV and PAR, whose operands are registers and immediates. Each writes the one
register named, and PAR none; NOT and BREV set N and Z, PAR sets C to the parity of A, INC, DEC and NEG set the flags of ADD and SUB, and
LIL, LIH and MOV set none. -/
def Obligations.RegisterResult : Prop :=
  ∀ (s u : State) (n t : Fin 16) (c : Ctx) (mn : Mn),
    s.slot n t = some (c, u) → c.runs u mn → mn ∈ [Mn.lil, .lih, .inc, .dec, .neg, .nott, .mov, .brev, .par] →
    let k := if mn = .neg ∨ mn = .nott ∨ mn = .brev ∨ mn = .par then 0 else c.d.f
    let x := selReg (if mn = .mov then c.d.g else k) c.th.a c.th.x c.th.y
    ∃ w, exec (strandCmd mn n t) s = .next w ∧
      let old := u.at (gthr n t) (c.r + 6)
      let new := w.at (gthr n t) (c.r + 6)
      let r := selReg k new.a new.x new.y
      (mn = .lil → r = c.d.d) ∧
      (mn = .lih → c.d.d.toNat < 2 ^ 16 → r.toNat = c.d.d.toNat * 2 ^ 16 + x.toNat % 2 ^ 16) ∧
      (mn = .inc → r = x + 1) ∧ (mn = .dec → r = x - 1) ∧ (mn = .neg → r = 0 - x) ∧ (mn = .nott → ∀ i, i < 32 → r.getLsbD i = !x.getLsbD i) ∧
      (mn = .mov → r = x) ∧ (mn = .brev → ∀ i, i < 32 → r.getLsbD i = x.getLsbD (31 - i)) ∧
      (mn = .par → r = old.a ∧ flC new.fl = ((List.range 32).countP (fun i => x.getLsbD i) % 2 == 1)) ∧
      (k ≠ 0 → new.a = old.a) ∧ (k ≠ 1 → new.x = old.x) ∧ (k ≤ 1 → new.y = old.y) ∧
      (mn ∈ [Mn.lil, .lih, .mov] → new.fl = old.fl) ∧
      (mn ∈ [Mn.inc, .dec, .neg, .nott, .brev] → flN new.fl = r.msb ∧ flZ new.fl = (r == 0)) ∧
      (mn ∈ [Mn.nott, .brev] → flC new.fl = flC old.fl) ∧
      (mn ∈ [Mn.nott, .brev, .par] → flV new.fl = flV old.fl ∧ flH new.fl = flH old.fl) ∧
      (mn = .par → flN new.fl = flN old.fl ∧ flZ new.fl = flZ old.fl) ∧
      (mn = .inc → flC new.fl = decide (x.toNat = 2 ^ 32 - 1) ∧ flV new.fl = decide (x.toNat = 2 ^ 31 - 1) ∧
        flH new.fl = decide (x.toNat % 16 = 15)) ∧
      (mn = .dec → flC new.fl = decide (x.toNat ≠ 0) ∧ flV new.fl = decide (x.toNat = 2 ^ 31) ∧ flH new.fl = decide (x.toNat % 16 = 0)) ∧
      (mn = .neg → flC new.fl = decide (x.toNat = 0) ∧ flV new.fl = decide (x.toNat = 2 ^ 31) ∧ flH new.fl = decide (x.toNat % 16 ≠ 0)) ∧
      flT new.fl = flT old.fl

/-- R135, R136: DADD, DSUB and DADJ on words whose digits are all at most 9 are decimal arithmetic on eight digits: the carry out is
10⁸, the borrow in and out is 1 − C, and DADJ forms the magnitude where C is 0 and leaves A unwritten where C
is 1. V says that some digit was above 9; on any digits at all
the result is the one of the digit rule, with no other correction. -/
def Obligations.DecimalResult : Prop :=
  ∀ (s u : State) (n t : Fin 16) (c : Ctx) (mn : Mn) (v : Nat),
    s.slot n t = some (c, u) → c.runs u mn → mn ∈ [Mn.dadd, .dsub, .dadj] → (mn = .dadj ∨ c.reads u v) →
    let a := c.th.a
    let b : Word := BitVec.ofNat 32 v
    let k := b2n (flC c.th.fl)
    let good : Bool := goodDigits a && (mn = .dadj || goodDigits b)
    let dig := fun (x : Word) (i : Nat) => bits x (4 * i) 4
    let sum := (List.range 8).foldl (fun p i =>
      let q := dig a i + dig b i + p.2
      if 9 < q then (p.1 + (q - 10) % 16 * 16 ^ i, 1) else (p.1 + q * 16 ^ i, 0)) (0, k)
    let diff := fun (x y : Word) (w : Nat) => (List.range 8).foldl (fun p i =>
      let m := dig y i + p.2
      if dig x i < m then (p.1 + (dig x i + 26 - m) % 16 * 16 ^ i, 1) else (p.1 + (dig x i - m) * 16 ^ i, 0)) (0, w)
    ∃ w, exec (strandCmd mn n t) s = .next w ∧
      let old := u.at (gthr n t) (c.r + 6)
      let new := w.at (gthr n t) (c.r + 6)
      let res := if mn = .dadj ∧ k = 1 then a else new.a
      (mn = .dadj → k = 1 → new.a = old.a) ∧
      (good = true → goodDigits res = true ∧
        (mn = .dadd → decVal new.a + 10 ^ 8 * b2n (flC new.fl) = decVal a + decVal b + k) ∧
        (mn = .dsub → decVal new.a + decVal b + (1 - k) = decVal a + 10 ^ 8 * (1 - b2n (flC new.fl))) ∧
        (mn = .dadj → k = 0 → decVal new.a = (10 ^ 8 - decVal a) % 10 ^ 8)) ∧
      (mn = .dadd → (new.a.toNat, b2n (flC new.fl)) = sum) ∧
      (mn = .dsub → (new.a.toNat, 1 - b2n (flC new.fl)) = diff a b (1 - k)) ∧
      (mn = .dadj → k = 0 → new.a.toNat = (diff 0 a 0).1) ∧
      flV new.fl = !good ∧ flZ new.fl = (res == 0) ∧ flT new.fl = flT old.fl ∧
      (mn = .dadj → flN new.fl = (k == 0) ∧ flC new.fl = flC old.fl ∧ flH new.fl = flH old.fl) ∧
      (mn ≠ .dadj → flN new.fl = new.a.msb) ∧
      (mn = .dadd → flH new.fl = decide (9 < a.toNat % 16 + b.toNat % 16 + k)) ∧
      (mn = .dsub → flH new.fl = decide (a.toNat % 16 < b.toNat % 16 + (1 - k)))

/-- R138: CRCS folds data bits of X into the state in A, reduced to its low w bits: unreflected, the state shifts left and takes the
generator in where the bit shifted out differs from the data bit, most significant bit first; reflected, it shifts right and takes the
reversed generator in, least significant bit first. Z follows the result. With CRCCFG 0, or Y above 7, it traps ILLEGAL in DEC. -/
def Obligations.CrcResult : Prop :=
  ∀ (s u : State) (n t : Fin 16) (c : Ctx),
    s.slot n t = some (c, u) →
    (c.runs u .crcs →
      let w := c.th.crccfg.toNat.log2 + 1
      let gen := (c.th.crccfg.toNat * 2 + 1) % 2 ^ w
      let genR := (List.range w).foldl (fun acc i => 2 * acc + gen / 2 ^ i % 2) 0
      let count := if bits c.th.y 1 2 = 0 then 8 else if bits c.th.y 1 2 = 3 then 1 else 16 * bits c.th.y 1 2
      let up := (List.range count).map fun i => c.th.x.getLsbD i
      let state := c.th.a.toNat % 2 ^ w
      ∃ z, exec (.crcs n t) s = .next z ∧
        let old := u.at (gthr n t) (c.r + 6)
        let new := z.at (gthr n t) (c.r + 6)
        (c.th.y.getLsbD 0 = false → new.a.toNat =
          up.reverse.foldl (fun acc d => (2 * acc % 2 ^ w) ^^^ (if (decide (2 ^ w ≤ 2 * acc)) != d then gen else 0)) state) ∧
        (c.th.y.getLsbD 0 = true → new.a.toNat =
          up.foldl (fun acc d => (acc / 2) ^^^ (if (acc % 2 == 1) != d then genR else 0)) state) ∧
        new.a.toNat < 2 ^ w ∧ flZ new.fl = (new.a == 0) ∧ flN new.fl = flN old.fl ∧ flC new.fl = flC old.fl ∧
        flV new.fl = flV old.fl ∧ flH new.fl = flH old.fl ∧ flT new.fl = flT old.fl) ∧
    (c.d.mn = .crcs → c.th.stepping = false → c.th.crccfg = 0 ∨ 7 < c.th.y.toNat → ∃ z, exec (.crcs n t) s = .next z ∧
      c.trapped u z 2 1 c.d.h0.toNat ∧ z.mem = u.mem)

/-- R125, R133: an instruction that works on registers and immediates leaves everything outside its thread as it was when its slot came:
every other thread and core, every byte of memory, and its own thread's special registers, return stack and deadline. (A debugger's step,
R442, is stated apart.) -/
def Obligations.RegisterFormFrame : Prop :=
  ∀ (s u w : State) (n t : Fin 16) (c : Ctx) (mn : Mn),
    s.slot n t = some (c, u) → c.runs u mn → c.th.stepping = false →
    (mn ∈ plainRows ∨ (mn ∈ operandRows ∧ (c.d.mode = .imm ∨ c.d.mode = .reg))) →
    exec (strandCmd mn n t) s = .next w →
    u.outside w ∧ (∀ i, i ≠ gthr n t → w.thr i = u.thr i) ∧ (∀ m, w.core m = u.core m) ∧
      (∀ m b, w.memByte m b = u.memByte m b) ∧
      (w.at (gthr n t) (c.r + 6)).special = (u.at (gthr n t) (c.r + 6)).special

/-- R117, R139: PC after an instruction that transfers no control: the next in sequence where no active loop ends here; the head of the
highest loop that ends here while its count is above 1, with the count one less; past a loop whose count was 1, with the count 0. LOOP
sets the begin, end and count of its level and clears the counts above it; with the count taken from X = 0 it also goes to the instruction
after the one at its end. Bit 0 of PC is 0. LCLR clears the count of its level. -/
def Obligations.LoopsAndSequence : Prop :=
  (∀ (s u : State) (n t : Fin 16) (c : Ctx) (mn : Mn),
     s.slot n t = some (c, u) → c.runs u mn → mn ∈ plainRows →
     ∃ w, exec (strandCmd mn n t) s = .next w ∧
       let th := w.thr (gthr n t)
       (c.noLoop → th.pc = c.pc + BitVec.ofNat 32 c.d.len) ∧
       (∀ k, k < 3 → c.endsLoop k → (∀ j, k < j → j < 3 → ¬ c.endsLoop j) → tabGet 0 c.th.lc k ≠ 1 →
         th.pc = tabGet 0 c.th.lb k &&& 0xFFFFFFFE ∧ tabGet 0 th.lc k = tabGet 0 c.th.lc k - 1) ∧
       (∀ k, k < 3 → c.endsLoop k → (∀ j, j < 3 → j ≠ k → ¬ c.endsLoop j) → tabGet 0 c.th.lc k = 1 →
         th.pc = c.pc + BitVec.ofNat 32 c.d.len ∧ tabGet 0 th.lc k = 0)) ∧
  (∀ (s u : State) (n t : Fin 16) (c : Ctx),
     s.slot n t = some (c, u) →
     (c.runs u .loop →
       let begin := c.pc + BitVec.ofNat 32 c.d.len
       let last := begin + BitVec.ofNat 32 (2 * (c.d.g % 2 ^ 10))
       let count := if c.d.g / 2 ^ 10 = 1 then c.th.x else c.d.d
       ∃ w, exec (.loop n t) s = .next w ∧
         let new := w.at (gthr n t) (c.r + 6)
         tabGet 0 new.lb c.d.f = begin ∧ tabGet 0 new.le c.d.f = last ∧ tabGet 0 new.lc c.d.f = count ∧
         (∀ j, c.d.f < j → tabGet 0 new.lc j = 0) ∧
         (count ≠ 0 → c.noLoop → (w.thr (gthr n t)).pc = begin) ∧
         (count = 0 → (w.thr (gthr n t)).pc = (last + BitVec.ofNat 32 (u.lenAt n last.toNat)) &&& 0xFFFFFFFE)) ∧
     (c.runs u .lclr → ∃ w, exec (.lclr n t) s = .next w ∧ tabGet 0 (w.at (gthr n t) (c.r + 6)).lc c.d.f = 0))

/-- R102, R118, R139, R140: BR, CALL, DBX, JMPR, CALLR, RET and RETE go to their target, with bit 0 of PC at 0. Calls push the next PC, RET pops the return stack,
RETE restores FL and unmasks events, and DBX writes X − 1 and goes where the X it reads is not 1. -/
def Obligations.ControlTransfer : Prop :=
  ∀ (s u : State) (n t : Fin 16) (c : Ctx) (mn : Mn),
    s.slot n t = some (c, u) → c.runs u mn → mn ∈ [Mn.br, .call, .dbx, .jmpr, .callr, .ret, .rete] →
    ¬ ((mn = .call ∨ mn = .callr) ∧ c.th.depth = 8 ∧ c.th.rstkTrap = true) →
    ¬ (mn = .ret ∧ c.th.depth = 0 ∧ c.th.rstkTrap = true) →
    let target := if mn = .jmpr ∨ mn = .callr then selReg c.d.f c.th.a c.th.x c.th.y
      else if mn = .ret then tabGet 0 c.th.rstk ((c.th.rptr + 7) % 8) else if mn = .rete then c.th.epc else c.pc + c.d.d
    ∃ w, exec (strandCmd mn n t) s = .next w ∧
      let th := w.thr (gthr n t)
      let old := u.at (gthr n t) (c.r + 6)
      let new := w.at (gthr n t) (c.r + 6)
      (¬ (mn = .dbx ∧ c.th.x = 1) → th.pc = target &&& 0xFFFFFFFE) ∧
      (mn = .dbx → c.th.x = 1 → c.noLoop → th.pc = c.pc + BitVec.ofNat 32 c.d.len) ∧
      (mn = .call ∨ mn = .callr → th.depth = min 8 (c.th.depth + 1) ∧ th.rptr = (c.th.rptr + 1) % 8 ∧
        tabGet 0 th.rstk c.th.rptr = c.pc + BitVec.ofNat 32 c.d.len) ∧
      (mn = .ret → th.depth = c.th.depth - 1 ∧ th.rptr = (c.th.rptr + 7) % 8) ∧
      (mn = .rete → th.masked = false ∧ new.fl = c.th.efl) ∧
      (mn ≠ .rete → new.fl = old.fl ∧ th.masked = c.th.masked) ∧
      new.x = (if mn = .dbx then c.th.x - 1 else old.x) ∧ new.a = old.a ∧ new.y = old.y ∧
      (mn ∈ [Mn.br, .dbx, .jmpr, .rete] → th.rstk = c.th.rstk ∧ th.rptr = c.th.rptr ∧ th.depth = c.th.depth) ∧
      (∀ m b, w.memByte m b = u.memByte m b)

/-- R107, R110, R114, R118: the instructions that trap in DEC without effect: an illegal encoding of any row, a call with a full and a
return with an empty return stack while RSTK_TRAP is 1, and BRK while BRK_HALT is 0. No register, flag or byte of memory changes. -/
def Obligations.TrapsInDecode : Prop :=
  ∀ (s u : State) (n t : Fin 16) (c : Ctx) (v d : Nat),
    s.slot n t = some (c, u) → c.th.stepping = false → c.d.mn ≠ .reserved →
    (((c.view u).decIll c.d c.th = true ∧ v = 1 ∧ d = c.d.h0.toNat) ∨
      ((c.runs u .call ∨ c.runs u .callr) ∧ c.th.depth = 8 ∧ c.th.rstkTrap = true ∧ v = 7 ∧ d = 0) ∨
      (c.runs u .ret ∧ c.th.depth = 0 ∧ c.th.rstkTrap = true ∧ v = 7 ∧ d = 1) ∨
      (c.runs u .brk ∧ u.bit 0x80000 31 = false ∧ v = 8 ∧ d = 0)) →
    ∃ w, exec (strandCmd c.d.mn n t) s = .next w ∧ c.trapped u w 2 v d ∧ w.mem = u.mem ∧
      let old := u.at (gthr n t) (c.r + 6)
      let new := w.at (gthr n t) (c.r + 6)
      new.a = old.a ∧ new.x = old.x ∧ new.y = old.y ∧ new.fl = old.fl

/-- R74, R125, R129: an instruction whose condition is false is a no-op that takes its beats: no register, flag or byte of memory changes;
after its last beat the thread goes on in sequence. -/
def Obligations.FalseConditionIsNoOp : Prop :=
  (∀ (s u : State) (n t : Fin 16) (c : Ctx),
     s.slot n t = some (c, u) → c.d.mn ≠ .reserved → (c.view u).decIll c.d c.th = false →
     condTrue c.d.cond c.th.fl = false → c.noLoop →
     ∃ w, exec (strandCmd c.d.mn n t) s = .next w ∧
       let th := w.thr (gthr n t)
       ((c.view u).moreBeats c.d = 0 → th.pc = c.pc + BitVec.ofNat 32 c.d.len ∧ th.multi = none) ∧
       (∀ k, (c.view u).moreBeats c.d = k + 1 → th.pc = c.pc ∧ th.multi = some ⟨c.d, .noop (k + 1)⟩) ∧
       (∀ r, let old := u.at (gthr n t) r; let new := w.at (gthr n t) r
         new.a = old.a ∧ new.x = old.x ∧ new.y = old.y ∧ new.fl = old.fl) ∧
       (∀ m b, w.memByte m b = u.memByte m b)) ∧
  (∀ (s u : State) (n t : Fin 16) (c : Ctx) (k : Nat),
     s.beatSlot n t = some (c, .noop (k + 1), u) → (c.d.mn = .mul ∨ c.d.mn = .xop) → c.noLoop →
     ∃ w, exec (strandCmd c.d.mn n t) s = .next w ∧
       let th := w.thr (gthr n t)
       (k = 0 → th.pc = c.pc + BitVec.ofNat 32 c.d.len ∧ th.multi = none) ∧
       (k ≠ 0 → th.pc = c.pc ∧ th.multi = some ⟨c.d, .noop k⟩) ∧
       (∀ r, let old := u.at (gthr n t) r; let new := w.at (gthr n t) r
         new.a = old.a ∧ new.x = old.x ∧ new.y = old.y ∧ new.fl = old.fl) ∧
       (∀ m b, w.memByte m b = u.memByte m b))

/-- R105, R141, R142: MFS copies a special register into A, X or Y, and MTS a register into a special one, with the width the special
register has. MTS to TCTL or CRCCFG in OPERATE traps PRIV. WTLD, WTADD and WTARM write the deadline. -/
def Obligations.SpecialRegisters : Prop :=
  ∀ (s u : State) (n t : Fin 16) (c : Ctx) (mn : Mn),
    s.slot n t = some (c, u) → c.runs u mn → mn ∈ [Mn.mfs, .mts, .wtld, .wtadd, .wtarm] →
    let v := selReg c.d.f c.th.a c.th.x c.th.y
    let priv := mn = .mts ∧ (c.d.g = 0x16 ∨ c.d.g = 0x1A) ∧ c.th.st = .operate
    ∃ w, exec (strandCmd mn n t) s = .next w ∧ (priv → c.th.stepping = false → c.trapped u w 2 2 c.d.g) ∧
      (¬ priv →
        let old := u.at (gthr n t) (c.r + 6)
        let new := w.at (gthr n t) (c.r + 6)
        (mn = .mfs → selReg c.d.f new.a new.x new.y = srRead c.th (gthr n t) (u.det n t) c.d.g) ∧
        (mn ≠ .mfs → new.a = old.a ∧ new.x = old.x ∧ new.y = old.y) ∧ (mn = .mts ∧ c.d.g = 0 ∨ new.fl = old.fl) ∧
        (mn = .mts → c.d.g ∈ [1, 3, 4, 5, 6, 8, 9, 10, 12, 13, 14, 16, 17, 18, 0x14, 0x1A] →
          srRead new (gthr n t) (u.det n t) c.d.g = v) ∧
        (mn = .mts → c.d.g = 0 → new.fl.toNat = v.toNat % 64) ∧ (mn = .mts → c.d.g = 2 → new.efl.toNat = v.toNat % 64) ∧
        (mn = .mts → c.d.g = 7 → new.arm = v.getLsbD 0) ∧ (mn = .mts → c.d.g = 0x15 → new.depth = v.toNat % 16) ∧
        (mn = .mts → c.d.g = 0x16 → new.rstkTrap = v.getLsbD 0) ∧ (mn = .mts → c.d.g = 0x19 → new.even.toNat = v.toNat % 256) ∧
        (mn = .wtld → new.wt.toNat = c.th.a.toNat + 2 ^ 32 * c.th.x.toNat) ∧
        (mn = .wtadd → new.wt = c.th.wt + c.d.d.signExtend 64) ∧ (mn = .wtarm → new.arm = (c.d.f == 1)))

/-- R46: TBRD returns a value of TB at most 3 ticks old, and never less than an earlier TBRD of the same thread. -/
def Obligations.TbrdWithinThreeTicks : Prop :=
  ∀ (s u : State) (n t : Fin 16) (c : Ctx),
    s.slot n t = some (c, u) → c.runs u .tbrd → u.clk.tb < 2 ^ 64 → c.th.tbrd ≤ u.clk.tb →
    ∃ w, exec (.tbrd n t) s = .next w ∧
      let new := w.at (gthr n t) (c.r + 6)
      let v := new.a.toNat + 2 ^ 32 * new.x.toNat
      u.clk.tb ≤ v + 3 ∧ v ≤ u.clk.tb ∧ c.th.tbrd ≤ v ∧ (w.thr (gthr n t)).tbrd = v

/-- R127, R143, R144, R148: WAITT and WAITE go on once their tick is at least 3 ticks past, and wait before it; the first test of WAITT
after its tick sets T, WAITE sets T where it ends on the tick, and a ready word at the end of WAITE ends it with T unchanged. An end that
is not an enabled input end of the thread sets T at once. -/
def Obligations.TickWaits : Prop :=
  ∀ (s u : State) (n t : Fin 16) (c : Ctx) (mn : Mn),
    s.slot n t = some (c, u) → c.runs u mn → (mn = .waitt ∨ mn = .waite) → c.noLoop → c.th.stepping = false →
    let tick := c.th.a.toNat + 2 ^ 32 * c.th.x.toNat
    let mine := mn = .waitt ∨ u.endMine n t c.d.f false = true
    let ready := mn = .waite ∧ ((u.fillEnd n c.d.f).chEnd (n * 128 + c.d.f)).ready c.r = true
    ∃ w, exec (strandCmd mn n t) s = .next w ∧
      let th := w.thr (gthr n t)
      let old := u.at (gthr n t) (c.r + 6)
      let new := w.at (gthr n t) (c.r + 6)
      (¬ mine ∨ ready ∨ tick + 3 ≤ u.clk.tb → th.wait = 0 ∧ th.pc = c.pc + BitVec.ofNat 32 c.d.len ∧
        (flT new.fl = true ↔ flT old.fl = true ∨ ¬ mine ∨ (¬ ready ∧ ¬ (mn = .waitt ∧ c.th.waited = true)))) ∧
      (mine → ¬ ready → u.clk.tb < tick → th.wait = (if mn = .waitt then 3 else 2) ∧ th.waitTick = tick ∧ th.pc = c.pc ∧
        new.fl = old.fl) ∧
      new.a = old.a ∧ new.x = old.x ∧ new.y = old.y

/-- R116, R149: NOP changes nothing, SETT sets and CLRT clears T, and IDLE puts the thread in IDLE, wakeable, unless an enabled event is
pending. BRK halts the thread where DBG_CTL.BRK_HALT is 1. The hint asks for the flash line of its target for a best-effort thread that has fewer
than two requests outstanding. -/
def Obligations.ThreadControl : Prop :=
  ∀ (s u : State) (n t : Fin 16) (c : Ctx),
    s.slot n t = some (c, u) → c.noLoop → c.th.stepping = false →
    let next := c.pc + BitVec.ofNat 32 c.d.len
    let old := u.at (gthr n t) (c.r + 6)
    (∀ mn, mn ∈ [Mn.nop, .sett, .clrt] → c.runs u mn → ∃ w, exec (strandCmd mn n t) s = .next w ∧
      let new := w.at (gthr n t) (c.r + 6)
      (w.thr (gthr n t)).pc = next ∧ flT new.fl = (if mn = .sett then true else if mn = .clrt then false else flT old.fl) ∧
        flN new.fl = flN old.fl ∧ flZ new.fl = flZ old.fl ∧ flC new.fl = flC old.fl ∧ flV new.fl = flV old.fl ∧
        flH new.fl = flH old.fl ∧ new.a = old.a ∧ new.x = old.x ∧ new.y = old.y) ∧
    (c.runs u .idle → ∃ w, exec (.idle n t) s = .next w ∧
      let th := w.thr (gthr n t)
      th.pc = next ∧ (old.pend.any (fun p => old.enabled p.1) = false → th.st = .idle ∧ th.wakeable = true ∧ th.prev = old.st)) ∧
    (c.runs u .brk → u.bit 0x80000 31 = true → ∃ w, exec (.brk n t) s = .next w ∧
      let th := w.thr (gthr n t)
      th.st = .halted ∧ th.haltCause = 1 ∧ th.pc = next) ∧
    (c.runs u .nvHint → ∃ w, exec (.nvHint n t) s = .next w ∧ (w.thr (gthr n t)).pc = next ∧
      (areaOf (c.pc + c.d.d).toNat = .flash → (c.view u).det n t = false → ((u.core n).lreq.filter fun q => q.t == t.val).length < 2 →
        (w.core n).lbuf.contains (lineOf (c.pc + c.d.d).toNat) = true ∨
          (w.core n).lreq.any (fun q => q.line == lineOf (c.pc + c.d.d).toNat) = true))

/-- R52, R56 to R58, R145, R146: TQ reads its descriptor, forms the tick and eighth, moves the port's cursor to them and hands the
operation to the crossing. It traps ILLEGAL on a descriptor R57 forbids, sets T where its window slot has no port, and holds while the
tick is too far ahead, the port holds 16 entries or 4 records are outstanding. TB below stands for the tick the core compares with,
which lags it by at most 3. -/
def Obligations.TqEnqueues : Prop :=
  ∀ (s u : State) (n t : Fin 16) (c : Ctx) (a v : Nat),
    s.slot n t = some (c, u) → c.runs u .tq → c.noLoop → c.th.stepping = false →
    modeAddr (c.view u) n t c.d c.th.x c.th.y = some a → c.descriptor u a v →
    let stamp := v % 2 ^ 64
    let opw : Word := BitVec.ofNat 32 (v / 2 ^ 64)
    let guard : Word := BitVec.ofNat 32 (v / 2 ^ 96)
    let next := c.pc + BitVec.ofNat 32 c.d.len
    let old := u.at (gthr n t) (c.r + 6)
    ∃ w, exec (.tq n t) s = .next w ∧
      let th := w.thr (gthr n t)
      let new := w.at (gthr n t) (c.r + 6)
      (descIllegal stamp opw guard = true → c.trapped u w 4 1 c.d.h0.toNat ∧ th.cross = c.th.cross) ∧
      (descIllegal stamp opw guard = false → u.portOf n t c.d.f = none → flT new.fl = true ∧ th.pc = next ∧ th.cross = c.th.cross) ∧
      (descIllegal stamp opw guard = false → ∀ p, u.portOf n t c.d.f = some p →
        let q := u.port (n * 32 + p)
        ∀ (tick : Int) (e : Nat),
          (if opw.getLsbD 31 then tick * 8 + e = q.ctick * 8 + q.ceighth + stamp ∧ e < 8
            else tick % 2 ^ 61 = (stamp / 8 : Nat) ∧ e = stamp % 8 ∧ (u.clk.tb : Int) - 2 ^ 60 ≤ tick ∧ tick + 3 < u.clk.tb + 2 ^ 60) →
          (q.queue.length + crossing p c.th.cross < 16 → (opRecords opw = true → q.recOut < 4) → tick + 3 ≤ u.clk.tb + 4096 →
            th.pc = next ∧ th.wait = 0 ∧ new.fl = old.fl ∧
            th.cross = c.th.cross ++ [.op { port := p, wslot := c.d.f, tick := tick, eighth := e, opw := opw, guard := guard }] ∧
            (w.port (n * 32 + p)).ctick = tick ∧ (w.port (n * 32 + p)).ceighth = e ∧
            (w.port (n * 32 + p)).recOut = q.recOut + b2n (opRecords opw) ∧ (c.d.mode = .xp → new.x = c.th.x + 16)) ∧
          (16 ≤ q.queue.length + crossing p c.th.cross ∨ (opRecords opw = true ∧ 4 ≤ q.recOut) ∨ (u.clk.tb : Int) + 4096 < tick →
            th.wait = 5 ∧ th.pc = c.pc ∧ th.cross = c.th.cross ∧ new.x = old.x ∧ (w.port (n * 32 + p)) = q))

/-- R68, R69, R145: TQSR moves the oldest record into A, waits for one, or writes 0 and sets T where nothing is outstanding; TQGC sends
the reopening of its group after the TQs before it; TQEV copies TW_EVT into A and clears VALID and OVF. -/
def Obligations.TimedPortReads : Prop :=
  ∀ (s u : State) (n t : Fin 16) (c : Ctx),
    s.slot n t = some (c, u) → c.noLoop → c.th.stepping = false →
    let next := c.pc + BitVec.ofNat 32 c.d.len
    (c.runs u .tqsr → ∃ w, exec (.tqsr n t) s = .next w ∧
      let th := w.thr (gthr n t)
      let a := (w.at (gthr n t) (c.r + 8)).a
      let fl := (w.at (gthr n t) (c.r + 6)).fl
      let none := ∀ p, u.portOf n t c.d.f = some p → (u.port (n * 32 + p)).recOut = 0
      (none → a = 0 ∧ flT fl = true ∧ flZ fl = true ∧ flN fl = false ∧ th.pc = next) ∧
      (∀ p, u.portOf n t c.d.f = some p → (u.port (n * 32 + p)).recOut ≠ 0 →
        (∀ k v r, (u.port (n * 32 + p)).recs = (k, some v) :: r → a = v ∧ flN fl = v.msb ∧ flZ fl = (v == 0) ∧ th.pc = next ∧
          (w.port (n * 32 + p)).recs = r ∧ (w.port (n * 32 + p)).recOut = (u.port (n * 32 + p)).recOut - 1) ∧
        ((∀ k v r, (u.port (n * 32 + p)).recs ≠ (k, some v) :: r) → th.wait = 4 ∧ th.pc = c.pc ∧ a = (u.at (gthr n t) (c.r + 8)).a))) ∧
    (c.runs u .tqgc → ∃ w, exec (.tqgc n t) s = .next w ∧
      (w.thr (gthr n t)).cross = c.th.cross ++ [.reopen c.d.f] ∧ (w.thr (gthr n t)).pc = next) ∧
    (c.runs u .tqev → ∃ w, exec (.tqev n t) s = .next w ∧
      let fl := (w.at (gthr n t) (c.r + 6)).fl
      (w.at (gthr n t) (c.r + 8)).a = c.th.twEvt ∧ flN fl = c.th.twEvt.msb ∧ flZ fl = (c.th.twEvt == 0) ∧
      (w.thr (gthr n t)).twEvt.getLsbD 14 = false ∧ (w.thr (gthr n t)).twEvt.getLsbD 15 = false ∧
      (∀ i, i < 14 ∨ (16 ≤ i ∧ i < 32) → (w.thr (gthr n t)).twEvt.getLsbD i = c.th.twEvt.getLsbD i) ∧ (w.thr (gthr n t)).pc = next)

/-- R147, R148: CIN on an enabled input end of the thread moves the next readable word into A, with C for the last word of its message,
and waits where none is readable. On another end it sets T and leaves A. -/
def Obligations.ChannelInput : Prop :=
  ∀ (s u : State) (n t : Fin 16) (c : Ctx),
    s.slot n t = some (c, u) → c.runs u .cin → c.noLoop → c.th.stepping = false →
    let next := c.pc + BitVec.ofNat 32 c.d.len
    let k := n * 128 + c.d.f
    let e := (u.fillEnd n c.d.f).chEnd k
    ∃ w, exec (.cin n t) s = .next w ∧
      let th := w.thr (gthr n t)
      let old := u.at (gthr n t) (c.r + 8)
      let new := w.at (gthr n t) (c.r + 8)
      let fl := (w.at (gthr n t) (c.r + 6)).fl
      (u.endMine n t c.d.f false = false → flT fl = true ∧ new.a = old.a ∧ th.pc = next ∧ w.ends = u.ends) ∧
      (u.endMine n t c.d.f false = true → ∀ v last q r, e.buf = (v, last, q) :: r → q ≤ c.r →
        new.a = v ∧ flC fl = last ∧ flN fl = v.msb ∧ flZ fl = (v == 0) ∧ flT fl = flT (u.at (gthr n t) (c.r + 6)).fl ∧ th.pc = next ∧
        ∃ more, (w.chEnd k).buf = r ++ more) ∧
      (u.endMine n t c.d.f false = true → e.ready c.r = false → th.wait = 1 ∧ th.waitOpnd = c.d.f ∧ th.pc = c.pc ∧ new.a = old.a ∧
        (w.chEnd k).buf = e.buf)

/-- R147, R148, R162, R180: COUT stages A, COUTE stages it and releases the message, CEND releases what is staged. COUT and COUTE hold
while the store is full and set T where 16 words are staged already; CEND sets T where none is; on an end that is not the thread's each
sets T and does nothing. The words of a released message stay in the store while they are to leave the Span, and stand in the buffer of
an input end of the same Span that has room for them. -/
def Obligations.ChannelOutput : Prop :=
  ∀ (s u : State) (n t : Fin 16) (c : Ctx) (mn : Mn),
    s.slot n t = some (c, u) → c.runs u mn → mn ∈ [Mn.cout, .coute, .cend] → c.noLoop → c.th.stepping = false →
    let next := c.pc + BitVec.ofNat 32 c.d.len
    let k := n * 128 + c.d.f
    let e := if mn = .cend then u.chEnd k else (moveWords n c.d.f 16 u).chEnd k
    let mine := u.endMine n t c.d.f true
    let cfg := u.reg (cheOff n c.d.f)
    let peer := u.reg (cheOff n c.d.f + 4)
    let leaves := fun (kind : Nat) (peer : Word) => kind ≠ 0 ∨ peer.getLsbD 31 = true ∨ bits peer 15 4 ≠ n
    ∃ w, exec (strandCmd mn n t) s = .next w ∧
      let th := w.thr (gthr n t)
      let x := w.chEnd k
      let old := u.at (gthr n t) (c.r + 6)
      let new := w.at (gthr n t) (c.r + 6)
      new.a = old.a ∧
      (mine = false → flT new.fl = true ∧ th.pc = next ∧ w.ends = u.ends) ∧
      (mine = true → e.aborted = false → mn ≠ .cend → 16 ≤ e.staged.length → flT new.fl = true ∧ th.pc = next ∧ x = e) ∧
      (mine = true → e.aborted = false → mn ≠ .cend → e.staged.length < 16 → 16 ≤ e.staged.length + e.store.length →
        th.wait = 5 ∧ th.pc = c.pc ∧ x = e ∧ new.fl = old.fl) ∧
      (mine = true → e.aborted = false → mn = .cout → e.staged.length + e.store.length < 16 →
        x = { e with staged := e.staged ++ [c.th.a] } ∧ th.pc = next ∧ new.fl = old.fl) ∧
      (mine = true → e.aborted = false → e.compl = [] →
        (mn = .coute ∧ e.staged.length + e.store.length < 16 ∨ mn = .cend ∧ e.staged ≠ []) →
        let words := if mn = .coute then e.staged ++ [c.th.a] else e.staged
        let ends := List.replicate (words.length - 1) false ++ [true]
        x.staged = [] ∧ x.msgs = (e.msgs + 1) % 65536 ∧ th.pc = next ∧ new.fl = old.fl ∧
        (leaves (cheKind cfg) peer → (∀ i, i ∈ e.store → leaves i.kind i.peer) →
          x.store.map (·.w) = e.store.map (·.w) ++ words ∧ x.store.map (·.last) = e.store.map (·.last) ++ ends) ∧
        (∀ pe, cheKind cfg = 0 → peer.getLsbD 31 = false → bits peer 15 4 = n → bits peer 0 7 = pe → u.accepts n pe n c.d.f = true →
          let buf := ((if mn = .cend then u else moveWords n c.d.f 16 u).chEnd (n * 128 + pe)).buf
          e.store = [] → words.length ≤ 16 → buf.length + words.length ≤ 8 →
          x.store = [] ∧ (w.chEnd (n * 128 + pe)).buf.map (fun b => (b.1, b.2.1)) = buf.map (fun b => (b.1, b.2.1)) ++ words.zip ends)) ∧
      (mine = true → e.aborted = false → mn = .cend → e.staged = [] → flT new.fl = true ∧ th.pc = next ∧ x = e) ∧
      (mine = true → e.aborted = true → flT new.fl = true ∧ th.pc = next ∧ (mn ≠ .cout → x.aborted = false))

/-- R122, R124, R129: the beats of an XOP. Each executes one micro-operation on the temporaries that the beats before it left, the first
on temporaries of no stated value with the micro-flags 0; a ULD reads its operand from Span memory; the last commits what its COMMIT
field names: A, X and Y from U0, U1 and U2, the micro-flags, and a store of U0 at the address U3. -/
def Obligations.CustomerInstruction : Prop :=
  (∀ (s u : State) (n t : Fin 16) (c : Ctx) (m : DWord) (rest : List DWord),
     s.slot n t = some (c, u) → c.runs u .xop → (c.view u).xopOps c.d.f 32 0 = m :: rest → bits m 57 5 = 0 →
     (m.getLsbD 62 && m.getLsbD 36) = false →
     ∃ w temps new fn, exec (.xop n t) s = .next w ∧
       uopWrites m temps new 0 fn (c.xsource temps (bits m 51 3) + c.xsourceB temps m) ∧ c.beatLeaves u w m rest new fn) ∧
  (∀ (s u : State) (n t : Fin 16) (c : Ctx) (m : DWord) (rest : List DWord) (temps : Tab Word) (fl : BitVec 6),
     s.beatSlot n t = some (c, .xop (m :: rest) temps fl, u) → c.d.mn = .xop →
     let p := c.xsource temps (bits m 51 3)
     let r := c.xsourceB temps m
     let op := bits m 57 5
     let stores := m.getLsbD 62 && m.getLsbD 36
     (stores = false → op ∈ [0, 1, 2, 3, 4, 9, 0xA, 0xD] → ∃ w new fn, exec (.xop n t) s = .next w ∧
       uopWrites m temps new fl fn (if op = 0 then p + r else if op = 1 then p - r else if op = 2 then p &&& r else if op = 3 then p ||| r
         else if op = 4 then p ^^^ r else if op = 9 then p * r else if op = 0xA then BitVec.ofNat 32 (p.toNat * r.toNat / 2 ^ 32)
         else if flZ fl then p else r) ∧ c.beatLeaves u w m rest new fn ∧ (∀ k b, w.memByte k b = u.memByte k b)) ∧
     (stores = false → op = 0xC → ∃ w fn, exec (.xop n t) s = .next w ∧ (m.getLsbD 46 = false → fn = fl) ∧
       (m.getLsbD 46 = true → flZ fn = (p == r) ∧ flC fn = decide (r.toNat ≤ p.toNat)) ∧ c.beatLeaves u w m rest temps fn) ∧
     (stores = false → op = 0x10 → let a := (p + r).toNat; let len := 2 ^ bits m 40 2
       spanTrap (c.view u) n t c.th.st false a len 1 = none → u.badGrans n a len = false →
       (u.phaseA n t c.r a len = true ∨ (u.core n).busy (bankOf a) (c.r + 4) = false) →
       ∃ w new fn, exec (.xop n t) s = .next w ∧ uopWrites m temps new fl fn (BitVec.ofNat 32 (u.memRead n a len)) ∧
         c.beatLeaves u w m rest new fn) ∧
     (stores = true → op = 0 → bits m 54 3 = 0 → let a := (tabGet 0 temps 3).toNat; let len := 2 ^ bits m 40 2
       spanTrap (c.view u) n t c.th.st true a len 1 = none → areaOf a = .span →
       (u.phaseA n t c.r a len = true ∨ (u.core n).busy (bankOf a) (c.r + 4) = false) →
       ∃ w, exec (.xop n t) s = .next w ∧ w.memRead n a len = (p + r).toNat % 2 ^ (8 * len) ∧
         (∀ (k : Fin 16) b, b < 0x100000 → (k ≠ n ∨ b < a ∨ a + len ≤ b) → w.memByte k b = u.memByte k b)))

/-- R150, R401, R151: a FLASHOP in SERVICE reads its descriptor at X; it holds while an earlier one of the thread runs, hands the
operation to the flash block where the checks pass, and else writes STATUS with their code behind the descriptor. In OPERATE it traps
PRIV with detail 0xFE. -/
def Obligations.FlashOperationHandOff : Prop :=
  ∀ (s u : State) (n t : Fin 16) (c : Ctx) (mn : Mn) (v : Nat),
    s.slot n t = some (c, u) → c.runs u mn → mn ∈ [Mn.flashProgram, .flashErase, .flashBlank, .flashM0, .flashM1] →
    c.noLoop → c.th.stepping = false →
    let a := c.th.x.toNat
    let op := flashOpOf c a v (u.core n).epoch
    let bar := u.flashBar op (v / 2 ^ 56 % 2 ^ 8) c.pc.toNat
    ∃ w, exec (strandCmd mn n t) s = .next w ∧
      let th := w.thr (gthr n t)
      (c.th.st = .operate → c.trapped u w 2 2 0xFE ∧ w.fp = u.fp) ∧
      (c.th.st ≠ .operate → c.descriptor u a v →
        (u.flashPending n t = true → th.wait = 5 ∧ th.pc = c.pc ∧ w.fp = u.fp) ∧
        (u.flashPending n t = false → bar = none → w.fp.q = u.fp.q ++ [op] ∧ th.pc = c.pc + BitVec.ofNat 32 c.d.len ∧
          op.faddr = v % 2 ^ 32 ∧ op.count = v / 2 ^ 32 % 2 ^ 16 ∧ op.buf = v / 2 ^ 64 % 2 ^ 32 ∧
          op.kind = (if mn = .flashErase then 1 else if mn = .flashBlank then 2 else if mn = .flashM0 then 3
            else if mn = .flashM1 then 4 else 0)) ∧
        (u.flashPending n t = false → ∀ code, bar = some code → w.fp = u.fp ∧ th.pc = c.pc + BitVec.ofNat 32 c.d.len ∧
          w.memRead n (a + 12) 4 = 0x80000000 + code))

/-- R97, R99, R100, R120, R142: once TB has reached WT with ARM set, the DEADLINE event becomes pending and ARM is cleared; an enabled one
wakes a wakeable IDLE (R155). The enabled pending event of lowest vector latches at the boundary L, with the PC to come back to and its
cause, the events of words that have become readable by L among those pending; a wait and a park end. Where EVB is no handler address the thread halts. -/
def Obligations.EventsAndDeadline : Prop :=
  (∀ (s : State) (n t : Fin 16) (v d : Nat) (pre post : List (Nat × Nat)),
     let g := gthr n t
     let l := s.bound n (s.thr g)
     let u := s.chanDue n l
     let th := u.thr g
     let now := u.at g (l - 1)
     u.issues n = true → th.active = true → th.entry = none → u.weight n t ≠ 0 → th.masked = false →
     now.pend = pre ++ (v, d) :: post → (∀ p, p ∈ pre → now.enabled p.1 = false) → now.enabled v = true →
     ∃ w, exec (.eventLatch n t) s = .next w ∧
       let x := w.thr g
       x.a = now.a ∧ x.x = now.x ∧ x.y = now.y ∧ x.fl = now.fl ∧ x.pend = now.pend ∧ x.wait = 0 ∧ x.park = none ∧
       (evbOk now.evb = true → x.st = now.st ∧ x.pc = now.evb ∧ x.entry = some (l, th.pc, BitVec.ofNat 32 (v * 2 ^ 24 + d % 2 ^ 24))) ∧
       (evbOk now.evb = false → x.st = .halted ∧ x.haltCause = 3 ∧ x.pc = th.pc)) ∧
  (∀ (s : State) (n t : Fin 16),
     let g := gthr n t
     let th := s.at g (s.core n).round
     s.running = true → s.inRst n = false →
     (th.arm = true → th.wt.toNat ≤ s.clk.tb → ∃ w, exec (.deadlineFire n t) s = .next w ∧
       let x := w.thr g
       x.arm = false ∧ (0x15, 0) ∈ x.pend ∧ (∀ p, p ∈ th.pend → p ∈ x.pend) ∧ x.pc = th.pc ∧ x.fl = th.fl ∧
       x.st = (if th.st = .idle ∧ th.wakeable = true ∧ th.enabled 0x15 = true then th.prev else th.st)) ∧
     (th.arm = false ∨ s.clk.tb < th.wt.toNat → exec (.deadlineFire n t) s = .next s))

/-- R97, R99, R204, R344: the two entry beats of a latched event, in the thread's first two own slots from L on, where nothing of its core
comes before the first: EPC, EFL and ECAUSE are written, events are masked, the event is pending no more, and the handler can issue from the
next slot on, out of the entry copy. -/
def Obligations.EventEntryBeats : Prop :=
  ∀ (s u : State) (n t : Fin 16) (lane l s2 k2 : Nat) (epc cause : Word),
    let g := gthr n t
    let th := u.thr g
    let s1 := (u.core n).round
    s.seek n (fun u => (u.thr g).entry.isSome) 512 = (.slot lane t, u) → th.entry = some (l, epc, cause) →
    u.nextSlot n t (s1 + 1) = some (s2, k2) →
    ∃ w, exec (.eventEntry n t) s = .next w ∧
      let x := w.thr g
      let old := u.at g (s1 + 2)
      let v := cause.toNat / 2 ^ 24
      let d := cause.toNat % 2 ^ 24
      x.entry = none ∧ x.epc = epc ∧ x.ecause = cause ∧ x.efl = old.fl ∧ x.masked = true ∧ (v, d) ∉ x.pend ∧ x.nextRound = s2 + 1 ∧
      x.pc = th.pc ∧ x.ecopy = some th.pc.toNat ∧ x.a = old.a ∧ x.x = old.x ∧ x.y = old.y ∧ x.fl = old.fl ∧
      (v = 0x12 → (w.chan (n * 48 + d)).evPend = false) ∧ (v = 0x11 → (w.timer (n * 8 + d)).pend = false)

/-- R82 to R85: a waiting request of a thread is served in its bank's turn once nothing of its core comes before it: a store is written, and a
load writes its register the round after it was served, at load return at the earliest, and its flags in WBK or two rounds after service; the
thread issues again after the round of service. The oldest store-buffer entry that can be written to its bank leaves the buffer, and no
load sees a difference. -/
def Obligations.WaitingRequestsServed : Prop :=
  (∀ (s u : State) (n t : Fin 16) (p : Pend),
     let g := gthr n t
     let q := (u.core n).turn p
     s.seek n (fun u => (u.thr g).retry.isSome) 512 = (.retry t, u) → (u.thr g).retry = some p →
     p.part = none → p.addr + p.len ≤ 0x100000 →
     (∀ v, p.store = some v → p.len ≤ 8 → p.addr % 8 + p.len ≤ 8 → ∃ w, exec (.retryService n t) s = .next w ∧ (w.thr g).retry = none ∧
       q + 1 ≤ (w.thr g).nextRound ∧ w.memRead n p.addr p.len = v % 2 ^ (8 * p.len) ∧
       ∀ (m : Fin 16) (b : Nat), b < 0x100000 → (m ≠ n ∨ b < p.addr ∨ p.addr + p.len ≤ b) → w.memByte m b = u.memByte m b) ∧
     (p.store = none → p.len = 4 → p.dec.mn = .ld → p.dec.size = 4 → ∃ w, exec (.retryService n t) s = .next w ∧ (w.thr g).retry = none ∧
       q + 1 ≤ (w.thr g).nextRound ∧
       let v : Word := BitVec.ofNat 32 (u.memRead n p.addr 4)
       let fl := (w.at g (max (p.r + 6) (q + 2))).fl
       (w.at g (max (p.r + 8) (q + 1))).a = v ∧ flZ fl = (v == 0) ∧ flN fl = v.msb ∧ ∀ m b, w.memByte m b = u.memByte m b)) ∧
  (∀ (s : State) (n : Fin 16) (e : SbEntry),
     s.clk.mainRst = false → s.drainable n = some e → sbFind (s.core n).sb e.gran = some e → e.gran < 0x20000 →
     ∃ w, exec (.storeBufferDrain n) s = .next w ∧ (∀ (m : Fin 16) (b : Nat), w.memByte m b = s.memByte m b) ∧
       sbFind (w.core n).sb e.gran = none ∧ (∀ g, g ≠ e.gran → sbFind (w.core n).sb g = sbFind (s.core n).sb g) ∧
       (w.core n).round = (s.core n).round ∧ w.threads = s.threads)

/-- R108: a setup-window access of a thread is made and answered: a load of a word writes A with the register's value, a store writes
the register, and the thread goes on once the access has completed. An error response sets T and gives a load all ones. -/
def Obligations.SetupAccessAnswered : Prop :=
  ∀ (s : State) (n t : Fin 16) (err : Bool) (p : Pend) (src : Src),
    let g := gthr n t
    let off := windowOff n p.addr
    src = .thread (Fin.ofNat 256 (n * 16 + t)) → s.clk.mainRst = false → (s.thr g).setup = some p → p.dead = false →
    (err = false → s.offInRst off = false → ∀ v, p.store = some v →
      let u := s.setupWrite src off (BitVec.ofNat 32 v)
      (u.thr g).setup ≠ none → (u.thr g).stepping = false →
      ∃ w, exec (.setupAccessResponse n t err) s = .next w ∧ w = { u with threads := w.threads } ∧ (∀ i, i ≠ g → w.thr i = u.thr i) ∧
        let x := w.thr g
        x.setup = none ∧ x.nextRound = max (u.thr g).nextRound (max (p.r + 6) (u.answerRound n p + 1)) ∧ x.pc = (u.thr g).pc ∧
        x.a = (u.thr g).a ∧ x.fl = (u.thr g).fl ∧ x.land = (u.thr g).land) ∧
    (err = false → s.offInRst off = false → p.store = none → p.dec.mn = .ld → p.dec.size = 4 →
      let u := s.setupRead src off
      let r := max (p.r + 8) (u.answerRound n p + 1)
      (u.thr g).setup ≠ none →
      ∃ w, exec (.setupAccessResponse n t err) s = .next w ∧ (w.thr g).setup = none ∧ (w.at g r).a = u.spRdata ∧ r ≤ (w.thr g).nextRound) ∧
    (err = true ∨ s.offInRst off = true → (s.thr g).stepping = false →
      let q := s.answerRound n p
      ∃ w, exec (.setupAccessResponse n t err) s = .next w ∧ (w.thr g).setup = none ∧ flT (w.at g (max (p.r + 6) (q + 1))).fl = true ∧
        (p.store = none → p.dec.mn = .ld → p.dec.size = 4 → (w.at g (max (p.r + 8) (q + 1))).a = 0xFFFFFFFF) ∧
        w.mor = (s.offer 0x0205 (thrObj n t) (BitVec.ofNat 32 p.addr) (BitVec.ofNat 32 (b2n p.store.isSome)) 0).mor ∧
        w.regs = s.regs ∧ w.mem = s.mem)

/-- R92, R96, R131, R397 to R399, R25: the line that the flash port serves next enters the buffer as the most recently used one, and the
threads parked on it for a fetch go on; a corrected doubleword of flash is counted. A line with an uncorrectable doubleword is counted and not
kept. No other line comes. A thread parked longer than 64 µs is recorded once: with 0x0202 on a bank that a FLASHOP holds busy, and with
0x0203 for its waiting line fetch; it stays parked. -/
def Obligations.LinesAndParks : Prop :=
  (∀ (s : State) (n : Fin 16) (q : LineReq) (ecc : Ecc),
     let l := q.line
     let fill := Instr.lineFill n l ecc
     let fetching := fun (w : State) => ∀ (t : Fin 16) (at0 : Nat), (s.thr (gthr n t)).park = some (l, at0, none) →
       (w.thr (gthr n t)).park = none ∧ (w.thr (gthr n t)).pc = (s.thr (gthr n t)).pc
     (s.nextLine = some (n.val, q) → s.lineFault l = false → ecc ≠ .uncorrectable → ∃ w, exec fill s = .next w ∧
       (w.core n).lbuf.head? = some l ∧ (w.core n).lreq.any (fun r => r.line == l) = false ∧ fetching w ∧
       ((lineBank l).isSome = true → w.mor = s.mor ∧ w.fp.uncorrectable = s.fp.uncorrectable ∧
         w.fp.corrected = (if ecc = .corrected then satInc 0xFFFF s.fp.corrected else s.fp.corrected))) ∧
     (s.nextLine = some (n.val, q) → s.lineFault l = false → ecc = .uncorrectable → ∃ w, exec fill s = .next w ∧
       (w.core n).lbuf = (s.core n).lbuf ∧ (w.core n).lreq.any (fun r => r.line == l) = false ∧
       ((lineBank l).isSome = true → w.fp.uncorrectable = satInc 0xFFFF s.fp.uncorrectable ∧ w.fp.corrected = s.fp.corrected)) ∧
     ((∀ r, s.nextLine = some (n.val, r) → r.line ≠ l) → exec fill s = .next s)) ∧
  (∀ (s : State) (n t : Fin 16) (l at0 : Nat) (ld : Option Pend),
     let g := gthr n t
     let th := s.thr g
     th.park = some (l, at0, ld) → s.running = true → at0 + 64000 < s.clk.tb →
     (s.lineBusy l = true → th.parkLong = false → ∃ w, exec (.parkLong n t) s = .next w ∧ w.thr g = { th with parkLong := true } ∧
       w.mor = (s.offer 0x0202 (thrObj n t) (BitVec.ofNat 32 ((l * 32 - 0x10000000) / 2 ^ 23)) (BitVec.ofNat 32 (l * 32)) 0).mor) ∧
     (th.xipWait = false → ∃ w, exec (.xipWait n t) s = .next w ∧ w.thr g = { th with xipWait := true } ∧
       w.mor = (s.offer 0x0203 (thrObj n t) (BitVec.ofNat 32 (l * 32)) 0 0).mor) ∧
     (th.parkLong = true ∨ s.lineBusy l = false → exec (.parkLong n t) s = .next s) ∧
     (th.xipWait = true → exec (.xipWait n t) s = .next s)) ∧
  (∀ (s : State) (n t : Fin 16), (∀ p, (s.thr (gthr n t)).park = some p → s.clk.tb ≤ p.2.1 + 64000) →
     exec (.parkLong n t) s = .next s ∧ exec (.xipWait n t) s = .next s)

/-- R46, R127, R143, R145, R147: a waiting thread issues its wait again once its condition holds: a readable word for CIN and WAITE, the
tick for WAITT and WAITE, a record or none outstanding for TQSR. The tick is compared with a copy of TB that lags by at most 3. -/
def Obligations.WaitWakes : Prop :=
  ∀ (s : State) (n t : Fin 16),
    let g := gthr n t
    let th := s.thr g
    let r := (s.core n).round
    let e := (((s.waitFill n t).chanDue n r).chEnd (n * 128 + th.waitOpnd)).ready r
    s.issues n = true → th.active = true →
    ∃ w, exec (.waitWake n t) s = .next w ∧
      let x := w.thr g
      let woken := x.wait = 0 ∧ x.waited = (th.wait == 3) ∧ r ≤ x.nextRound
      let waits := w = s
      x.pc = th.pc ∧ x.a = th.a ∧ x.fl = th.fl ∧ x.waitOpnd = th.waitOpnd ∧
      (th.wait = 1 → if e then woken else waits) ∧
      (th.wait = 2 → e = true ∨ th.waitTick + 3 ≤ s.clk.tb → woken) ∧ (th.wait = 2 → e = false → s.clk.tb < th.waitTick → waits) ∧
      (th.wait = 3 → th.waitTick + 3 ≤ s.clk.tb → woken) ∧ (th.wait = 3 → s.clk.tb < th.waitTick → waits) ∧
      (th.wait = 4 → ∀ p, s.portOf n t th.waitOpnd = some p →
        (s.port (n * 32 + p)).recOut = 0 ∨ (∃ k v r, (s.port (n * 32 + p)).recs = (k, some v) :: r) → woken) ∧
      (th.wait = 0 ∨ th.wait = 5 → waits)

/-- R71, R73, R82, R92, R93, R31: a round in which nothing acts passes, and ROUND_CNT goes up by 1; the core of a Span that does not run
completes no round. BTB_FLUSH empties the branch-target buffer, LBUF_FLUSH drops the lines that hold no present PC, and any write of
ARB_CNT clears both counts; each touches nothing else, and is an error in a Span whose reset is asserted. -/
def Obligations.RoundsAndFlushes : Prop :=
  (∀ (s : State) (n : Fin 16),
     let r := (s.core n).round
     let u := (s.chanDue n r).servePorts n r
     (s.coreRuns n = false ∨ u.firstAct n r ≠ .idle → exec (.idleRound n) s = .next s) ∧
     (s.coreRuns n = true → u.firstAct n r = .idle →
       ∃ w, exec (.idleRound n) s = .next w ∧ (w.core n).round = r + 1 ∧ (∀ m : Fin 16, m ≠ n → w.core m = s.core m) ∧ w.mem = s.mem ∧
         ∀ g, (w.thr g).pc = (u.thr g).pc ∧ (w.thr g).st = (u.thr g).st ∧ (w.thr g).a = (u.thr g).a ∧ (w.thr g).fl = (u.thr g).fl)) ∧
  (∀ (s : State) (n : Fin 16),
     let c := s.core n
     (s.inRst n = false →
       exec (.btbFlush n) s = .next (s.setCore n { c with btb := [] }) ∧
       exec (.arbCntClear n) s = .next (s.setCore n { c with
         sbEntries := 0
         retries := 0 }) ∧
       ∃ w, exec (.lbufFlush n) s = .next w ∧ w = { s with cores := w.cores } ∧ (∀ m : Fin 16, m ≠ n → w.core m = s.core m) ∧
         ∀ l, l ∈ (w.core n).lbuf ↔ l ∈ c.lbuf ∧ ∃ t : Fin 16, (s.thr (gthr n t)).pc.toNat / 32 = l) ∧
     (s.inRst n = true → ∀ c, c ∈ [Instr.btbFlush n, .lbufFlush n, .arbCntClear n] → exec c s = .next { s with spErr := true }))

/-- R155, R156: GO starts an idle or halted thread in the state STATE names at THR_PC, with events unmasked and its registers kept. It is
refused for an active thread (0x0130), a reserved STATE or with STOP (0x0131), and outside the code window (0x0304). STOP takes an active
thread to IDLE, not wakeable, at the PC of the oldest abandoned instruction. -/
def Obligations.GoAndStop : Prop :=
  ∀ (s : State) (src : Src) (n t : Fin 16) (v : Word),
    let g := gthr n t
    let th := s.thr g
    s.clk.mainRst = false → s.portShut src = false → s.inRst n = false →
    (∃ w, exec (.thrGo src n t v) s = .next w ∧
      let x := w.thr g
      let code := bits w.frz.reason 0 16
      (v.getLsbD 30 = true → x = th ∧ code = 0x0131) ∧
      (v.getLsbD 30 = false → th.active = true → x = th ∧ code = 0x0130) ∧
      (v.getLsbD 30 = false → th.active = false → bits v 28 2 ≠ 1 → bits v 28 2 ≠ 2 → x = th ∧ code = 0x0131) ∧
      (v.getLsbD 30 = false → th.active = false → bits v 28 2 = 1 ∨ bits v 28 2 = 2 →
        (s.det n t = true → s.inCwin n t th.pc.toNat = false → x = th ∧ code = 0x0304) ∧
        (s.det n t = false ∨ s.inCwin n t th.pc.toNat = true →
          x.st = (if bits v 28 2 = 1 then .operate else .service) ∧ x.pc = th.pc ∧ x.masked = false ∧ x.pend = th.pend ∧ x.a = th.a ∧
          x.x = th.x ∧ x.y = th.y ∧ x.fl = th.fl ∧ x.wait = 0 ∧ x.evb = th.evb))) ∧
    (v.getLsbD 31 = false → ∃ w, exec (.thrStop src n t v) s = .next w ∧
      let x := w.thr g
      (th.active = true → x.st = .idle ∧ x.wakeable = false ∧ x.wait = 0 ∧ x.entry = none ∧ x.a = th.a ∧
        (∀ e, th.entry = some e → x.pc = e.2.1) ∧ (th.entry = none → x.pc = th.pc)) ∧
      (th.active = false → x = th))

/-- R61, R65, R68: an operation that leaves the crossing enters the queue of its port at the later of its own stamp, two ticks from now and
its predecessor's key, and is late where that is not its stamp; one of a squashed group is counted and recorded instead. TQGC and TW_GRP
reopen the groups they name. -/
def Obligations.TimedQueueEntry : Prop :=
  ∀ (s : State) (n t : Fin 16),
    let g := gthr n t
    let th := s.thr g
    (s.pinLogic n = true → ∀ (e : TqEnt) (r : List CrossItem), th.cross = .op e :: r → e.eighth < 8 →
      let k := n * 32 + e.port
      let q := s.port k
      let own : Int := 8 * e.tick + e.eighth
      let key : Int := max (max own (8 * (s.clk.tb + 2))) (8 * q.ktick + q.keighth)
      let dead : Bool := e.guard.getLsbD 27 && th.squashed.getLsbD (bits e.guard 24 3)
      q.keighth < 8 → ∃ w, exec (.tqEntry n t) s = .next w ∧ (w.thr g).cross = r ∧
        let p := w.port k
        p.next = q.next + 1 ∧
        (dead = false → ∃ x : TqEnt, p.queue = q.queue ++ [x] ∧ x.opw = e.opw ∧ x.guard = e.guard ∧ x.wslot = e.wslot ∧ x.tick = e.tick ∧
          x.eighth = e.eighth ∧ 8 * (x.ktick : Int) + x.keighth = key ∧ x.late = decide (key ≠ own) ∧ p.ktick = x.ktick ∧
          p.keighth = x.keighth ∧ (opRecords e.opw = true → p.recs = q.recs ++ [(q.next, none)] ∧ x.recNo = some q.next)) ∧
        (dead = true → p.queue = q.queue ∧ p.sqCnt = satInc 255 q.sqCnt ∧ p.ktick = q.ktick ∧
          (opRecords e.opw = true → ∃ v : Word, (q.next, some v) ∈ p.recs ∧ v.getLsbD 8 = true ∧ (bits v 16 16 : Int) = e.tick % 65536))) ∧
    (s.pinLogic n = true → ∀ k r, th.cross = .reopen k :: r → k < 8 → ∃ w, exec (.tqEntry n t) s = .next w ∧ (w.thr g).cross = r ∧
      ∀ i, i < 8 → (w.thr g).squashed.getLsbD i = (decide (i ≠ k) && th.squashed.getLsbD i)) ∧
    (s.inRst n = false → ∀ groups : BitVec 8, ∃ w, exec (.twGrpReopen n t groups) s = .next w ∧
      ∀ i, i < 8 → (w.thr g).squashed.getLsbD i = (th.squashed.getLsbD i && !groups.getLsbD i))

/-- R55, R70: TP_CFG is writable while its port is disabled. An enable that passes its checks starts the port empty with its counts at 0;
a failed one leaves it disabled. A write that leaves an enabled port enabled is refused unless it changes nothing, and a disable empties
queue and records without pin effect. -/
def Obligations.TimedPortSetup : Prop :=
  ∀ (s : State) (n : Fin 16) (p : Fin 32) (v : Word),
    let off := spanOff n (0x200 + 8 * p)
    let k := n.val * 32 + p.val
    let s1 := s.setReg off (v &&& 0x60F7071F)
    let bar := s1.bothPass (fun s => s.tpBar n p (v ||| 0x80000000))
    s.inRst n = false →
    (s.bit off 31 = false → bar = none → ∃ w, exec (.tpEnable n p v) s = .next w ∧ w.reg off = (v ||| 0x80000000) &&& 0xE0F7071F ∧
      (w.port k).queue = [] ∧ (w.port k).recs = [] ∧ (w.port k).recOut = 0 ∧ (w.port k).lateCnt = 0 ∧ (w.port k).sqCnt = 0 ∧ w.banks = s.banks) ∧
    (s.bit off 31 = false → ∀ code d, bar = some (code, d) → ∃ w, exec (.tpEnable n p v) s = .next w ∧ w.reg off = v &&& 0x60F7071F ∧
      bits w.frz.reason 0 16 = code % 65536 ∧ w.frz.reasonDetail = d) ∧
    (s.bit off 31 = true → (v ||| 0x80000000) &&& 0xE0F7071F ≠ s.reg off → ∃ w, exec (.tpEnable n p v) s = .next w ∧ w.regs = s.regs ∧
      w.ports = s.ports ∧ bits w.frz.reason 0 16 = 0x0412) ∧
    (s.bit off 31 = true → (v ||| 0x80000000) &&& 0xE0F7071F = s.reg off → exec (.tpEnable n p v) s = .next s) ∧
    (∃ w, exec (.tpDisable n p v) s = .next w ∧ w.reg off = v &&& 0x60F7071F ∧ w.banks = s.banks ∧
      (s.bit off 31 = true → (w.port k).queue = [] ∧ (w.port k).recs = [] ∧ (w.port k).recOut = 0))

/-- R56, R61 to R67, R69: the entry at the head of a thread's only filled port is taken once TB has reached its key. One whose guard
holds, or that has none, is performed: OUT writes the pins' values, OE their enables, DRIVE both, SMP records the levels. One whose guard
fails is squashed, a late one under POLICY 0 dropped; both count, and raise SQUASH or LATE in the owner. It is taken after the engine steps
its guard looks at and before a switch instant that comes later; a sample is of the pads at its eighth of the tick. -/
def Obligations.TimedEntryTaken : Prop :=
  ∀ (s : State) (n t : Fin 16) (p : Fin 32) (guardPads : BitVec 24) (pads : BitVec 192) (e : TqEnt) (rest : List TqEnt),
    let cfg := s.reg (spanOff n (0x200 + 8 * p))
    let k := n.val * 32 + p.val
    let q := s.port k
    let pol := bits cfg 29 2
    let b := bits cfg 0 5
    s.pinLogic n = true → cfg.getLsbD 31 = true → bits cfg 20 4 = t → q.queue = e :: rest → e.ktick ≤ s.clk.tb →
    s.beforeApply e.ktick = true → s.beforeDirect n e.ktick = true → s.guardsReady n e.ktick = true → e.keighth < 8 →
    (∀ x, x ∈ rest → e.ktick < x.ktick) →
    (∀ i : Fin 32, i ≠ p → (s.reg (spanOff n (0x200 + 8 * i))).getLsbD 31 = true → bits (s.reg (spanOff n (0x200 + 8 * i))) 20 4 = t →
      (s.port (n * 32 + i)).queue = []) →
    e.squashed (s.thr (gthr n t)).squashed = false →
    let fails : Bool := e.guard.getLsbD 31 && s.guardLevel n e.guard guardPads e.ktick != e.guard.getLsbD 30
    let on := fun (i : Nat) => decide (b ≤ i) && decide (i - b ≤ bits cfg 8 3) && e.opw.getLsbD (8 + (i - b))
    ∃ w, exec (.timedEntryDue n t guardPads pads) s = .next w ∧
      let old := s.bank n
      let new := w.bank n
      let kind := opKind e.opw
      (w.port k).lateCnt = (if e.late then satInc 255 q.lateCnt else q.lateCnt) ∧
      (fails = false → e.late = false ∨ pol ≠ 0 →
        (∀ i, i < 24 → new.gv.getLsbD i = if (kind = 1 ∨ kind = 3) ∧ on i = true then e.opw.getLsbD (i - b) else old.gv.getLsbD i) ∧
        (∀ i, i < 24 → new.ge.getLsbD i = if (kind = 2 ∨ kind = 3) ∧ on i = true then (kind == 3 || e.opw.getLsbD (i - b))
          else old.ge.getLsbD i) ∧
        (w.port k).sqCnt = q.sqCnt ∧
        (∀ no, e.recNo = some no → (no, none) ∈ q.recs → ∃ v : Word, (no, some v) ∈ (w.port k).recs ∧ bits v 16 16 = e.ktick % 65536 ∧
          v.getLsbD 10 = e.late ∧ v.getLsbD 9 = false ∧ v.getLsbD 8 = false ∧ v.getLsbD 11 = (kind == 5) ∧
          (∀ j, j < 8 → b + j < 24 → v.getLsbD j = (kind == 4 && on (b + j) && pads.getLsbD (24 * e.keighth + (b + j)) && (s.ieMask n).getLsbD (b + j))))) ∧
      (e.late = true → pol = 0 → new.gv = old.gv ∧ new.ge = old.ge ∧ (0x17, p.val) ∈ (w.thr (gthr n t)).pend ∧
        ∀ no, e.recNo = some no → (no, none) ∈ q.recs → ∃ v : Word, (no, some v) ∈ (w.port k).recs ∧ v.getLsbD 9 = true) ∧
      (e.late = false → fails = true → new.gv = old.gv ∧ new.ge = old.ge ∧
        (e.guard.getLsbD 27 = false → (w.port k).sqCnt = satInc 255 q.sqCnt ∧ (0x16, p.val) ∈ (w.thr (gthr n t)).pend) ∧
        (e.guard.getLsbD 27 = true → (0x16, p.val + bits e.guard 24 3 * 32) ∈ (w.thr (gthr n t)).pend ∧
          (w.thr (gthr n t)).squashed.getLsbD (bits e.guard 24 3) = true))

/-- R151, R397, R400 to R405: the running operation of the flash block ends. PROGRAM copies BUF into an erased range, ERASE_SECTOR sets
8 KiB to 0xFF, BLANK_CHECK finds the first doubleword that is not erased, MARGIN_READ copies cells with margin to BUF; STATUS is written
behind the descriptor and the next operation runs. A time-out marks its bank FAULT, ends the operation that touches it where it was one of
its requests, and the operations that wait and name the bank. -/
def Obligations.FlashOperationEnds : Prop :=
  ∀ (s : State) (o : FlashOp) (rest : List FlashOp),
    s.fp.q = o :: rest → s.flashRuns = some o → s.running = true → o.n < 16 → o.desc + 16 ≤ 2 ^ 20 → o.desc % 8 = 0 → o.count ≤ 1024 → o.faddr + 8 * o.count ≤ 2 ^ 25 →
    (o.kind = 1 → o.faddr + 8192 ≤ 2 ^ 25) →
    (o.kind = 0 ∨ 3 ≤ o.kind → o.buf + 8 * o.count ≤ 2 ^ 20 ∧ (o.buf + 8 * o.count ≤ o.desc + 12 ∨ o.desc + 16 ≤ o.buf)) →
    let blank := ∀ i, i < o.count → s.flashDw (o.faddr + 8 * i) = 2 ^ 64 - 1
    (∃ w, exec (.flashopComplete .allVerified) s = .next w ∧ w.fp.q = rest ∧
      let status := w.memRead o.n (o.desc + 12) 4
      (o.kind = 0 → blank → (∀ i, i < o.count → s.badGrans o.n (o.buf + 8 * i) 8 = false) → status = 2 ^ 31 + o.count * 2 ^ 16 ∧
        (∀ i, i < 8 * o.count → w.flashByte (o.faddr + i) = s.memByte o.n (o.buf + i)) ∧
        (∀ a, a < 2 ^ 25 → (a < o.faddr ∨ o.faddr + 8 * o.count ≤ a) → w.flashByte a = s.flashByte a)) ∧
      (o.kind = 0 → ¬ blank → status = 2 ^ 31 + 0x0A04 ∧ w.flash = s.flash) ∧
      (o.kind = 1 → status = 2 ^ 31 + 2 ^ 16 ∧ ∀ a, a < 2 ^ 25 → w.flashByte a = if o.faddr ≤ a ∧ a < o.faddr + 8192 then 0xFF else s.flashByte a) ∧
      (o.kind = 2 → w.flash = s.flash ∧ (blank → status = 2 ^ 31 + o.count * 2 ^ 16) ∧
        (∀ i, i < o.count → s.flashDw (o.faddr + 8 * i) ≠ 2 ^ 64 - 1 → (∀ j, j < i → s.flashDw (o.faddr + 8 * j) = 2 ^ 64 - 1) →
          status = 2 ^ 31 + i * 2 ^ 16 + 0x0A05)) ∧
      (3 ≤ o.kind → w.flash = s.flash ∧ status = 2 ^ 31 + o.count * 2 ^ 16 ∧
        ((∀ i, i < o.count → s.fp.weak.contains ((o.faddr + 8 * i) / 8) = false) →
          ∀ i, i < 8 * o.count → w.memByte o.n (o.buf + i) = s.flashByte (o.faddr + i)))) ∧
    (∀ (b : Fin 4) (kind : Nat), ∃ w, exec (.flashTimeout b kind) s = .next w ∧
      (∀ i, i < 4 → w.fp.fault.getLsbD i = (decide (i = b) || s.fp.fault.getLsbD i)) ∧
      let waiting := rest.filter fun x => !x.touches b
      (kind = 0 ∨ o.touches b = false → w.fp.q = o :: waiting ∧ w.flash = s.flash) ∧
      (kind ≠ 0 → o.touches b = true → w.fp.q = waiting ∧ (o.kind ≠ 0 → w.memRead o.n (o.desc + 12) 4 = 2 ^ 31 + 0x0A08)))

/-- R161, R169: CHE_CFG is writable while its end is disabled. An enable that passes its checks starts the end; a failed one leaves it
disabled and says why; a write that leaves an enabled end enabled is refused (0x0121) unless it changes nothing. A disable discards the
staged words of an output end or the buffered ones of an input end, and counts them in DROPS. -/
def Obligations.ChannelEndSetup : Prop :=
  ∀ (s : State) (src : Src) (n : Fin 16) (e : Fin 128) (v : Word),
    let off := cheOff n e
    let k := n.val * 128 + e.val
    let x := s.chEnd k
    let on := v ||| 0x80000000
    let s1 := s.setReg off (v &&& 0x7CF00000)
    let bar := s1.bothPass (fun s => s.cheBar n e on)
    s.clk.mainRst = false → s.portShut src = false → s.inRst n = false → (∀ c, c ∈ s.host.cdts → c.2.bound = false ∨ c.2.dir ≠ 0) →
    (s.bit off 31 = false → bar = none → ∃ w, exec (.cheEnable src n e v) s = .next w ∧ w.reg off = on &&& 0xFCF00000 ∧
      (w.chEnd k).drops = 0 ∧ (w.chEnd k).credits = 16 ∧ (w.chEnd k).staged = x.staged ∧ (w.chEnd k).store = x.store) ∧
    (s.bit off 31 = false → ∀ code d, bar = some (code, d) → ∃ w, exec (.cheEnable src n e v) s = .next w ∧ w.reg off = v &&& 0x7CF00000 ∧
      bits w.frz.reason 0 16 = code % 65536 ∧ w.frz.reasonDetail = d ∧ w.chEnd k = x) ∧
    (s.bit off 31 = true → on &&& 0xFCF00000 ≠ s.reg off → ∃ w, exec (.cheEnable src n e v) s = .next w ∧ w.reg off = s.reg off ∧
      bits w.frz.reason 0 16 = 0x0121 ∧ w.chEnd k = x) ∧
    (s.bit off 31 = true → on &&& 0xFCF00000 = s.reg off → exec (.cheEnable src n e v) s = .next s) ∧
    (∃ w, exec (.cheDisable src n e v) s = .next w ∧ w.reg off = v &&& 0x7CF00000 ∧
      (s.bit off 31 = false → w.chEnd k = x) ∧
      (s.bit off 31 = true → s.bit off 30 = true → (w.chEnd k).staged = [] ∧ (w.chEnd k).store = x.store ∧
        (w.chEnd k).drops = min 0xFFFF (x.drops + (x.staged.length + x.compl.length))) ∧
      (s.bit off 31 = true → s.bit off 30 = false → (w.chEnd k).buf = [] ∧
        (x.landing = [] → (w.chEnd k).drops = min 0xFFFF (x.drops + x.buf.length))))

/-- R18, R163 to R165, R169, R199: released words of an output end move in order into the buffer of the input end that names it, or are
discarded, counted and marked where it no longer does: all of them within a Span, and four in a transfer to another Span, where its port
grants the transfer; a word for a Clove channel moves into its in FIFO, and one of its out FIFO into
the bound input end as a message of one word. -/
def Obligations.WordsMove : Prop :=
  ∀ (s : State) (n : Fin 16),
    s.running = true →
    (∀ (e pe : Fin 128) (ps : Fin 16), (ps = n ∨ s.fabricNext ps = some n.val) →
      let x := s.chEnd (n * 128 + e)
      let y := s.chEnd (ps * 128 + pe)
      (∀ i, i ∈ x.store → i.kind = 0 ∧ i.peer.getLsbD 31 = false ∧ bits i.peer 15 4 = ps ∧ bits i.peer 0 7 = pe) → x.compl = [] → x.landing = [] →
      (∀ c, c ∈ s.host.cdts → c.2.bound = false ∨ c.2.dir ≠ 0) → x.store.length ≤ 16 → x.store.length + y.buf.length ≤ 8 →
      let k := if ps = n then x.store.length else min 4 x.store.length
      (s.accepts ps pe n e = true → ∃ w, exec (.channelDelivery n e) s = .next w ∧ (w.chEnd (n * 128 + e)).store = x.store.drop k ∧
        (w.chEnd (ps * 128 + pe)).buf.map (fun b => (b.1, b.2.1)) =
          y.buf.map (fun b => (b.1, b.2.1)) ++ (x.store.take k).map (fun b => (b.w, b.last))) ∧
      (s.accepts ps pe n e = false → x.store ≠ [] → ∃ w, exec (.channelDelivery n e) s = .next w ∧
        (w.chEnd (n * 128 + e)).store = x.store.drop k ∧ (w.chEnd (n * 128 + e)).drops = min 0xFFFF (x.drops + k) ∧
        (w.chEnd (n * 128 + e)).peerErr = true ∧ (w.chEnd (ps * 128 + pe)).buf = y.buf)) ∧
    (∀ (e : Fin 12) (c : Fin 4) (k : Nat) (h : StoreWord) (r : List StoreWord), s.fifoSource n e c = some k → s.fifoRoom n e c = true →
      (s.chEnd (n * 128 + k)).store = h :: r → (s.chEnd (n * 128 + k)).compl = [] →
      ∃ w, exec (.cloveFifoIn n e c) s = .next w ∧ (w.chEnd (n * 128 + k)).store = r ∧
        (w.chan (chanKey n e c)).inF = (s.chan (chanKey n e c)).inF ++ [(h.w, s.clk.tb)]) ∧
    (∀ (e : Fin 12) (c : Fin 4) (k : Nat) (v : Word) (r : List Word), s.boundEnd n e c false = some k → (s.chan (chanKey n e c)).outF = v :: r →
      let y := s.chEnd (n * 128 + k)
      (y.buf.length < 8 → ∃ w, exec (.cloveFifoOut n e c) s = .next w ∧ (w.chan (chanKey n e c)).outF = r ∧
        (w.chEnd (n * 128 + k)).buf = y.buf ++ [(v, true, (s.core n).round + 1)]) ∧
      (8 ≤ y.buf.length → exec (.cloveFifoOut n e c) s = .next s))

/-- R186, R190, R194, R195: out shifts bits of SH out and drives the group's pins with them, in shifts the pin levels in, set drives group
bits, oe the enables of a mask. Only pins at the engine's own function change, and only group bits can be driven; bits past the group set
ERR. -/
def Obligations.CloveShiftsAndPins : Prop :=
  ∀ (s : State) (n : Fin 16) (e : Fin 12) (pins : BitVec 24) (mn : ClMn),
    let x := s.cctx n e pins
    s.cruns n e pins mn → mn ∈ [ClMn.out, .inn, .set, .oe] →
    let b := s.fld (chnOff n e x.c) 8 5
    let wd := s.fld (chnOff n e x.c) 0 3 + 1
    let lsb := s.bit (chnOff n e x.c) 30
    let k := bits x.w 24 3 + 1
    let o := bits x.w 21 3
    let mine := fun p => s.funcOf n p == e.val + 1
    let mask := s.reg (chnOff n e x.c + if x.w.getLsbD 1 then 0xC else 8)
    ∃ w, exec (cloveCmd mn n e pins) s = .next w ∧ x.completes s w x.seq ∧
      let ch := w.chan x.key
      let old := s.bank n
      let new := w.bank n
      (mn = .out → ch.sh = (if lsb then x.ch.sh >>> k else x.ch.sh <<< k) ∧ ch.shcnt = x.ch.shcnt - k ∧
        ch.flags.getLsbD 10 = (x.ch.flags.getLsbD 10 || decide (wd < o + k)) ∧ new.ce = old.ce ∧
        ∀ p, p < 24 → new.cv.getLsbD p = if b + o ≤ p ∧ p < b + min wd (o + k) ∧ mine p = true
          then x.ch.sh.getLsbD (if lsb then p - (b + o) else 32 - k + (p - (b + o))) else old.cv.getLsbD p) ∧
      (mn = .inn → ch.shcnt = min 32 (x.ch.shcnt + k) ∧ ch.flags.getLsbD 10 = (x.ch.flags.getLsbD 10 || decide (wd < o + k)) ∧
        new.cv = old.cv ∧ new.ce = old.ce ∧
        (∀ i, i < k → ch.sh.getLsbD (if lsb then 32 - k + i else i) = (decide (o + i < wd) && x.pins.getLsbD (b + o + i))) ∧
        (∀ i, i < 32 - k → ch.sh.getLsbD (if lsb then i else i + k) = x.ch.sh.getLsbD (if lsb then i + k else i))) ∧
      (mn = .set → ch.sh = x.ch.sh ∧ ch.shcnt = x.ch.shcnt ∧ new.ce = old.ce ∧
        ∀ p, p < 24 → new.cv.getLsbD p = if b ≤ p ∧ p < b + wd ∧ x.w.getLsbD (8 + (p - b)) = true ∧ mine p = true then x.w.getLsbD (p - b)
          else old.cv.getLsbD p) ∧
      (mn = .oe → ch.sh = x.ch.sh ∧ ch.shcnt = x.ch.shcnt ∧ new.cv = old.cv ∧
        ∀ p, p < 24 → new.ce.getLsbD p = if mask.getLsbD p = true ∧ mine p = true then x.w.getLsbD 0 else old.ce.getLsbD p)

/-- R188, R190, R195, R203: mov, and, or and xor write one writable bit of the channel's bit space and set ERR on any other; ldc, mvr, ldsh
and wrap write the register named; gadr shifts address bits into ADDR; crc folds bits of SH into CRCV, and sets ERR without a
polynomial. -/
def Obligations.CloveBitsAndRegisters : Prop :=
  ∀ (s : State) (n : Fin 16) (e : Fin 12) (pins : BitVec 24) (mn : ClMn),
    let x := s.cctx n e pins
    s.cruns n e pins mn → mn ∈ [ClMn.mov, .and, .or, .xor, .ldc, .mvr, .ldsh, .wrap, .gadr, .crc] →
    let dst := bits x.w 15 9
    let src := x.bit s (bits x.w 6 9) != x.w.getLsbD 24
    let had := if dst < 24 then (s.bank n).cv.getLsbD dst else x.bit s dst
    let res := if mn = .mov then src else if mn = .and then had && src else if mn = .or then had || src else had != src
    let poly := s.reg (chnOff n e x.c + 0x14)
    let lsb := s.bit (chnOff n e x.c) 30
    let k := bits x.w 21 6
    ∃ w, exec (cloveCmd mn n e pins) s = .next w ∧ (mn ≠ .wrap → x.completes s w x.seq) ∧
      let ch := w.chan x.key
      (mn ∈ [ClMn.mov, .and, .or, .xor] → ch.shcnt = x.ch.shcnt ∧
        (∀ i, i < 32 → ch.sh.getLsbD i = if dst = 32 + i then res else x.ch.sh.getLsbD i) ∧
        (∀ i, i < 256 → ch.gen.getLsbD i = if dst = 256 + i then res else x.ch.gen.getLsbD i) ∧
        (∀ i, i ∈ [2, 3, 12, 13, 14, 15] → ch.flags.getLsbD i = if dst = 64 + i then res else x.ch.flags.getLsbD i) ∧
        ch.flags.getLsbD 10 = (if dst = 74 then res else if 32 ≤ dst ∧ dst < 64 ∨ 256 ≤ dst ∨ dst ∈ [66, 67, 76, 77, 78, 79] ∨
          (dst < 24 ∧ (s.groupMask n e x.c).getLsbD dst = true) then x.ch.flags.getLsbD 10 else true) ∧
        (∀ p, p < 24 → (w.bank n).cv.getLsbD p =
          if dst = p ∧ (s.groupMask n e x.c).getLsbD p = true ∧ s.funcOf n p = e.val + 1 then res else (s.bank n).cv.getLsbD p)) ∧
      (mn = .ldc → ch.cntA = (if x.w.getLsbD 26 then x.ch.cntA else x.w.truncate 16) ∧
        ch.cntB = (if x.w.getLsbD 26 then x.w.truncate 16 else x.ch.cntB)) ∧
      (mn = .mvr → let v := mvrGet x.ch (bits x.w 21 3)
        mvrGet ch (bits x.w 24 3) = (if bits x.w 24 3 = 1 ∨ bits x.w 24 3 = 2 then v &&& 0xFFFF else if bits x.w 24 3 = 4 then
          BitVec.ofNat 32 (min 32 v.toNat) else v) ∧ (bits x.w 24 3 ≠ 0 → ch.sh = x.ch.sh) ∧ (bits x.w 24 3 ≠ 3 → ch.crcv = x.ch.crcv)) ∧
      (mn = .ldsh → ch.sh.toNat / 2 ^ 16 = (if x.w.getLsbD 26 then bits x.w 0 16 else x.ch.sh.toNat / 2 ^ 16) ∧
        ch.sh.toNat % 2 ^ 16 = (if x.w.getLsbD 26 then x.ch.sh.toNat % 2 ^ 16 else bits x.w 0 16) ∧
        ch.shcnt = (if x.w.getLsbD 25 then bits x.w 19 6 else x.ch.shcnt)) ∧
      (mn = .wrap → ch.rwb = bits x.w 8 8 ∧ ch.rwe = bits x.w 0 8 ∧ ch.pc = if x.ch.pc = bits x.w 0 8 then bits x.w 8 8 else (x.ch.pc + 1) % 256) ∧
      (mn = .gadr → ch.addr.toNat = if k = 0 then 0
        else x.ch.addr.toNat * 2 ^ k % 2 ^ 42 + (if lsb then x.ch.sh.toNat / 2 ^ (32 - k) else x.ch.sh.toNat % 2 ^ k)) ∧
      (mn = .crc → ch.sh = x.ch.sh ∧ ch.shcnt = x.ch.shcnt ∧ (poly = 0 → ch.crcv = x.ch.crcv ∧ ch.flags.getLsbD 10 = true) ∧
        (poly ≠ 0 → s.bit (chnOff n e x.c) 27 = false → lsb = false → x.w.getLsbD 23 = false →
          let wd := poly.toNat.log2 + 1
          let gen := (poly.toNat * 2 + 1) % 2 ^ wd
          ch.crcv.toNat = ((List.range (bits x.w 24 3 + 1)).reverse.map fun i => x.ch.sh.getLsbD i).foldl
            (fun acc d => (2 * acc % 2 ^ wd) ^^^ (if (decide (2 ^ wd ≤ 2 * acc)) != d then gen else 0)) (x.ch.crcv.toNat % 2 ^ wd)))

/-- R184, R190, R192, R193, R204, R207: jmp goes to its target where its condition holds, counting CNTA or CNTB down for 3 and 4; wait
completes on its level and else stalls without effect; halt stops the channel, dly lets steps pass, irq raises CLOVE where its mask bit
enables it; a step of a channel that cannot execute counts dly down and lets a disable take effect. -/
def Obligations.CloveFlow : Prop :=
  ∀ (s : State) (n : Fin 16) (e : Fin 12) (pins : BitVec 24),
    let x := s.cctx n e pins
    let cc := bits x.w 23 4
    let f := s.stepFlags n e x.c x.tick x.ch
    let bit := x.bit s (bits x.w 14 9)
    (s.cruns n e pins .jmp → ∃ w, exec (.cloveJmp n e pins) s = .next w ∧
      let taken : Bool := match cc with
        | 0 => true
        | 1 => !bit
        | 2 => bit
        | 3 => x.ch.cntA != 0
        | 4 => x.ch.cntB != 0
        | 5 => x.ch.shcnt == 0
        | 6 => x.ch.shcnt == 32
        | 7 => x.ch.shcnt % (if s.fld (chnOff n e x.c) 28 2 = 0 then 1 else 2 ^ (s.fld (chnOff n e x.c) 28 2 + 2)) == 0
        | 8 => !f.getLsbD 4
        | 9 => decide (x.ch.outF.length < 8)
        | 10 => x.ch.cntA == 0
        | 11 => x.ch.cntB == 0
        | 12 => x.ch.sh.toNat % 256 == x.ch.cntB.toNat % 256
        | _ => x.ch.sh.toNat % 256 != x.ch.cntB.toNat % 256
      x.completes s w (if taken then bits x.w 0 8 else x.seq) ∧
        (w.chan x.key).cntA = (if taken ∧ cc = 3 then x.ch.cntA - 1 else x.ch.cntA) ∧
        (w.chan x.key).cntB = (if taken ∧ cc = 4 then x.ch.cntB - 1 else x.ch.cntB)) ∧
    (s.cruns n e pins .wait → ∃ w, exec (.cloveWait n e pins) s = .next w ∧
      (bit = x.w.getLsbD 26 → x.completes s w x.seq) ∧
      (bit ≠ x.w.getLsbD 26 → (w.chan x.key).pc = x.ch.pc ∧ (w.chan x.key).flags.getLsbD 1 = true ∧
        (w.engine (n * 12 + e)).k = (s.engine (n * 12 + e)).k + 1)) ∧
    (s.cruns n e pins .nop → ∃ w, exec (.cloveNop n e pins) s = .next w ∧ x.completes s w x.seq ∧ w.banks = s.banks ∧
      (w.chan x.key).sh = x.ch.sh ∧ (w.chan x.key).shcnt = x.ch.shcnt) ∧
    (s.cruns n e pins .dly → ∃ w, exec (.cloveDly n e pins) s = .next w ∧ x.completes s w x.seq ∧ (w.chan x.key).dly = bits x.w 0 16) ∧
    (∀ mn, mn = .halt ∨ mn = .irq → s.cruns n e pins mn → ∃ w, exec (cloveCmd mn n e pins) s = .next w ∧ x.completes s w x.seq ∧
      (mn = .halt → (w.chan x.key).flags.getLsbD 11 = true) ∧
      (s.bit (chnOff n e x.c) (if mn = .halt then 17 else 16) = true → (w.chan x.key).evPend = true ∧
        (x.ch.evPend = false → (0x12, e.val * 4 + x.c) ∈ (w.thr (n * 16 + s.fld (chnOff n e x.c) 20 4)).pend))) ∧
    (s.engineDue n e = true → s.chRuns n e x.c x.ch = false → ∃ w, exec (.cloveIdleStep n e pins) s = .next w ∧
      (w.chan x.key).pc = x.ch.pc ∧ (w.chan x.key).sh = x.ch.sh ∧ (w.engine (n * 12 + e)).k = (s.engine (n * 12 + e)).k + 1 ∧
      (s.chnEn n e x.c = true → x.ch.stopping = false → x.ch.flags.getLsbD 11 = false → x.ch.dbgHalt = false → x.ch.dly ≠ 0 →
        s.drainHeld n e x.c x.ch = false → (w.chan x.key).dly = x.ch.dly - 1) ∧
      (x.ch.stopping = true → (w.chan x.key).stopping = false ∧ (w.chan x.key).inF = [] ∧ (w.chan x.key).outF = x.ch.outF))

/-- R197 to R202: pull and push move words between SH and the FIFOs and stall where they cannot; pulln and pushn go on with the last word and
set STALE. gpost posts to the Guard, or sets ERR; it stalls while GPEND is 1. hsh sends bytes only while GM is 1. -/
def Obligations.CloveFifosAndGuard : Prop :=
  ∀ (s : State) (n : Fin 16) (e : Fin 12) (pins : BitVec 24) (mn : ClMn),
    let x := s.cctx n e pins
    let empty := x.ch.inF.all fun p => decide (x.tick ≤ p.2)
    let full := decide (8 ≤ x.ch.outF.length)
    s.cruns n e pins mn → mn ∈ [ClMn.pull, .pulln, .push, .pushn, .gpost, .hsh] →
    let stalls := (mn = .pull ∧ empty = true) ∨ (mn = .push ∧ full = true) ∨ (mn = .gpost ∧ x.ch.flags.getLsbD 6 = true)
    ∃ w, exec (cloveCmd mn n e pins) s = .next w ∧
      let ch := w.chan x.key
      (stalls → ch.pc = x.ch.pc ∧ ch.flags.getLsbD 1 = true ∧ ch.sh = x.ch.sh ∧ ch.inF = x.ch.inF ∧ ch.outF = x.ch.outF ∧ w.gd = s.gd) ∧
      (¬ stalls → x.completes s w x.seq ∧
        (mn = .pull ∨ mn = .pulln → ch.shcnt = 32 ∧ ch.outF = x.ch.outF ∧
          (∀ v q r, x.ch.inF = (v, q) :: r → empty = false → ch.sh = v ∧ ch.lastIn = v ∧ ch.inF = r ∧ ch.flags.getLsbD 2 = false) ∧
          (empty = true → ch.sh = x.ch.lastIn ∧ ch.inF = x.ch.inF ∧ ch.flags.getLsbD 2 = true ∧ ch.staleCnt = satInc 0xFFFF x.ch.staleCnt)) ∧
        (mn = .push ∨ mn = .pushn → ch.shcnt = 0 ∧ ch.sh = x.ch.sh ∧ ch.inF = x.ch.inF ∧ ch.flags.getLsbD 2 = full ∧
          ch.outF = (if full then x.ch.outF.dropLast else x.ch.outF) ++ [x.ch.sh]) ∧
        (mn = .gpost → let g := s.reg (chnOff n e x.c + 0x10)
          let posts := g.getLsbD 31 = true ∧ s.gtEn (bits g 0 8) = true ∧ (s.postBinding (bits g 0 8) n e x.c).isSome = true
          (posts → (∃ q : Post, (w.slice n).queue = (s.slice n).queue ++ [q] ∧ q.e = e ∧ q.c = x.c ∧ q.target = bits g 0 8 ∧
              q.op = bits x.w 0 2 ∧ q.addr = x.ch.addr.toNat ∧ q.p8 = x.p8) ∧
            (x.ch.flags.getLsbD 10 = ch.flags.getLsbD 10) ∧ (s.bit (gtOff (bits g 0 8)) 30 = true → ch.flags.getLsbD 6 = true ∧
              ch.flags.getLsbD 7 = false ∧ ch.flags.getLsbD 8 = false ∧ ch.flags.getLsbD 9 = false)) ∧
          (¬ posts → ch.flags.getLsbD 10 = true ∧ ch.flags.getLsbD 6 = false ∧ w.gd = s.gd)) ∧
        (mn = .hsh → ch.sh = x.ch.sh ∧ ch.shcnt = x.ch.shcnt ∧ (x.ch.flags.getLsbD 9 = false → w.meas = s.meas)))

/-- R205 to R208: an enabled Clove channel starts at WRAPB with its registers cleared and its out FIFO kept; a refused enable leaves it
disabled. A disable waits for the channel's next own step where its engine steps, and else takes effect at once. CE_IMD_DATA writes the
live program word that CE_IMD_ADDR names only while the engine does not step and its channels are disabled. -/
def Obligations.CloveSetup : Prop :=
  ∀ (s : State) (src : Src) (n : Fin 16) (e : Fin 12) (c : Fin 4) (v : Word),
    let off := chnOff n e c
    let k := chanKey n e c
    let eng := n.val * 12 + e.val
    let a := s.fld (ceOff n e + 0x10) 0 8
    let word := spanOff n (0x4000 + e * 0x400 + 4 * a)
    let busy : Bool := s.ceRunning n e || (List.range 4).any fun j => s.chnEn n e j
    s.clk.mainRst = false → s.portShut src = false → s.inRst n = false →
    (v &&& 0x78FF1F07 = s.stg off &&& 0x78FF1F07 →
      (s.bit off 31 = false → (s.chan k).stopping = false → s.bothPass (State.chanBar n e c) = none →
        ∃ w, exec (.cloveChannelEnable src n e c v) s = .next w ∧ w.bit off 31 = true ∧
          let ch := w.chan k
          let b := s.fld (off + 4) 8 8
          ch.pc = b ∧ ch.rwb = b ∧ ch.rwe = s.fld (off + 4) 0 8 ∧ ch.sh = 0 ∧ ch.shcnt = 0 ∧ ch.cntA = 0 ∧ ch.cntB = 0 ∧ ch.crcv = 0 ∧ ch.gen = 0 ∧
            ch.flags = 0 ∧ ch.inF = [] ∧ ch.outF = (s.chan k).outF) ∧
      (s.bit off 31 = false → ∀ code d, s.bothPass (State.chanBar n e c) = some (code, d) → ∃ w, exec (.cloveChannelEnable src n e c v) s = .next w ∧
        w.bit off 31 = false ∧ w.chan k = s.chan k ∧ bits w.frz.reason 0 16 = code % 65536 ∧ w.frz.reasonDetail = d) ∧
      (s.bit off 31 = true → exec (.cloveChannelEnable src n e c v) s = .next s ∧
        ∃ w, exec (.cloveChannelDisable src n e c v) s = .next w ∧ w.bit off 31 = false ∧
          ((s.engine eng).running = true → s.spanEn n = true → (w.chan k).stopping = true ∧ (w.chan k).inF = (s.chan k).inF) ∧
          ((s.engine eng).running = false ∨ s.spanEn n = false → (w.chan k).stopping = false ∧ (w.chan k).inF = [] ∧
            (w.chan k).sh = (s.chan k).sh ∧ (w.chan k).outF = (s.chan k).outF))) ∧
    (∃ w, exec (.ceImdData src n e v) s = .next w ∧
      (busy = true → w.regs = s.regs ∧ (w.engine eng).drej = satInc 0xFFFF (s.engine eng).drej ∧ bits w.frz.reason 0 16 = 0x050A) ∧
      (busy = false → clReserved v = true → w.regs = s.regs ∧ bits w.frz.reason 0 16 = 0x0501) ∧
      (busy = false → clReserved v = false → w.reg word = v ∧ w.fld (ceOff n e + 0x10) 0 8 = (a + 1) % 256 ∧ w.staged = s.staged ∧
        w.frz = s.frz))

/-- R29, R30, R41, R154, R330, R458, R459, R464, R467: a MAIN reset, by RST_CTRL with its key, by rst_main_n_i, by the core supply or by the
battery, returns registers, units and TB's holder to their reset values and keeps flash, the backup domain and, but for a loss of supply,
Span memory; its release sets TB from the LF count and starts the boot ROM in SP0.T0. -/
def Obligations.MainReset : Prop :=
  ∀ (s : State),
    let fresh := fun (w : State) => w.clk.mainRst = true ∧ w.regs = [] ∧ w.staged = [] ∧ w.dirty = [] ∧ w.cores = [] ∧ w.threads = [] ∧
      w.ports = [] ∧ w.ends = [] ∧ w.chans = [] ∧ w.banks = [] ∧ w.timers = [] ∧ w.frz = {} ∧ w.mor = {} ∧ w.boot = {} ∧ w.dbg = {} ∧
      w.gd = {} ∧ w.fp.q = []
    let calm := s.fp.q = [] ∧ s.meas.ring = none ∧ s.optn.writing = none
    let keeps := fun (w : State) => w.mem = s.drainSpans.mem ∧
      ((∀ n : Fin 16, (s.core n).sb = [] ∧ ∀ t : Fin 16, (s.thr (gthr n t)).retry = none) → w.mem = s.mem)
    (∀ v : Word, s.clk.mainRst = false →
      (v.getLsbD 0 = false → exec (.mainResetRequest v) s = .next s) ∧
      (v.getLsbD 0 = true → bits v 16 16 ≠ 0x4D52 → exec (.mainResetRequest v) s = .next (s.offer 0x0108 0 v 0 0)) ∧
      (v.getLsbD 0 = true → bits v 16 16 = 0x4D52 → ∃ w, exec (.mainResetRequest v) s = .next w ∧ fresh w ∧ w.clk.cause = 3 ∧
        w.clk.vHeld = s.clk.tb ∧ w.clk.lf = s.clk.lf ∧ w.bk = s.bk ∧ keeps w ∧ w.meas.brOpen = s.meas.brOpen ∧
        (calm → w.flash = s.flash ∧ w.opt = s.opt))) ∧
    (∃ w, exec .rstMainN s = .next w ∧ w.clk.rstPin = true ∧ w.clk.mainRst = true ∧ (s.clk.mainRst = false → fresh w ∧ w.clk.cause = 2 ∧
      keeps w ∧ w.bk = s.bk ∧ w.clk.vHeld = s.clk.tb)) ∧
    (∃ w, exec .backupReset s = .next w ∧ fresh w ∧ w.clk.backupRst = true ∧ w.clk.backupEdges = 0 ∧ w.clk.lf = 0 ∧ w.clk.cause = 0 ∧
      w.bk = {} ∧ w.meas.brOpen = false ∧ w.mem = []) ∧
    (s.clk.pok = true → ∃ w, exec .mainPokFall s = .next w ∧ fresh w ∧ w.clk.pok = false ∧ w.mem = [] ∧ w.bk = s.bk ∧ w.clk.lf = s.clk.lf ∧
      (s.clk.mainRst = false → w.clk.cause = 1)) ∧
    (∃ w, exec .mainPokRise s = .next w ∧ w.clk = { s.clk with pok := true } ∧ w.bk.smpAt = none ∧ w.bk.ring = s.bk.ring ∧ w.regs = s.regs) ∧
    (∀ (clks : BitVec 12) (vsense : BitVec 16),
      (s.clk.backupRst = true ∨ s.clk.pok = false ∨ s.clk.mainRst = false → exec (.mainResetRelease clks vsense) s = .next s) ∧
      (s.clk.backupRst = false → s.clk.pok = true → s.clk.mainRst = true →
        ∃ w, exec (.mainResetRelease clks vsense) s = .next w ∧ w.clk.mainRst = false ∧ w.clk.rstPin = false ∧
          w.clk.clks = clks &&& 0xFEF ∧ w.clk.sensed = vsense ∧
          let v := s.clk.lf * 1000000000 / 32768
          w.clk.tb = (if 2 ≤ s.clk.cause then max v s.clk.vHeld else v) % 2 ^ 64 ∧ w.clk.acc = s.clk.lf * 37 % 64 ∧
          (∀ n, n < 16 → (w.core n).inRst = false ∧
            ((s.bank n).pcb = [] → (w.bank n).pcb.map (·.2.1) = List.range 24 ++ [0x1F])) ∧
          (w.thr 0).st = .service ∧ (w.thr 0).pc = 0x1F000000 ∧ w.boot.toRun = true))

/-- R29, R31, R32, R39, R40, R464: SPAN_EN starts a Span whose checks pass and its engines; clearing it stops the engines, empties the timed
queues and lets go of the pins, and is refused while a channel of it serves an enabled target. SPAN_RST holds a Span in reset for 16
ticks: threads, channels, ports and registers return to their reset values, and its memory, program and pin setup stay. -/
def Obligations.SpanLifecycle : Prop :=
  ∀ (s : State) (n : Fin 16),
    s.clk.mainRst = false →
    (s.spanEn n = false →
      (s.bothPass (State.spanBar n) = none → ∃ w, exec (.spanEnable n) s = .next w ∧ w.spanEn n = true ∧
        (∀ m : Fin 16, m ≠ n → w.spanEn m = s.spanEn m) ∧ (w.core n).stopping = false ∧
        ∀ e : Fin 12, (w.engine (n * 12 + e)).running = s.bit (ceOff n e) 31 ∧ (w.engine (n * 12 + e)).origin = s.clk.tb ∧
          (w.engine (n * 12 + e)).k = 0) ∧
      (∀ code d, s.bothPass (State.spanBar n) = some (code, d) → ∃ w, exec (.spanEnable n) s = .next w ∧ w.regs = s.regs ∧
        w.engines = s.engines ∧ bits w.frz.reason 0 16 = code % 65536 ∧ w.frz.reasonDetail = d) ∧
      exec (.spanDisable n) s = .next s) ∧
    (s.spanEn n = true → exec (.spanEnable n) s = .next s ∧
      (s.servedTarget n = none → ∃ w, exec (.spanDisable n) s = .next w ∧ w.spanEn n = false ∧ (w.core n).stopping = true ∧
        (w.bank n).ce = 0 ∧ w.mem = s.mem ∧ (∀ p : Fin 32, (w.port (n * 32 + p)).queue = [] ∧ (w.port (n * 32 + p)).recs = []) ∧
        (∀ e : Fin 12, (w.engine (n * 12 + e)).running = false) ∧
        ∀ t : Fin 16, (w.thr (gthr n t)).st = (s.thr (gthr n t)).st ∧ (w.thr (gthr n t)).a = (s.thr (gthr n t)).a ∧
          ((s.thr (gthr n t)).entry = none → (w.thr (gthr n t)).pc = (s.thr (gthr n t)).pc)) ∧
      (s.servedTarget n ≠ none → ∃ w, exec (.spanDisable n) s = .next w ∧ w.regs = s.regs ∧ bits w.frz.reason 0 16 = 0x0604)) ∧
    ((∀ t : Fin 16, s.inFlight n t = false) → exec (.spanCoreStop n) s =
      .next (if (s.core n).stopping then s.setCore n { s.core n with stopping := false } else s)) ∧
    (∀ mask : BitVec 16, mask.getLsbD n = true → (s.core n).inRst = false →
      (mask.getLsbD 0 = true → s.boot.done = false → ∃ w, exec (.spanResetPulse mask) s = .next w ∧ w.clk.mainRst = true ∧ w.clk.cause = 7) ∧
      (mask.getLsbD 0 = false ∨ s.boot.done = true → ∃ w, exec (.spanResetPulse mask) s = .next w ∧ (w.core n).inRst = true ∧
        (w.core n).rstEnd = some (s.clk.tb + 16) ∧ (w.core n).round = 0 ∧ (∀ t : Fin 16, w.thr (gthr n t) = {}) ∧
        (∀ p : Fin 32, w.port (n * 32 + p) = {}) ∧ (∀ q, q < 48 → w.chan (n * 48 + q) = {}) ∧
        (∀ e : Fin 128, (w.chEnd (n * 128 + e)).staged = [] ∧ (w.chEnd (n * 128 + e)).buf = []) ∧ (w.bank n).gv = 0 ∧ (w.bank n).ge = 0 ∧
        (∀ o, o < 0x10000 → w.reg (spanOff n o) = if keptWord o then s.reg (spanOff n o) else regReset (spanOff n o)) ∧
        ((∀ m : Fin 16, (s.core m).sb = [] ∧ ∀ t : Fin 16, (s.thr (gthr m t)).retry = none) → w.mem = s.mem))) ∧
    (∀ t, (s.core n).rstEnd = some t →
      (s.clk.tb < t → exec (.spanResetRelease n) s = .next s) ∧
      (t ≤ s.clk.tb → ∃ w, exec (.spanResetRelease n) s = .next w ∧ (w.core n).inRst = false ∧ (w.core n).rstEnd = none ∧
        (n = 0 → (w.thr 0).st = .service ∧ (w.thr 0).pc = 0x1F000000) ∧ (n ≠ 0 → w.threads = s.threads)))

/-- R33, R34, R329 to R331: SLEEP is granted where every enabled Span is quiet, no command is accepted and no Freeze runs, and else denied;
wake_i ends it. LF mode begins at an LF edge where SLEEP or a device halt stands; in it TB takes 30,517 or 30,518 ticks at each LF edge.
A read of TB_LO or LF_LO latches the high word for its requester. -/
def Obligations.TimeAndPower : Prop :=
  ∀ (s : State),
    let c := s.clk
    let lf := (c.lf + 1) % 2 ^ 48
    let acc := (c.acc + 37) % 64
    let tb := (c.tb + if 64 ≤ c.acc + 37 then 30518 else 30517) % 2 ^ 64
    (c.mainRst = false →
      (c.sleeping = false → ∃ w, exec .sleepReq s = .next w ∧ w = { s with clk := w.clk } ∧
        (s.mayOnSleep = true → w.clk = { c with
          sleeping := true
          sleepDeny := false }) ∧
        (s.mayOnSleep = false → w.clk = { c with sleepDeny := true })) ∧
      (c.sleeping = true → exec .wake s = .next { s with clk := { c with
        sleeping := false
        sleepAck := false } }) ∧
      (∀ clks : BitVec 12,
        let d := (c.tb + 2 ^ 64 - c.tbEdge) % 2 ^ 64
        let now : BitVec 12 := clks &&& 0xFEE ||| c.clks &&& 0x10 ||| if 30200 ≤ d ∧ d ≤ 30840 then 1 else 0
        (c.backupRst = false → c.lfMode = false → s.lfCause = false → ∃ w, exec (.lfEdge clks) s = .next w ∧ w = { s with clk := w.clk } ∧
          w.clk.lf = lf ∧ w.clk.acc = acc ∧ w.clk.tb = c.tb ∧ w.clk.clks = now) ∧
        (c.lfMode = false → s.lfCause = true → ∃ w, exec (.lfModeEntry clks) s = .next w ∧ w.clk.lfMode = true ∧ w.clk.tb = c.tb ∧
          w.clk.lf = lf ∧ w.clk.acc = acc ∧ w.clk.clks = now ∧ w.clk.sleepAck = c.sleeping ∧
          w.clk.lfEntries = satInc 0xFFFF c.lfEntries ∧ w.running = false) ∧
        (c.lfMode = true → s.lfLeaves clks = false → ∃ w, exec (.lfModeStep clks) s = .next w ∧ w.clk.tb = tb ∧ w.clk.lf = lf ∧
          w.clk.acc = acc ∧ w.clk.lfMode = true) ∧
        (s.lfLeaves clks = true → ∃ w, exec (.lfModeExit clks) s = .next w ∧ w.clk.tb = tb ∧ w.clk.lf = lf ∧ w.clk.acc = acc ∧
          w.clk.lfMode = false)) ∧
      ∀ src : Src, s.portShut src = false →
        (∃ w, exec (.tbLoRead src) s = .next w ∧ w.spRdata.toNat = c.tb % 2 ^ 32 ∧ w.spErr = false ∧
          (tabGet 0 w.clk.tbSnap (srcReq src)).toNat = c.tb / 2 ^ 32 % 2 ^ 32 ∧ w.clk.tb = c.tb ∧
          ∀ q, q ≠ srcReq src → tabGet 0 w.clk.tbSnap q = tabGet 0 c.tbSnap q) ∧
        (∃ w, exec (.lfLoRead src) s = .next w ∧ w.spRdata.toNat = c.lf % 2 ^ 32 ∧ w.spErr = false ∧
          (tabGet 0 w.clk.lfSnap (srcReq src)).toNat = c.lf / 2 ^ 32 % 2 ^ 16 ∧ w.clk.lf = c.lf)) ∧
    (c.backupRst = true → ∀ clks : BitVec 12, exec (.lfEdge clks) s = .next { s with clk := { c with
      backupEdges := c.backupEdges + 1
      backupRst := decide (c.backupEdges + 1 < 2) } }) ∧
    (c.mainRst = true → (∀ src : Src, exec (.tbLoRead src) s = .next { s with spErr := true }) ∧ exec .sleepReq s = .next s)

/-- R333 to R341, R343, R344: a running timer channel counts at its ticks from 0 to TOP, raises TOPF at a wrap and MATCH where COUNT
becomes CMP, and acts on OUT; the low channel of a pair carries into the high one. CMP and COUNT are written and read, in a pair through
held and snapshot words, and an accepted edge captures COUNT. -/
def Obligations.Timers : Prop :=
  ∀ (s : State) (n : Fin 16) (k : Fin 8),
    let cfg := s.reg (tmOff n k)
    let key := tmKey n k
    let t := s.timer key
    let h := s.timer (key + 1)
    let top : Word := if s.reg (tmOff n k + 8) = 0 then BitVec.allOnes 32 else s.reg (tmOff n k + 8)
    let pre := s.fld (tmOff n k + 4) 16 16 + 1
    let phase := s.fld (tmOff n k + 4) 0 16
    let high := s.tmHigh n k
    let low := s.tmLow n k
    let above := fun v : Word => s.reg (tmOff n k + 8) != 0 && BitVec.ult (s.reg (tmOff n k + 8)) v
    (∀ d, s.tmRuns n k = true → high = false → cfg.getLsbD 28 = false → t.lastInc < d → d % pre = phase % pre →
        (∀ j, t.lastInc < j → j < d → j % pre ≠ phase % pre) → d ≤ s.clk.tb →
        s.capFirst n k d = false → ∃ w, exec (.timerIncrement n k) s = .next w ∧
        let x := w.timer key
        let wraps := t.count == top
        let count : Word := if wraps then 0 else t.count + 1
        let topped := wraps && s.reg (tmOff n k + 8) != 0
        x.count = count ∧ x.lastInc = d ∧ x.cmp = t.cmp ∧ x.topF = (t.topF || topped) ∧
        (low = true → (w.timer (key + 1)).count = if wraps && s.tmRuns n (k + 1) then h.count + 1 else h.count) ∧
        (low = false → let equal := count == t.cmp && !above t.cmp
          x.matchF = (t.matchF || equal) ∧
          (let o1 := if topped then outAct (bits cfg 24 2) t.out else t.out
           x.out = if equal then outAct (bits cfg 26 2) o1 else o1) ∧
          ((equal = true ∧ cfg.getLsbD 20 = true ∨ topped = true ∧ cfg.getLsbD 21 = true) → x.pend = true ∧
            (t.pend = false → (0x11, k.val) ∈ (w.thr (n * 16 + bits cfg 16 4)).pend)))) ∧
    (s.inRst n = false → ∀ v : Word,
      (high = true → exec (.tmCmp n k v) s = .next (s.setTimer key { t with heldCmp := some v }) ∧
        exec (.tmCmpNow n k v) s = .next (s.setTimer key { t with heldCmp := some v }) ∧
        exec (.tmCountWrite n k v) s = .next (s.setTimer key { t with heldCount := some v })) ∧
      let l := s.tmLand n k
      let y := l.timer key
      let z := l.timer (key + 1)
      ((∀ d, s.tmDue n k = some d → s.clk.tb ≤ d) → l = s) ∧
      (high = false → low = false →
        exec (.tmCmp n k v) s = .next (l.setTimer key { y with cmp := v }) ∧
        (∃ w, exec (.tmCmpNow n k v) s = .next w ∧ (w.timer key).cmp = v ∧
          let hit := y.count == v && !above v
          (w.timer key).matchF = (y.matchF || hit) ∧ (w.timer key).out = if hit then outAct (bits cfg 26 2) y.out else y.out) ∧
        exec (.tmCountWrite n k v) s = .next (l.setTimer key { y with
          count := v
          lastInc := max y.lastInc s.clk.tb })) ∧
      (low = true → high = false →
        (∃ w, exec (.tmCmp n k v) s = .next w ∧ (w.timer key).cmp = v ∧ (w.timer (key + 1)).cmp = z.heldCmp.getD z.cmp) ∧
        (∃ w, exec (.tmCountWrite n k v) s = .next w ∧ (w.timer key).count = v ∧ (w.timer (key + 1)).count = z.heldCount.getD z.count)) ∧
      ∃ w, exec (.tmCountRead n k) s = .next w ∧ w.spErr = false ∧ w.spRdata = (if high then t.hiSnap else t.count) ∧ (w.timer key).count = t.count ∧
        (low = true → (w.timer (key + 1)).hiSnap = h.count)) ∧
    (∀ level : Bool,
      let v := s.tmSource n k level
      let due := (t.lastSmp / 2 ^ bits cfg 5 4 + 1) * 2 ^ bits cfg 5 4
      (s.clk.tb < due ∨ s.incFirst n k due = true → exec (.captureSample n k level) s = .next s) ∧
      (s.running = true → s.inRst n = false → cfg.getLsbD 31 = true → high = false → due ≤ s.clk.tb → s.incFirst n k due = false →
      (t.fresh = true → ∃ w, exec (.captureSample n k level) s = .next w ∧ (w.timer key).level = v ∧ (w.timer key).fresh = false ∧
        (w.timer key).cap = t.cap ∧ (w.timer key).edges = t.edges) ∧
      (t.fresh = false → bits cfg 3 2 = 0 → bits cfg 1 2 = 0 → cfg.getLsbD 28 = false → low = false → ∃ w,
        exec (.captureSample n k level) s = .next w ∧ (w.timer key).lastSmp = due ∧ (w.timer key).level = v ∧
          let edge := v != t.level && cfg.getLsbD (if v then 9 else 10)
          (edge = true → (w.timer key).cap = t.count ∧ (w.timer key).capV = true ∧ (w.timer key).ovr = (t.ovr || t.capV) ∧
            (w.timer key).edges = (t.edges + 1) % 65536) ∧
          (edge = false → (w.timer key).cap = t.cap ∧ (w.timer key).capV = t.capV ∧ (w.timer key).edges = t.edges)))) ∧
    (∀ (src : Src) (v : Word), s.clk.mainRst = false → s.portShut src = false → s.inRst n = false →
      v &&& 0x5FFF01FF = s.stg (tmOff n k) &&& 0x5FFF01FF →
      (cfg.getLsbD 31 = true → ∃ w, exec (.timerDisable src n k v) s = .next w ∧ w.reg (tmOff n k) = cfg &&& 0x7FFFFFFF ∧
        w.timer key = (s.tmLand n k).timer key) ∧
      (cfg.getLsbD 31 = false →
        let s1 := s.setReg (tmOff n k) ((cfg &&& 0xDFFF01FF) ||| (v &&& 0x2000FE00))
        (s1.bothPass (fun s => s.tmBar n k) = none → ∃ w, exec (.timerEnable src n k v) s = .next w ∧
          w.reg (tmOff n k) = ((cfg &&& 0xDFFF01FF) ||| (v &&& 0x2000FE00)) ||| 0x80000000 ∧ (w.timer key).fresh = true ∧ (w.timer key).hist = [] ∧
          (w.timer key).count = t.count ∧ (w.timer key).cmp = t.cmp) ∧
        ∀ code d, s1.bothPass (fun s => s.tmBar n k) = some (code, d) → ∃ w, exec (.timerEnable src n k v) s = .next w ∧
          w.bit (tmOff n k) 31 = false ∧ bits w.frz.reason 0 16 = code % 65536 ∧ w.timer key = t))

/-- R216, R217, R223 to R227: the eight GPIO writes reach the bits of pins that no enabled timed port owns; a direct function write is
checked, crosses and then switches its pin; a keeper lets go when its 64 ticks are over. The Rime sequence 0x1CE5, 0xC01D, 0xA5 with a
mask locks pins, whose staged setup becomes their live one, and any other write or 4,096 ticks fail it. -/
def Obligations.PinsAndRime : Prop :=
  ∀ (s : State) (n : Fin 16),
    let b := s.bank n
    let owned := fun p => (s.portOfPin n p).isSome
    s.inRst n = false →
    (∀ v : Word, ∀ c, c ∈ [Instr.gpioOut n v, .gpioOutSet n v, .gpioOutClr n v, .gpioOutTgl n v] → ∃ w, exec c s = .next w ∧
      (w.bank n).ge = b.ge ∧ (w.bank n).cv = b.cv ∧ ∀ p, p < 24 → (w.bank n).gv.getLsbD p = if owned p then b.gv.getLsbD p else
        if c = .gpioOut n v then v.getLsbD p else if c = .gpioOutSet n v then b.gv.getLsbD p || v.getLsbD p
          else if c = .gpioOutClr n v then b.gv.getLsbD p && !v.getLsbD p else b.gv.getLsbD p != v.getLsbD p) ∧
    (∀ v : Word, ∀ c, c ∈ [Instr.gpioOe n v, .gpioOeSet n v, .gpioOeClr n v, .gpioOeTgl n v] → ∃ w, exec c s = .next w ∧
      (w.bank n).gv = b.gv ∧ (w.bank n).cv = b.cv ∧ ∀ p, p < 24 → (w.bank n).ge.getLsbD p = if owned p then b.ge.getLsbD p else
        if c = .gpioOe n v then v.getLsbD p else if c = .gpioOeSet n v then b.ge.getLsbD p || v.getLsbD p
          else if c = .gpioOeClr n v then b.ge.getLsbD p && !v.getLsbD p else b.ge.getLsbD p != v.getLsbD p) ∧
    (∀ (src : Src) (pin : Fin 24) (v : Word), s.clk.mainRst = false → s.portShut src = false →
      let bar := s.bothPass (State.directBar n pin (bits v 0 4))
      (b.rimeLock.getLsbD pin = true → ∃ w, exec (.pinDirect src n pin v) s = .next w ∧ w.bank n = b ∧ w.regs = s.regs ∧
        bits w.frz.reason 0 16 = 0x0420) ∧
      (b.rimeLock.getLsbD pin = false → v.getLsbD 31 = false → exec (.pinDirect src n pin v) s = .next s) ∧
      (b.rimeLock.getLsbD pin = false → v.getLsbD 31 = true →
        (bar = none → ∃ w d, exec (.pinDirect src n pin v) s = .next w ∧ (w.bank n).direct = b.direct ++ [(pin.val, bits v 0 4, d)] ∧
          w.regs = s.regs ∧ s.clk.tb + 3 ≤ d ∧ ((∀ x, x ∈ b.direct → x.2.2 ≤ s.clk.tb + 3) → d ≤ s.clk.tb + 4) ∧
          (s.firnBar src = none → w.stg (pinOff n pin) = BitVec.ofNat 32 (bits v 0 4)) ∧
          (s.firnBar src ≠ none → w.staged = s.staged)) ∧
        ∀ code d, bar = some (code, d) → ∃ w, exec (.pinDirect src n pin v) s = .next w ∧
          w.bank n = b ∧ w.regs = s.regs ∧ bits w.frz.reason 0 16 = code % 65536)) ∧
    (∀ p f d r, s.clk.mainRst = false → b.direct = (p, f, d) :: r →
      let ready := d ≤ s.clk.tb ∧ s.beforeApply d = true ∧ s.bankTo n d = true
      (ready → f < 16 → ∃ w, exec (.directSwitch n) s = .next w ∧ (w.bank n).direct = r ∧
        (w.reg (pinOff n p)).toNat = f ∧ ∀ o, o ≠ pinOff n p → w.reg o = s.reg o) ∧
      (¬ ready → exec (.directSwitch n) s = .next s)) ∧
    (∀ pin : Fin 24, ∃ w, exec (.keeperRelease n pin) s = .next w ∧ ∀ q, tabGet 0 (w.bank n).keep q =
      if q = pin ∧ tabGet 0 b.keep pin ≤ s.clk.tb then 0 else tabGet 0 b.keep q) ∧
    (let late := b.rimeSeq ≠ 0 ∧ b.rimeTick + 4096 ≤ s.clk.tb
    let seq := if late then 0 else b.rimeSeq
    let fails := if late then satInc 255 b.rimeFails else b.rimeFails
    (∀ v : Word, ∃ w, exec (.rimeKey n v) s = .next w ∧ (w.bank n).rimeLock = b.rimeLock ∧
      (seq = 0 → v = 0x1CE5 → (w.bank n).rimeSeq = 1 ∧ (w.bank n).rimeTick = s.clk.tb ∧ (w.bank n).rimeFails = fails) ∧
      (seq = 1 → v = 0xC01D → (w.bank n).rimeSeq = 2 ∧ (w.bank n).rimeTick = s.clk.tb ∧ (w.bank n).rimeFails = fails) ∧
      (¬ (seq = 0 ∧ v = 0x1CE5) → ¬ (seq = 1 ∧ v = 0xC01D) → (w.bank n).rimeSeq = 0 ∧ (w.bank n).rimeFails = satInc 255 fails)) ∧
    (∀ v : Word, ∃ w, exec (.rimeSet n v) s = .next w ∧ (w.bank n).rimeSeq = 0 ∧
      (seq = 2 ∧ bits v 24 8 = 0xA5 → (∀ p, p < 24 → (w.bank n).rimeLock.getLsbD p = (b.rimeLock.getLsbD p || v.getLsbD p)) ∧
        (w.bank n).rimeFails = fails ∧ w.regs = s.regs ∧
        ∀ p, p < 24 → v.getLsbD p = true → w.stg (pinOff n p) = s.reg (pinOff n p) ∧ w.stg (pinOff n p + 4) = s.reg (pinOff n p + 4)) ∧
      (¬ (seq = 2 ∧ bits v 24 8 = 0xA5) → (w.bank n).rimeLock = b.rimeLock ∧ (w.bank n).rimeFails = satInc 255 fails ∧
        w.staged = s.staged))) ∧
    (∃ w, exec (.rimeTimeout n) s = .next w ∧
      (s.clk.mainRst = false → b.rimeSeq ≠ 0 → b.rimeTick + 4096 ≤ s.clk.tb → (w.bank n).rimeSeq = 0 ∧
        (w.bank n).rimeFails = satInc 255 b.rimeFails) ∧
      (b.rimeSeq = 0 ∨ s.clk.tb < b.rimeTick + 4096 → w = s))

/-- R201, R234, R235, R240, R245 to R247, R252 to R256: a lookup unit takes the first post and counts it; its answer reaches the posting
channel and its fside channel, and opens a measured transaction; a transaction is folded into its component. A target's EN is checked when
set, cannot be cleared while the Guard is sealed, and ends the target's transactions when cleared. -/
def Obligations.GuardDecides : Prop :=
  ∀ (s : State),
    s.clk.mainRst = false →
    (∀ n : Fin 16, s.inRst n = false →
      let sl := s.slice n
      (∀ q, sl.units.length < 2 → firstPost sl.queue = some q → ∃ w, exec (.guardLookup n) s = .next w ∧
        w.slice n = { queue := dropFirst q sl.queue, units := sl.units ++ [q] } ∧ w.chans = s.chans ∧
        w.regs = (s.readRegion s.gd.liveBank).regs ∧
        (w.tgt q.target).lookups = ((s.tgt q.target).lookups + 1) % 2 ^ 32 ∧
        (w.tgt q.target).denies = (if q.code = 2 then satInc 0xFFFF (s.tgt q.target).denies else (s.tgt q.target).denies) ∧
        (w.tgt q.target).oor = (if q.oor then satInc 0xFFFF (s.tgt q.target).oor else (s.tgt q.target).oor) ∧
        ∀ t, t ≠ q.target → w.tgt t = s.tgt t) ∧
      (2 ≤ sl.units.length ∨ sl.queue = [] → exec (.guardLookup n) s = .next s) ∧
      (∀ q r, sl.units = q :: r → ∃ w, exec (.guardAnswer n) s = .next w ∧ w.slice n = { sl with units := r } ∧ w.regs = s.regs ∧ w.mem = s.mem ∧
        let v : BitVec 16 := if q.code = 0 then 0x180 else if q.code = 1 then 0x380 else 0x080
        (s.clk.tb, 0x3C0, v) ∈ (w.chan (chanKey n q.e q.c)).answers ∧
        (∀ fe fc, q.fside = some (fe, fc) → (s.clk.tb, 0x380, v) ∈ (w.chan (chanKey n fe fc)).answers) ∧
        (q.fside = none → (w.chan (chanKey n q.e q.c)).answers = (s.chan (chanKey n q.e q.c)).answers ++ [(s.clk.tb, 0x3C0, v)] ∧
          ∀ k, k ≠ chanKey n q.e q.c → w.chan k = s.chan k) ∧
        (q.code = 1 → q.op = 0 → ∀ lane, s.laneOfTarget q.target = some lane → ∃ x, w.meas.txns = s.meas.txns ++ [x] ∧ x.n = n.val ∧
          x.e = q.e ∧ x.c = q.c ∧ x.target = q.target ∧ x.addr = q.addr ∧ x.comp = q.comp ∧ x.lane = lane ∧ x.data = [] ∧ x.ended = false) ∧
        (¬ (q.code = 1 ∧ q.op = 0) → w.meas.txns = s.meas.txns) ∧
        (q.code = 2 → q.monitored = true → w.meas.unenf = true)) ∧
      (sl.units = [] → exec (.guardAnswer n) s = .next s)) ∧
    (∀ (t : Fin 256) (b : Fin 2),
      let f := firstTxn (fun x => x.target == t.val && x.b == b.val && x.ended) s.meas.txns none
      (∀ x, f = some x → s.foldable x = true → ∃ w, exec (.transactionFold t b) s = .next w ∧
        let c := tabGet {} s.meas.comps x.comp
        let d := tabGet {} w.meas.comps x.comp
        d.m = sha384 (digestBytes c.m ++ sha384Bytes x.data ++ leBytes 1 x.target ++ leBytes 8 x.addr ++ leBytes 4 x.data.length) ∧
        d.bytes = c.bytes + x.data.length ∧ d.txns = c.txns + 1 ∧ d.target = x.target ∧ w.meas.brOpen = true ∧
        w.meas.txns = dropIf (fun y => y.id == x.id) s.meas.txns ∧ ∀ k, k ≠ x.comp → tabGet {} w.meas.comps k = tabGet {} s.meas.comps k) ∧
      (f = none ∨ (∃ x, f = some x ∧ s.foldable x = false) → exec (.transactionFold t b) s = .next s)) ∧
    (∀ (src : Src) (t : Fin 256) (v : Word), s.portShut src = false → v &&& 0x7FFFFF80 = s.stg (gtOff t) &&& 0x7FFFFF80 →
      (s.gtEn t = false →
        (s.bothPass (State.gtBar t) = none → ∃ w, exec (.guardTargetEnable src t v) s = .next w ∧
          w.reg (gtOff t) = s.reg (gtOff t) ||| 0x80000000 ∧ w.tgt t = {} ∧ ∀ o, o ≠ gtOff t → w.reg o = s.reg o) ∧
        (∀ code d, s.bothPass (State.gtBar t) = some (code, d) → ∃ w, exec (.guardTargetEnable src t v) s = .next w ∧ w.regs = s.regs ∧
          bits w.frz.reason 0 16 = code % 65536 ∧ w.frz.reasonDetail = d)) ∧
      (s.gtEn t = true →
        (s.gd.sealed = true → ∃ w, exec (.guardTargetDisable src t v) s = .next w ∧ w.regs = s.regs ∧ bits w.frz.reason 0 16 = 0x0620) ∧
        (s.gd.sealed = false → ∃ w, exec (.guardTargetDisable src t v) s = .next w ∧ w.reg (gtOff t) = s.reg (gtOff t) &&& 0x7FFFFFFF ∧
          (∀ o, o ≠ gtOff t → w.reg o = s.reg o) ∧
          ∀ x, s.meas.txns = [x] → x.target = t.val → x.ended = false → x.data ≠ [] → w.meas.txns = [{ x with ended := true }]))) ∧
    exec .guardSeal s = .next { s with gd := { s.gd with sealed := true } }

/-- R237, R238, R260, R262 to R266, R392: a region entry is written through GD_DATA into the staged table, unless the copy that follows a
swap runs, and read back; the probe answers as a post would be judged. A close is requested, taken at its tick, signed with a valid key,
or abandoned without one, and written to its slot of the ring. -/
def Obligations.RegionTableAndRecords : Prop :=
  ∀ (s : State),
    s.clk.mainRst = false →
    let i := s.gdIndex
    let i' := if s.bit 0x30010 30 then (i + 1) % 2 ^ 15 else i
    let w32 := fun k => (tabGet 0 s.gd.buf k).toNat
    (∀ (k : Fin 3) (v : Word), ∃ w, exec (.gdDataWrite k v) s = .next w ∧ w.regionStaged = s.regionStaged ∧
      ∀ j, tabGet 0 w.gd.buf j = if j = k then v else tabGet 0 s.gd.buf j) ∧
    (∀ (src : Src) (v : Word), s.portShut src = false →
      let e := BitVec.ofNat 128 (w32 0 + w32 1 * 2 ^ 32 + w32 2 * 2 ^ 64 + v.toNat * 2 ^ 96)
      (s.gd.sync = false → s.firnBar src = none → ∃ w, exec (.gdData3Write src v) s = .next w ∧ w.gdIndex = i' ∧ w.regionLive = s.regionLive ∧
        (∀ j, tabGet 0 w.regionStaged j = if j = i then e else tabGet 0 s.regionStaged j) ∧
        (tabGet 0 s.regionStaged i ≠ e → regionUnit ∈ w.dirty)) ∧
      (s.gd.sync = true → ∃ w, exec (.gdData3Write src v) s = .next w ∧
        w.regionStaged = s.regionStaged ∧ bits w.frz.reason 0 16 = 0x0610)) ∧
    (∃ w, exec .gdData3Read s = .next w ∧ w.gdIndex = i' ∧ w.spErr = false ∧
      w.spRdata = (tabGet 0 (if s.bit 0x30010 31 then s.regionStaged else s.regionLive) i).extractLsb' 96 32) ∧
    (s.gd.sync = true → exec .regionSyncDone s = .next { s.freshGrans 2 (inRegionBank !s.gd.liveBank) with
      regionStaged := s.regionLive
      gd := { s.gd with sync := false } }) ∧
    (∀ v : Word, s.gd.probe = none → bits v 29 2 ≠ 3 → ∃ w, exec (.gdProbe v) s = .next w ∧ w.gd.probeRes = 0 ∧
      w.gd.probe = some (probeWord (s.judge (bits v 21 8) (bits v 29 2) ((s.reg 0x30040).toNat + bits v 0 10 * 2 ^ 32)))) ∧
    (∀ r, s.gd.probe = some r → ∃ w, exec .probeDone s = .next w ∧ w.gd.probe = none ∧ w.gd.probeRes = r) ∧
    (s.meas.closing = true → ∃ w, exec .gmClose s = .next w ∧ bits w.frz.reason 0 16 = 0x0B03 ∧ w.meas = s.meas) ∧
    (s.meas.closing = false → s.meas.closePend = false → ∃ w, exec .gmClose s = .next w ∧ w.meas = { s.meas with
      closePend := true
      closeAt := if s.cascadeClose then some (s.clk.tb + s.cfLead) else s.meas.closeAt }) ∧
    (∀ c, (s.meas.closeAt = some c ∧ c ≤ s.clk.tb) ∨ (s.meas.closeAt = none ∧ s.meas.closePend = true ∧ c = s.clk.tb) →
      ∃ w, exec .recordClose s = .next w ∧
        w.meas.closePend = (s.meas.closePend && s.meas.closeAt.isSome && !s.casc.master) ∧ w.meas.closeAt = none ∧
        (s.meas.closing = true → w.meas.queue = s.meas.queue ∧ w.meas.seq = s.meas.seq ∧ bits w.frz.reason 0 16 = 0x0B03) ∧
        (s.meas.closing = false → ∃ r, w.meas.queue = s.meas.queue ++ [r] ∧ r.seq = s.meas.seq ∧ r.tb = c ∧
          w.meas.seq = (s.meas.seq + 1) % 2 ^ 32 ∧ w.meas.closing = true ∧ w.meas.comps = [])) ∧
    (∀ c, s.meas.closeAt = some c → s.clk.tb < c → s.meas.closePend = false ∨ s.casc.master = true →
      exec .recordClose s = .next s) ∧
    (s.meas.closeAt = none → s.meas.closePend = false → exec .recordClose s = .next s) ∧
    (∀ (key : Option Digest) (r : Rec) (rest : List Rec), s.meas.closing = true → s.meas.ring = none → s.meas.queue = r :: rest →
      ((s.alm.keysOff = true ∨ key.all (fun k => !keyOk k) = true) → ∃ w, exec (.signComplete key) s = .next w ∧ w.meas.closing = false ∧
        w.meas.last = 2 ∧ w.meas.ring = none ∧ w.meas.queue = s.meas.queue) ∧
      (∀ k, key = some k → keyOk k = true → s.alm.keysOff = false → ∃ w rb, exec (.signComplete key) s = .next w ∧ w.meas.closing = true ∧
        w.meas.ring = some (r.seq, rb) ∧ w.meas.queue = rest ∧ w.meas.prev = sha384 rb ∧ w.meas.chainStart = false ∧
        rb = signRec k r (r.flags + b2n s.meas.chainStart + 2 * b2n s.meas.priorLost + 32 * b2n s.meas.priorRing) s.meas.prev)) ∧
    (s.fp.ringRuns = false ∨ s.meas.ring = none → ∀ ok, exec (.ringWriteDone ok) s = .next s) ∧
    (∀ seq rb, s.fp.ringRuns = true → s.meas.ring = some (seq, rb) → seq < 2 ^ 32 → rb.length ≤ 0x1FF8 → s.ringSlot seq + 8192 ≤ 2 ^ 25 →
      (s.ringFaulty = false → ∃ w, exec (.ringWriteDone true) s = .next w ∧ w.meas.ring = none ∧ w.meas.last = 1 ∧
        w.meas.closing = (s.meas.closing && s.meas.queue != []) ∧ w.flashDw (s.ringSlot seq + 0x1FF8) = seq * 2 ^ 32 + 0x43525856 ∧
        (∀ k, k < rb.length → w.flashByte (s.ringSlot seq + k) = rb.getD k 0) ∧
        ∀ a, a < 2 ^ 25 → a < s.ringSlot seq ∨ s.ringSlot seq + 8192 ≤ a → w.flashByte a = s.flashByte a) ∧
      (∀ ok, ok = false ∨ s.ringFaulty = true → ∃ w, exec (.ringWriteDone ok) s = .next w ∧ w.meas.ring = none ∧ w.meas.last = 3 ∧
        w.meas.priorRing = true ∧ w.fp.ringRuns = false ∧
        ∀ a, a < 2 ^ 25 → a < s.ringSlot seq ∨ s.ringSlot seq + 8192 ≤ a → w.flashByte a = s.flashByte a))

/-- R273 to R275, R280, R283, R284, R296 to R298, R300 to R305: the interface and its sessions are enabled and disabled; doorbell lines are
read when due or kicked; a turn of service reads a command in; failed accesses fault sessions; a notice is written; items enter a receive,
and LINGER ends it. -/
def Obligations.HostSessions : Prop :=
  ∀ (s : State),
    s.clk.mainRst = false →
    (∀ v : Word,
      let basesOk := s.host.dbSet = true ∧ s.host.stSet = true ∧ meets (s.base64 0x20008) 8192 (s.base64 0x20010) 16384 = false
      (s.hiEn = false → v.getLsbD 31 = true → basesOk → ∃ w, exec (.hiCtl v) s = .next w ∧ w.reg 0x20000 = 0x80000000 ∧
        ∀ o, o ≠ 0x20000 → w.reg o = s.reg o) ∧
      (s.hiEn = false → v.getLsbD 31 = true → ¬ basesOk → ∃ w, exec (.hiCtl v) s = .next w ∧ w.regs = s.regs ∧
        bits w.frz.reason 0 16 = 0x0713) ∧
      (s.hiEn = true → v.getLsbD 31 = false → (s.host.sess.all fun x => x.2.st == .free) = true → ∃ w, exec (.hiCtl v) s = .next w ∧
        w.reg 0x20000 = 0) ∧
      (s.hiEn = true → v.getLsbD 31 = false → (s.host.sess.all fun x => x.2.st == .free) = false → ∃ w, exec (.hiCtl v) s = .next w ∧
        w.regs = s.regs ∧ bits w.frz.reason 0 16 = 0x0716)) ∧
    (∀ (k : Fin 1024) (v : Word),
      let off := sesOff k
      let x := s.ses k
      let set := s.setReg off (v &&& 0x401F1F00)
      (s.bit off 31 = false →
        (set.sesBar k = none → ∃ w, exec (.sessionEnable k v) s = .next w ∧ w.reg off = (v &&& 0x401F1F00) ||| 0x80000000 ∧
          (w.ses k).st = .ready ∧ (w.ses k).cmds = [] ∧ (w.ses k).ctail = 0 ∧ (w.ses k).quiesced = false) ∧
        (∀ code, set.sesBar k = some code → ∃ w, exec (.sessionEnable k v) s = .next w ∧ w.reg off = v &&& 0x401F1F00 ∧ w.host = s.host ∧
          bits w.frz.reason 0 16 = code % 65536)) ∧
      (s.bit off 31 = true → x.st ≠ .free → x.st ≠ .quiescing → ∃ w, exec (.sessionDisable k v) s = .next w ∧
        w.reg off = s.reg off &&& 0x7FFFFFFF ∧ (w.ses k).st = .quiescing ∧
        (w.ses k).cmds = x.cmds.filter (fun c => c.started && c.opcode != 0x11)) ∧
      (x.st = .quiescing → x.cmds = [] → ∃ w, exec (.sessionQuiesced k) s = .next w ∧ (w.ses k).st = .free ∧ (w.ses k).quiesced = true) ∧
      (∀ timeout : Bool, x.live = true → ∃ w, exec (.hostAccessFail (.session k) timeout) s = .next w ∧ (w.ses k).st = .faulted ∧
        (w.ses k).fault = 0x0740 ∧ w.regs = s.regs) ∧
      (s.hiEn = true → x.st ≠ .free → x.st ≠ .faulted → ∃ w, exec (.kick k) s = .next w ∧ (w.group (k / 8)).interval = s.pollMin ∧
        (s.groupLive (k / 8) = true → k.val / 8 ∈ w.host.kicks) ∧ w.host.sess = s.host.sess) ∧
      (s.hiEn = false ∨ x.st = .free ∨ x.st = .faulted → exec (.kick k) s = .next s) ∧
      (∀ l : List Byte, s.hiEn = true → s.turnNext = some k.val → s.nextCmd k = none →
        let c := cmdOf l ((s.cdt (hdr l 10 2 % 4096)).kind == 2)
        let room := x.st ≠ .closing ∧ c.slots ≤ x.posted ∧ c.need + (if k = 0 then 128 else 0) ≤ s.freeSlots k
        (¬ room → ∃ w, exec (.serviceTurn k l) s = .next w ∧ w.host.sess = s.host.sess ∧ w.host.mem = s.host.mem) ∧
        (room → ∃ w, exec (.serviceTurn k l) s = .next w ∧ (w.ses k).chead = (x.chead + c.slots) % 2 ^ 24 ∧
          (x.cmds = [] → (k = 0 ∨ (s.ses 0).cmds = []) → c.bad = false → knownOp c.opcode = true → c.opcode ≠ 2 →
            (w.ses k).cmds = [c] ∧ (w.ses k).rsv = x.rsv + c.need)))) ∧
    (∀ g : Fin 128, s.mayRead = true → s.nextRead = some g.val →
      let grp := s.group g
      (∃ w, exec (.doorbellPoll g none) s = .next w ∧ w.host.lastRead = some s.clk.tb ∧
        (w.group g).interval = min (2 * grp.interval) s.pollMax ∧
        ∀ i, i < 8 → (s.ses (8 * g + i)).live = true → (w.ses (8 * g + i)).st = .faulted ∧ (w.ses (8 * g + i)).fault = 0x0740) ∧
      ∀ l : List DWord, ∃ w, exec (.doorbellPoll g (some l)) s = .next w ∧ w.host.lastRead = some s.clk.tb ∧
        (w.group g).interval = (if (List.range 8).any fun i => (s.ses (8 * g + i)).seq != bits (nth 0 l i) 48 16 then s.pollMin
          else min (2 * grp.interval) s.pollMax) ∧
        ∀ i, i < 8 →
          let e := nth 0 l i
          let y := s.ses (8 * g + i)
          let z := w.ses (8 * g + i)
          z.seq = bits e 48 16 ∧
          (y.live = true → cntSub (bits e 0 24) y.chead ≤ s.cmdSlots (8 * g + i) → cntSub y.rtail (bits e 24 24) ≤ s.rspSlots (8 * g + i) →
            z.ctail = bits e 0 24 ∧ z.rhead = bits e 24 24 ∧ z.st = y.st) ∧
          (y.live = true → s.cmdSlots (8 * g + i) < cntSub (bits e 0 24) y.chead → z.st = .faulted ∧ z.fault = 0x0741)) ∧
    (∀ x r, s.host.notices = x :: r → (s.ses 0).live = true →
      (s.noticeOk x = false → ∃ w, exec .noticeWrite s = .next w ∧ w.host.notices = r ∧ w.host.mem = s.host.mem) ∧
      (s.noticeOk x = true → x.code ≠ 0x8003 → slotsOf x.payload.length ≤ s.freeSlots 0 →
        ∃ w, exec .noticeWrite s = .next w ∧ w.host.notices = r ∧ w.host.noticeLost = false ∧ w.host.mem = (s.putRsp 0 {
          opcode := x.code
          flags := 1 + 4 * b2n s.host.noticeLost
          result := x.result
          payload := x.payload }).host.mem)) ∧
    (∀ (d : Fin 4096) k i c, s.running = true → s.recvFront d = some (k, i, c) →
      (∀ b, s.cdtItem d = some b → (s.cdt d).dir ≠ 0 → s.attached d = true → s.lingered k c = false →
        c.data.length + b.length ≤ hdr c.args 16 2 →
        let c1 := { c with
          data := c.data ++ b
          items := c.items + 1
          first := if c.items = 0 then s.clk.tb else c.first
          lost := c.lost || ((s.cdt d).kind == 2 && decide (0 < (s.cdt d).lost)) }
        s.recvFull k ((s.cdt d).kind == 2) c1 = false →
        ∃ w, exec (.conduitItem d) s = .next w ∧ (w.ses k).cmds = (s.ses k).cmds.set i c1 ∧
          ((s.cdt d).kind = 1 → let q := chanKey (s.cdt d).span ((s.cdt d).unit / 4) ((s.cdt d).unit % 4)
            (w.chan q).outF = (s.chan q).outF.drop 1)) ∧
      ((s.ses k).cmds = [c] → (s.ses k).live = true → (k = 0 ∨ (s.ses 0).cmds = []) → c.items ≠ 0 → c.first + s.linger k c ≤ s.clk.tb →
        ∃ w, exec (.recvLinger d) s = .next w ∧ s.answers w k c c.taken))

/-- R281, R283 to R296, R366: what a command does that starts alone in its session: NOP, SESSION_OPEN and SESSION_CLOSE, CANCEL, CDT_SEND,
CDT_RECV, CDT_BIND and CDT_UNBIND, REC_CLOSE and REC_READ, MOR_READ, MEM_WRITE and MEM_READ, each with its response. -/
def Obligations.HostCommands : Prop :=
  ∀ (s : State) (k : Fin 1024) (c : Cmd),
    s.starts k c →
    let x := s.ses k
    let fails := fun (w : State) code => s.answers w k c {
      opcode := 0
      status := code }
    let done := fun (w : State) l => s.answers w k c {
      opcode := 0
      result := l }
    let opened := x.st = .opened
    let admin := k = 0 ∧ x.st = .opened
    let named := s.cdt c.conduit
    (opened → c.opcode = 0 → ∃ w, exec (.nopCommand k) s = .next w ∧ done w [] ∧ w.regs = s.regs ∧
      let a := s.base64 (sesOff k + 0x10) + x.rtail % s.rspSlots k * 64
      let st := s.base64 0x20010 + 16 * k
      let l := leBytes 2 0 ++ leBytes 1 1 ++ leBytes 1 0 ++ leBytes 4 c.tag ++ leBytes 2 0 ++ leBytes 2 0 ++ leBytes 2 c.conduit ++ leBytes 2 0 ++
        leBytes 8 (if x.feat.testBit 10 then s.clk.tb else 0) ++ leBytes 40 0
      (a + 64 ≤ st ∨ st + 16 ≤ a) → ∀ i, i < 64 → tabGet 0 w.host.mem (a + i) = l.getD i 0) ∧
    (x.st = .ready → c.opcode = 0 → ∃ w, exec (.nopCommand k) s = .next w ∧ fails w 0x0702) ∧
    (x.st = .ready → c.opcode = 1 →
      let v := versions.find? fun v => decide (hdr c.args 16 2 ≤ v) && decide (v ≤ hdr c.args 18 2)
      (∀ ver, v = some ver → ∃ w, exec (.sessionOpen k) s = .next w ∧ (w.ses k).st = .opened ∧ (w.ses k).ver = ver ∧
        (w.ses k).feat = hdr c.args 24 8 &&& offerOf (k.val == 0) ver ∧ (w.ses k).cmds = []) ∧
      (v = none → ∃ w, exec (.sessionOpen k) s = .next w ∧ (w.ses k).st = .ready ∧ s.answers w k c {
        opcode := 0
        status := 0x0701
        result := leBytes 2 0x0304 ++ leBytes 2 0x0200 })) ∧
    (x.st = .closing → c.opcode = 2 → ∃ w, exec (.sessionClose k) s = .next w ∧ done w [] ∧ (w.ses k).st = .ready ∧ (w.ses k).ver = 0 ∧
      (w.ses k).feat = 0) ∧
    (opened → c.opcode = 3 → ∃ w, exec (.cancel k) s = .next w ∧ done w (leBytes 2 0)) ∧
    (opened → c.opcode = 0x10 →
      (∀ code, s.cdtBar k 0 c = some code → ∃ w, exec (.cdtSend k) s = .next w ∧ s.answers w k c {
        opcode := 0
        status := code
        result := leBytes 4 0 }) ∧
      (s.cdtBar k 0 c = none → named.kind = 0 → s.endTakes c.conduit named.span named.unit = true →
        let e := named.span * 128 + named.unit
        (s.chEnd e).buf.length < 8 → c.plen = 4 → c.lost = false → c.done = 0 → c.sent = [] → ∃ w r, exec (.cdtSend k) s = .next w ∧
          done w (leBytes 4 1) ∧ (w.chEnd e).buf = (s.chEnd e).buf ++ [(BitVec.ofNat 32 (leNat (c.payload.take 4)), true, r)])) ∧
    (opened → c.opcode = 0x11 →
      (∀ code, s.cdtBar k 1 c = some code → ∃ w, exec (.cdtRecv k) s = .next w ∧ fails w code) ∧
      (s.cdtBar k 1 c = none → ∃ w, exec (.cdtRecv k) s = .next w ∧ (w.ses k).cmds = [{ c with started := true }] ∧ w.host.mem = s.host.mem)) ∧
    (opened → k ≠ 0 → ∀ cmd, (cmd, c.opcode) ∈ [(Instr.cdtBind k, 0x20), (.cdtUnbind k, 0x21), (.recClose k, 0x30), (.recRead k, 0x31),
      (.morRead k, 0x32), (.memWrite k, 0x40), (.memRead k, 0x41)] → ∃ w, exec cmd s = .next w ∧ fails w 0x0704) ∧
    (admin →
      (c.opcode = 0x20 →
        let own := s.bindOwner c.conduit (bindOf c.args)
        (∀ code d, own = some (code, d) → ∃ w, exec (.cdtBind k) s = .next w ∧ fails w code ∧ w.host.cdts = s.host.cdts ∧
          w.frz.reasonDetail = d) ∧
        (∀ code, own = none → s.bindBar c.args = some code → ∃ w, exec (.cdtBind k) s = .next w ∧ fails w code ∧
          w.host.cdts = s.host.cdts) ∧
        (own = none → s.bindBar c.args = none → ∃ w, exec (.cdtBind k) s = .next w ∧ done w [] ∧ w.cdt c.conduit = bindOf c.args ∧
          ∀ d, d ≠ c.conduit → w.cdt d = s.cdt d)) ∧
      (c.opcode = 0x21 →
        (named.bound = false → ∃ w, exec (.cdtUnbind k) s = .next w ∧ fails w 0x0721) ∧
        (named.bound = true → s.sending c.conduit = false → (∀ y, y ∈ (s.ses named.session).cmds → y.opcode = 0x11 → y.conduit ≠ c.conduit) →
          ∃ w, exec (.cdtUnbind k) s = .next w ∧ done w (leBytes 2 0) ∧ w.cdt c.conduit = {} ∧ ∀ d, d ≠ c.conduit → w.cdt d = s.cdt d)) ∧
      (s.has 0 1 = true → c.opcode = 0x30 →
        (s.meas.closing = true → ∃ w, exec (.recClose k) s = .next w ∧ fails w 0x0B03) ∧
        (s.meas.closing = false → ∃ w, exec (.recClose k) s = .next w ∧ (w.ses k).cmds = [{ c with started := true }] ∧
          w.meas.closePend = true)) ∧
      (s.has 0 1 = true → c.opcode = 0x31 →
        (∀ rb, s.ringRec (hdr c.args 16 4) = some rb → ∃ w, exec (.recRead k) s = .next w ∧ s.answers w k c {
          opcode := 0
          result := leBytes 4 (hdr c.args 16 4) ++ leBytes 2 rb.length ++ leBytes 1 (hdr c.args 20 1)
          payload := recFrag rb (hdr c.args 20 1) }) ∧
        (s.ringRec (hdr c.args 16 4) = none → ∃ w, exec (.recRead k) s = .next w ∧ fails w 0x0B04)) ∧
      (s.has 0 8 = true → c.opcode = 0x32 →
        let l := (s.mor.log.filter fun e => decide (hdr c.args 16 4 ≤ e.1)).take (hdr c.args 20 1)
        let ack := if hdr c.args 21 1 = 1 then max s.mor.ack (min (hdr c.args 24 4) s.mor.next) else s.mor.ack
        ∃ w, exec (.morRead k) s = .next w ∧ w.mor.log = s.mor.log ∧ w.mor.ack = ack ∧ s.answers w k c {
          opcode := 0
          result := leBytes 4 ((l.head?.map (·.1)).getD (hdr c.args 16 4)) ++ leBytes 2 l.length ++ leBytes 2 0 ++ leBytes 4 s.morOldest
            ++ leBytes 4 s.mor.next ++ leBytes 4 ack
          payload := l.flatMap fun e => e.2.bytes }) ∧
      (c.opcode = 0x40 → s.has 0 (if countBelow ((hdr c.args 16 2).testBit ·) 16 = 1 then 3 else 9) = false →
        ∃ w, exec (.memWrite k) s = .next w ∧ fails w 0x0703 ∧ w.mem = s.mem) ∧
      (s.has 0 3 = true → c.opcode = 0x40 → ∀ n : Fin 16, hdr c.args 16 2 = 2 ^ n.val → c.payload.length = c.plen → c.plen % 8 = 0 → c.plen ≠ 0 →
        let a := hdr c.args 20 4
        (rangeBad a c.plen = true → ∃ w, exec (.memWrite k) s = .next w ∧ fails w 0x0731 ∧ w.mem = s.mem) ∧
        (rangeBad a c.plen = false → s.inRst n = true → ∃ w, exec (.memWrite k) s = .next w ∧ w.mem = s.mem ∧ s.answers w k c {
          opcode := 0
          status := 0x0730
          parts := 2 ^ n.val
          done := 0
          result := leBytes 2 0x0730 }) ∧
        (rangeBad a c.plen = false → s.inRst n = false → ∃ w, exec (.memWrite k) s = .next w ∧ s.answers w k c {
            opcode := 0
            parts := 2 ^ n.val
            done := 2 ^ n.val
            result := leBytes 2 0 } ∧
          (∀ i, i < c.plen → w.memByte n (a + i) = c.payload.getD i 0) ∧
          ∀ m b, b < 2 ^ 20 → (m ≠ n.val ∨ b < a ∨ a + c.plen ≤ b) → w.memByte m b = s.memByte m b)) ∧
      (s.has 0 3 = true → c.opcode = 0x41 →
        let n := hdr c.args 16 1
        let a := hdr c.args 20 4
        let len := hdr c.args 24 2
        (rangeBad a len = true → ∃ w, exec (.memRead k) s = .next w ∧ fails w 0x0731) ∧
        (rangeBad a len = false → s.inRst n = true → ∃ w, exec (.memRead k) s = .next w ∧ fails w 0x0730) ∧
        (rangeBad a len = false → s.inRst n = false → s.upset = [] → len % 8 = 0 → ∃ w, exec (.memRead k) s = .next w ∧ w.mem = s.mem ∧
          s.answers w k c {
            opcode := 0
            payload := (List.range len).map fun i => s.memByte n (a + i) })))

/-- R9, R11, R31, R310 to R320, R323 to R325, R466: a register write reaches a live or a staged word. The Firn lock is claimed and released.
CHECK, COMMIT and DISCARD start under the lock and on an idle controller; the check ends in CHECK_OK, a refusal, PERSIST or a choice of F;
at F, or once the drain ends, everything staged is live at once; SYNC and DISCARD copy the live words back. -/
def Obligations.WritesAndFreeze : Prop :=
  ∀ (s : State),
    s.clk.mainRst = false →
    let z := s.frz
    let now := s.clk.tb
    let y := s.readFirn
    let live := fun (w : State) => ∀ o, o ≠ 0x50030 → w.reg o = if o ∈ y.dirtyWords then y.after o else y.reg o
    let aborted := fun (u w : State) code => w.frz.st = .idle ∧ w.frz.last = .aborted ∧ w.frz.lastCode = code ∧ w.regs = u.regs ∧
      w.staged = u.staged ∧ w.frz.aborted = satInc 0xFFFF z.aborted ∧ bits w.frz.reason 0 16 = code % 65536
    let armed := fun (u w : State) f => w.frz.st = .armed ∧ w.frz.tick = f ∧ w.staged = u.staged ∧ w.reg 0x108 = BitVec.ofNat 32 f ∧
      w.reg 0x10C = BitVec.ofNat 32 (f / 2 ^ 32)
    (∀ (src : Src) (v : Word), s.portShut src = false →
      let free := z.holder = 0 ∨ z.holder = srcCode src
      (∀ off width, width ≠ 4 ∨ off % 4 ≠ 0 ∨ 0x200000 ≤ off →
        exec (.registerWrite src off v width) s = .next { s with spErr := true }) ∧
      (∀ off, off % 4 = 0 → off < 0x200000 → s.offInRst off = true → exec (.registerWrite src off v 4) s = .next { s with spErr := true }) ∧
      (∀ off, off % 4 = 0 → off < 0x200000 → s.offInRst off = false → regAt off = none →
        exec (.registerWrite src off v 4) s = .next { s with spErr := false }) ∧
      (∃ w, exec (.registerWrite src 0x108 v 4) s = .next w ∧ w.reg 0x108 = v ∧ w.spErr = false ∧ ∀ o, o ≠ 0x108 → w.reg o = s.reg o) ∧
      (∀ (n : Fin 16) (k : Fin 8), s.inRst n = false →
        let off := tmOff n k + 4
        (s.firnBar src = none → ∃ w, exec (.registerWrite src off v 4) s = .next w ∧ w.stg off = v ∧ (∀ o, w.reg o = s.reg o) ∧
          (v ≠ s.stg off → off ∈ w.dirty) ∧ ∀ o, o ≠ off → w.stg o = s.stg o) ∧
        (∀ code, s.firnBar src = some code → v ≠ s.stg off → ∃ w, exec (.registerWrite src off v 4) s = .next w ∧ w.staged = s.staged ∧
          (∀ o, w.reg o = s.reg o) ∧ bits w.frz.reason 0 16 = code % 65536)) ∧
      exec (.firnClaim src) s = .next (if z.holder = 0 then { s with frz := { z with holder := srcCode src } } else s) ∧
      exec (.firnRelease src) s = .next (if z.holder = srcCode src then { s with frz := { z with holder := 0 } } else s) ∧
      (bits v 29 3 = 0 → ∀ c, c ∈ [Instr.freezeCheck src v, .freezeCommit src v, .freezeDiscard src v] →
        (¬ free → ∃ w, exec c s = .next w ∧ w.frz.st = z.st ∧ bits w.frz.reason 0 16 = 0x0101) ∧
        (free → z.st ≠ .idle → ∃ w, exec c s = .next w ∧ w.frz.st = z.st ∧ bits w.frz.reason 0 16 = 0x0102)) ∧
      (bits v 29 3 = 0 → free → z.st = .idle →
        (∃ w, exec (.freezeCheck src v) s = .next w ∧ w.frz.st = .checking ∧ w.frz.commit = false ∧ w.frz.who = src ∧ w.staged = s.staged ∧
          w.frz.ctl = BitVec.ofNat 3 (bits v 0 3)) ∧
        ((v.getLsbD 2 = true → s.casc.master = true) → ∃ w, exec (.freezeCommit src v) s = .next w ∧ w.frz.st = .checking ∧
          w.frz.commit = true ∧ w.frz.who = src ∧ w.frz.cascade = v.getLsbD 2 ∧ w.frz.drain = v.getLsbD 1 ∧ w.frz.atF = v.getLsbD 0) ∧
        (∃ w, exec (.freezeDiscard src v) s = .next w ∧ w.frz.st = .sync ∧ w.frz.discard = true))) ∧
    (z.st = .checking →
      let u := s.readStaged
      (∀ code d, u.freezeBar = some (code, d) → ∃ w, exec .checkDone s = .next w ∧ w.frz.st = .idle ∧ w.frz.last = .checkFail ∧
        w.frz.lastCode = code ∧ w.frz.reasonDetail = d ∧ w.regs = u.regs) ∧
      (u.freezeBar = none → z.commit = false → ∃ w, exec .checkDone s = .next w ∧ w.frz.st = .idle ∧ w.frz.last = .checkOk ∧ w.regs = u.regs) ∧
      (u.freezeBar = none → z.commit = true → u.charges = [] → z.cascade = false →
        (z.atF = false → ∃ w, exec .checkDone s = .next w ∧ armed u w (now + 256)) ∧
        (z.atF = true →
          (s.frzTick < now + 256 ∨ now + 2 ^ 32 < s.frzTick → ∃ w, exec .checkDone s = .next w ∧ aborted u w 0x0103) ∧
          (now + 256 ≤ s.frzTick → s.frzTick ≤ now + 2 ^ 32 → ∃ w, exec .checkDone s = .next w ∧ armed u w s.frzTick))) ∧
      (u.freezeBar = none → z.commit = true → u.charges ≠ [] →
        (z.atF = true ∨ z.drain = true ∨ z.cascade = true → ∃ w, exec .checkDone s = .next w ∧ aborted u w 0x0803) ∧
        (z.atF = false → z.drain = false → z.cascade = false → ∃ w, exec .checkDone s = .next w ∧ w.frz.st = .persist ∧
          w.frz.charged = u.charges ∧ w.regs = u.regs))) ∧
    (z.st = .persist →
      (z.atF = false → ∀ k, z.charged = [k] → ∃ w, exec (.persistDone true) s = .next w ∧ armed s w (now + 256) ∧ w.pfUsed k = s.pfUsed k + 1 ∧
        ∀ j, j ≠ k → w.pfUsed j = s.pfUsed j) ∧
      (∃ w, exec (.persistDone false) s = .next w ∧ aborted s w 0x0802)) ∧
    (z.st = .armed →
      (now < z.tick ∨ s.readyAt z.tick = false → exec .freezeApply s = .next s) ∧
      (z.tick ≤ now → s.readyAt z.tick = true →
        ((z.drain = true ∧ s.casc.frz = none) → ∃ w, exec .freezeApply s = .next w ∧ w.frz.st = .draining ∧ w.regs = s.regs) ∧
        (¬ (z.drain = true ∧ s.casc.frz = none) → ∃ w, exec .freezeApply s = .next w ∧ live w ∧ w.frz.st = .sync ∧
          w.frz.discard = false ∧ w.frz.lastTick = (if s.clk.lfMode then now else z.tick) ∧ w.frz.applied = satInc 0xFFFF z.applied))) ∧
    (z.st = .draining → s.casc.frz = none →
      (s.drainOver = true → ∃ w, exec .freezeDrainDone s = .next w ∧ live w ∧ w.frz.st = .sync ∧ w.frz.lastTick = s.drainEnd) ∧
      (s.drainOver = false → exec .freezeDrainDone s = .next s) ∧
      (s.drainLate = true → ∃ w, exec .drainLimit s = .next w ∧ aborted s w 0x0507) ∧
      (s.drainLate = false → exec .drainLimit s = .next s)) ∧
    (z.st = .sync →
      (z.discard = false → ∃ w, exec .freezeSyncDone s = .next w ∧ w.frz.st = .idle ∧ w.frz.last = .applied ∧ w.staged = s.regs ∧ w.dirty = [] ∧
        w.regs = s.regs) ∧
      (z.discard = true → ∃ w, exec .discardDone s = .next w ∧ w.frz.st = .idle ∧ w.frz.last = z.last ∧ w.staged = s.regs ∧ w.dirty = [] ∧
        w.regs = s.regs))

/-- R351, R358, R361, R362, R365, R357, R416 to R418, R421 to R429: the recorder writes its oldest entry 16 ticks after the last one, after a SEAL
where a block begins; alarms are filtered, latched, cleared and tested; a wipe ends; the backup ring takes entries and gives them up to
BK_ACK, and latches alarms on backup. -/
def Obligations.RecorderAndAlarms : Prop :=
  ∀ (s : State),
    let m := s.mor
    let tb := s.clk.tb
    (s.clk.mainRst = false →
      (∀ e r, m.queue = e :: r → (∀ t, m.lastWrite = some t → t + 16 ≤ tb) → m.waiting = [] → m.since = [] → m.next < 2 ^ 32 →
        let x := { s.snapped e with sev := morSev e.code }
        (m.next % 64 ≠ 0 → ∃ w, exec .moraineEntry s = .next w ∧ w.mor.queue = r ∧ w.mor.next = (m.next + 1) % 2 ^ 32 ∧
          w.mor.lastWrite = some tb ∧ tabGet {} w.mor.log m.next = { x with seq := m.next } ∧
          ∀ q, q ≠ m.next → tabGet {} w.mor.log q = tabGet {} m.log q) ∧
        (m.next % 64 = 0 → m.blocks.length < 128 → ∃ w, exec .moraineEntry s = .next w ∧ w.mor.queue = r ∧ w.mor.next = (m.next + 2) % 2 ^ 32 ∧
          tabGet {} w.mor.log m.next = { sealEntry tb m.chain with seq := m.next } ∧
          tabGet {} w.mor.log (m.next + 1) = { x with seq := m.next + 1 })) ∧
      (∀ t, m.lastWrite = some t → tb < t + 16 → exec .moraineEntry s = .next s) ∧
      (∀ code : Fin 4096, ∃ w, exec (.tokenRefill code) s = .next w ∧ w.mor.log = m.log ∧ w.mor.queue = m.queue ∧
        let p := 2 ^ s.fld (morTrgOff code) 8 6
        tabGet 0 w.mor.spent code = tabGet 0 m.spent code - (tb / p - tabGet 0 m.refill code / p) ∧ tabGet 0 w.mor.refill code = tb) ∧
      (∀ v : Word, ∃ w, exec (.morAck v) s = .next w ∧ w.mor.ack = max m.ack (min v.toNat m.next) ∧ w.mor.log = m.log) ∧
      (∀ (k : Fin 8) (levels : BitVec 8), s.bit (almOff k) 31 = true → (∀ j : Fin 8, j ≠ k → s.bit (almOff j) 31 = false) → s.alm.test = none →
        s.alm.lastSmp ≠ some s.sampleKey → s.clk.lfMode = true ∨ tb % 8 = 0 → ∃ w, exec (.alarmSample levels) s = .next w ∧
          w.alm.lastSmp = some s.sampleKey ∧
          let a := s.alarm k
          let stands := a.opened && decide (tb < a.start + s.fld (almOff k + 4) 3 21 * 8)
          let count := (if stands then a.count else 0) + 1
          let latches := decide (max 1 (s.fld (almOff k) 16 8) ≤ count) && !a.latched
          (levels.getLsbD k = false → (w.alarm k).latched = a.latched ∧ (stands = true → w.alarm k = a) ∧ w.bk = s.bk) ∧
          (levels.getLsbD k = true → (w.alarm k).count = count ∧ (w.alarm k).start = (if stands then a.start else tb) ∧
            (w.alarm k).latched = (a.latched || latches) ∧
            (latches = true → (w.alarm k).latches = satInc 0xFFFF a.latches ∧
              ∃ b7 arg, w.bk.queue = s.bk.queue ++ [(s.clk.lf, 0x10 + k.val, b7, arg)]) ∧
            (latches = false → w.bk = s.bk))) ∧
      (∀ k : Fin 8, ∃ w, exec (.alarmClear k) s = .next w ∧ (∀ j : Fin 8, j ≠ k → w.alarm j = s.alarm j) ∧ w.alarm k = { s.alarm k with
        opened := false
        count := 0
        latched := false }) ∧
      (∀ v : Word, v.getLsbD 31 = true → s.alm.test = none → ∃ w, exec (.alarmTest v) s = .next w ∧ w.alm.test = some (bits v 0 3, tb) ∧
        (w.alarm (bits v 0 3)).pass = false) ∧
      (∀ k t, s.alm.test = some (k, t) →
        (tb < t + 1280 → exec .alarmTestEnd s = .next s) ∧
        (t + 1280 ≤ tb → ∃ w, exec .alarmTestEnd s = .next w ∧ w.alm.test = none ∧ (w.alarm k).opened = false ∧ (w.alarm k).count = 0 ∧
          (w.alarm k).latched = (s.alarm k).latched ∧ (w.alarm k).pass = (s.alarm k).pass)) ∧
      (∀ x, s.alm.wipe = some x →
        (x.all = false → ∃ w, exec .wipeDone s = .next w ∧ w.alm.wipe = none ∧ (∀ n, n < 16 → (w.core n).wiping = 0) ∧ w.mem = s.mem) ∧
        (x.all = true → ∃ w, exec .wipeDone s = .next w ∧ w.clk.mainRst = true ∧ w.clk.cause = 4)) ∧
      (∀ v : Word, ∃ w, exec (.bkAck v) s = .next w ∧ w.bk.lost = 0 ∧ w.bk.ring = s.bk.ring ∧ w.bk.head = s.bk.head ∧
        let d := (bits v 0 16 + 65536 - s.bk.ack) % 65536
        w.bk.ack = (s.bk.ack + min d ((s.bk.head + 65536 - s.bk.ack) % 65536)) % 65536)) ∧
    (∀ t, s.alm.keyErase = some t →
      (t ≤ s.clk.lf → exec .keyEraseEnd s = .next { s with alm := { s.alm with keyErase := none } }) ∧
      (s.clk.lf < t → exec .keyEraseEnd s = .next s)) ∧
    (s.clk.backupRst = false →
      (∀ lf b6 b7 arg r, s.bk.queue = (lf, b6, b7, arg) :: r → ∃ w, exec .backupRingWrite s = .next w ∧ w.bk.queue = r ∧
        let full := 32 ≤ (s.bk.head + 65536 - s.bk.ack) % 65536
        let q := if full then (s.bk.head + 65535) % 65536 else s.bk.head
        w.bk.head = (if full then s.bk.head else (s.bk.head + 1) % 65536) ∧
        w.bk.lost = (if full then satInc 0xFFFF s.bk.lost else s.bk.lost) ∧
        tabGet 0 w.bk.ring (q % 32) = BitVec.ofNat 128 (lf % 2 ^ 48 + b6 * 2 ^ 48 + b7 * 2 ^ 56 + q * 2 ^ 64 + s.bk.lost * 2 ^ 80 + arg * 2 ^ 96) ∧
        ∀ i, i ≠ q % 32 → tabGet 0 w.bk.ring i = tabGet 0 s.bk.ring i) ∧
      (∀ levels : BitVec 8, s.clk.pok = false → s.bk.smpAt ≠ some s.clk.lf → ∃ w, exec (.backupAlarmSample levels) s = .next w ∧
        w.bk.prev = levels ∧ w.bk.smpAt = some s.clk.lf ∧
        ∀ k, k < 8 → w.bk.latch.getLsbD k =
          (s.bk.latch.getLsbD k || (s.bk.almen.getLsbD k && s.bk.prev.getLsbD k && levels.getLsbD k))))

/-- R171, R174, R181, R397, R410, R412, R413, R436: the watchdog notice of Serac is enabled on an input end of its kind; a scan keeps the
cycles it finds. An option write is checked, begun and ended; readout protection is raised and lowered; a transaction with the surroundings
that times out faults what it served. -/
def Obligations.OptionsAndTimeouts : Prop :=
  ∀ (s : State),
    (s.clk.mainRst = false →
      (∀ (src : Src) (n : Fin 16) (v : Word), s.portShut src = false → s.inRst n = false → s.bit (spanOff n 0x380) 31 = false →
        let ok := s.endMine n (bits v 20 4) (bits v 0 7) false && cheKind (s.reg (cheOff n (bits v 0 7))) == 3
        ∃ w, exec (.seracWdEnable src n v) s = .next w ∧ (∀ o, o ≠ spanOff n 0x380 → w.reg o = s.reg o) ∧
          (ok = true → w.reg (spanOff n 0x380) = (v &&& 0x60F0007F) ||| 0x80000000) ∧
          (ok = false → w.reg (spanOff n 0x380) = v &&& 0x60F0007F ∧ bits w.frz.reason 0 16 = 0x0126)) ∧
      (∀ v : Word, bits v 16 16 = 0x4F50 → v.getLsbD 0 = true → s.optn.writing = none →
        let good := s.optSourceRead.1 && optMagic s.optSource && optFieldsOk s.optSource
        (1 ≤ s.optn.level → ∃ w, exec (.optionWrite v) s = .next w ∧ w.optn.code = 0x0A02 ∧ w.optn.done = true ∧ w.optn.writing = none ∧
          w.opt = s.opt) ∧
        (s.optn.level = 0 → good = false → ∃ w, exec (.optionWrite v) s = .next w ∧ w.optn.code = 0x0A01 ∧ w.optn.done = true ∧
          w.optn.writing = none ∧ w.opt = s.opt) ∧
        (s.optn.level = 0 → good = true → ∃ w, exec (.optionWrite v) s = .next w ∧ w.optn.done = false ∧
          w.optn.writing = some (s.optSource ++ sha384Bytes s.optSource ++ leBytes 8 0))) ∧
      (∀ v : Word, bits v 16 16 ≠ 0x4F50 → exec (.optionWrite v) s = .next s) ∧
      (∀ l, s.optn.writing = some l →
        (∃ w, exec (.optionWriteDone true) s = .next w ∧ w.optn.writing = none ∧ w.optn.done = true ∧ w.optn.code = 0 ∧
          (∀ i, i < 896 → w.optByte i = l.getD i 0) ∧ ∀ i, 0x2000 ≤ i → w.optByte i = s.optByte i) ∧
        (∃ w, exec (.optionWriteDone false) s = .next w ∧ w.optn.writing = none ∧ w.optn.done = true ∧ w.optn.code = 0x0A07 ∧
          ∀ i, 0x2000 ≤ i → w.optByte i = s.optByte i)) ∧
      (∀ v : Word, bits v 16 16 = 0x5244 → s.optn.changing = none → bits v 0 2 ≠ 3 →
        (s.optn.level < bits v 0 2 →
          (s.oa2Free.isSome = true → ∃ w, exec (.rdpRaise v) s = .next w ∧ w.optn.changing = some (bits v 0 2, false) ∧ w.mem = s.mem) ∧
          (s.oa2Free = none → ∃ w, exec (.rdpRaise v) s = .next w ∧ w.optn = s.optn ∧ bits w.frz.reason 0 16 = 0x0801) ∧
          exec (.rdpLower v) s = .next s) ∧
        (bits v 0 2 < s.optn.level →
          (s.pfUsed 4 < 8 → s.oa2Free.isSome = true →
            ∃ w, exec (.rdpLower v) s = .next w ∧
              (s.free.getLsbD 0 = false → w.optn.changing = some (bits v 0 2, true) ∧
                ∀ n, n < 16 → (w.core n).inRst = true ∧ (w.core n).rstEnd = none) ∧
              (s.free.getLsbD 0 = true → w.optn = s.optn ∧ bits w.frz.reason 0 16 = 0x0A07)) ∧
          (8 ≤ s.pfUsed 4 → ∃ w, exec (.rdpLower v) s = .next w ∧ w.optn = s.optn ∧ bits w.frz.reason 0 16 = 0x0801) ∧
          exec (.rdpRaise v) s = .next s)) ∧
      (∀ l lower, s.optn.changing = some (l, lower) → s.fp.q = [] → s.meas.ring = none → s.optn.writing = none →
        ∃ w, exec .rdpChangeDone s = .next w ∧ w.clk.mainRst = true ∧ w.clk.cause = 6 ∧
          (lower = true → w.flash = [] ∧ w.mem = []) ∧ (lower = false → w.flash = s.flash ∧ w.mem = s.drainSpans.mem)) ∧
      (∀ k : Fin 1024, (s.ses k).live = true → ∃ w, exec (.ifaceTimeout (.systemPort (.session k))) s = .next w ∧
        (w.ses k).st = .faulted ∧ (w.ses k).fault = 0x0740) ∧
      (∀ b : Fin 4, s.bankBusy b = false → (∀ o, o ∈ s.fp.q → o.touches b = false) → (∀ g, g < 256 → (s.thr g).park = none) →
        ∃ w, exec (.ifaceTimeout (.flash b)) s = .next w ∧ (∀ j, j < 4 → w.fp.fault.getLsbD j = (s.fp.fault.getLsbD j || j == b.val)) ∧ w.flash = s.flash ∧ w.threads = s.threads) ∧
      (∀ (n t : Fin 16) p, (s.thr (gthr n t)).setup = some p → p.store.isSome = true → ∃ w, exec (.ifaceTimeout (.setupAccess n t)) s = .next w ∧
        (w.thr (gthr n t)).setup = none ∧ (w.thr (gthr n t)).a = (s.thr (gthr n t)).a ∧ w.regs = s.regs ∧
          ∃ r, (r, LandW.fl 0x20 0x20) ∈ (w.thr (gthr n t)).land) ∧
      (s.meas.closing = true → s.meas.ring = none → s.meas.queue ≠ [] → ∃ w, exec (.ifaceTimeout .keyPort) s = .next w ∧
        w.meas.closing = false ∧ w.meas.last = 2 ∧ w.meas.queue = s.meas.queue)) ∧
    (s.running = true → s.clk.tb % 1024 = 0 → s.src.lastScan ≠ some s.clk.tb → s.boot.done = true → ∃ w, exec .seracScan s = .next w ∧
      w.src.lastScan = some s.clk.tb ∧ w.src.found = s.cycles ∧ (s.cycles = [] → w.src.count = s.src.count)) ∧
    (s.clk.tb % 1024 ≠ 0 → exec .seracScan s = .next s)

/-- R371 to R374, R380, R381, R386, R387: a port of the cascade is enabled, brought up, reset by each cause and released; it sends CREDIT and HELLO
frames when they are due, settles its pair at a HELLO, takes and returns credits; SYNC pulses are sent, captured and measured, and TB repeats
or skips a value at a correction. -/
def Obligations.LinkPorts : Prop :=
  ∀ (s : State) (p : Fin 4),
    let x := s.lport p
    let tb := s.clk.tb
    let off := lpOff p
    let ver := s.reg (off + 4)
    let roled := s.casc.role = 1 ∨ s.casc.role = 2
    let reset := fun (w : State) => (w.lport p).st = 0 ∧ (w.lport p).rstEnd = some (tb + 64) ∧ (w.lport p).resets = satInc 0xFFFF x.resets ∧
      (w.lport p).tx = [] ∧ (w.lport p).lo = 1 ∧ (w.lport p).hi = 0
    let sent := fun (w : State) => ∃ f, (w.lport p).out = x.out ++ [f] ∧ (w.lport p).tx = [] ∧ (w.lport p).lastTx = tb
    (s.clk.mainRst = false →
      (∀ v : Word, s.bit off 31 = false →
        let range := linkVer (bits ver 0 16) (bits ver 16 16) 0 0xFFFF
        (range = none → ∃ w, exec (.linkPortEnable p v) s = .next w ∧ w.regs = s.regs ∧ bits w.frz.reason 0 16 = 0x0902) ∧
        (range ≠ none → x.rstEnd = none → roled → ∃ w, exec (.linkPortEnable p v) s = .next w ∧ w.reg off = 0x80000000 ∧
          (w.lport p).st = if x.phy then 2 else 1)) ∧
      (s.bit off 31 = true → ∃ w, exec (.linkReset p .en) s = .next w ∧ w.reg off = 0 ∧ reset w) ∧
      (2 ≤ x.st → ∃ w, exec (.linkReset p .frame) s = .next w ∧ reset w ∧ (w.lport p).crcErr = satInc 0xFFFF x.crcErr) ∧
      (x.st < 2 → exec (.linkReset p .frame) s = .next s) ∧
      (x.phy = true → s.bit off 31 = true → x.rstEnd = none → 2 ≤ x.st → ∃ w, exec (.phyUp p false) s = .next w ∧ (w.lport p).phy = false ∧ reset w) ∧
      (x.phy = false → s.bit off 31 = true → x.rstEnd = none → x.st = 1 → roled → ∃ w, exec (.phyUp p true) s = .next w ∧
        (w.lport p).phy = true ∧ (w.lport p).st = 2) ∧
      (∀ t, x.rstEnd = some t → s.bit off 31 = true → x.phy = true → roled →
        (tb < t → exec (.linkResetRelease p) s = .next s) ∧
        (t ≤ tb → ∃ w, exec (.linkResetRelease p) s = .next w ∧ (w.lport p).st = 2 ∧ (w.lport p).rstEnd = none ∧ (w.lport p).lastRx = tb)) ∧
      (2 ≤ x.st → x.lastRx + 32768 ≤ tb → ∃ w, exec (.linkSilence p) s = .next w ∧ reset w) ∧
      (tb < x.lastRx + 32768 → exec (.linkSilence p) s = .next s) ∧
      (1 ≤ x.st → s.funcOf 0 (2 * p + 1) = 14 → ∃ w, exec (.sbAliveLow p) s = .next w ∧ reset w) ∧
      (2 ≤ x.st → x.tx = [] → x.lastTx + 4096 ≤ tb → s.casc.node < 4096 → ∃ w, exec (.linkKeepalive p) s = .next w ∧ sent w) ∧
      (tb < x.lastTx + 4096 → exec (.linkKeepalive p) s = .next s) ∧
      (x.st = 2 → x.tx = [] → tabGet 0 x.cred 0 ≤ 28 → (∀ t, x.lastHello = some t → t + 1024 ≤ tb) → s.casc.node < 4096 →
        ∃ w, exec (.helloSend p) s = .next w ∧ sent w ∧ (w.lport p).lastHello = some tb) ∧
      (2 ≤ x.st → x.tx = [] → x.freed ≠ [] → ((x.freed.any fun q => decide (8 ≤ q.2)) = true ∨ x.freedAt + 64 ≤ tb) →
        s.casc.node < 4096 → ∃ w, exec (.creditReturn p) s = .next w ∧ sent w ∧ (w.lport p).freed = []) ∧
      (x.syncs = true → s.syncPin p = true → s.clk.lfMode = false → tb % 65536 = 0 → (tb / 65536 % 2 = 1 ↔ x.st = 4) → x.pulse ≠ some tb →
        ∃ w, exec (.syncPulse p) s = .next w ∧ (w.lport p).pulse = some tb ∧ tabGet 0 w.sideband (2 * p) = tb + 16) ∧
      (tb % 65536 ≠ 0 → exec (.syncPulse p) s = .next s) ∧
      (x.syncs = true → s.syncPin p = true → (s.ieMask 0).getLsbD (2 * p) = true → s.clk.lfMode = false →
        ∃ w, exec (.syncCapture p) s = .next w ∧ (w.lport p).capt = some tb ∧ (w.lport p).st = x.st)) ∧
    (∀ f : Frame, s.hears 1 p f → x.st = 2 ∨ x.st = 3 ∨ x.st = 6 →
      let b := f.b 0
      let pair := linkVer (bits ver 0 16) (bits ver 16 16) (bits b 0 16) (bits b 16 16)
      ∃ w, exec (.hello p f) s = .next w ∧ (w.lport p).lastRx = tb ∧
        (pair = none → (w.lport p).st = 9) ∧
        (∀ v, pair = some v → (w.lport p).lver = v ∧ (w.lport p).st =
          (if s.casc.rooted then (if b.getLsbD 32 then (if bits (f.b 1) 0 32 = s.casc.tag then 8 else 7) else 6) else 3))) ∧
    (∀ f : Frame, s.hears 5 p f → x.tx = [] → ∃ w, exec (.credit p f) s = .next w ∧ (w.lport p).lastRx = tb ∧ (w.lport p).st = x.st ∧
      ∀ c, c < 3 → tabGet 0 (w.lport p).cred c = tabGet 0 x.cred c - f.arg / 2 ^ (8 * c) % 256) ∧
    (∀ f : Frame, s.hears 6 p f → x.st = 4 →
      (f.arg.testBit 29 = false → ∃ w, exec (.sync p f) s = .next w ∧ (w.lport p).st = 3 ∧ w.casc.rooted = false ∧ w.casc.assigned = false) ∧
      (f.arg.testBit 29 = true → ∀ c q, x.capt = some c → x.pulse = some q → ∃ w, exec (.sync p f) s = .next w ∧
        w.casc.delta = syncDelta c (f.b 1).toNat (f.b 0).toNat q ∧ w.casc.lastMeas = some tb ∧ w.casc.corrDone = 0)) ∧
    (∀ (f : Frame) (c : Instr × Nat), c ∈ [(Instr.hello p f, 1), (.assign p f, 2), (.done p f, 3), (.refuse p f, 4), (.credit p f, 5),
        (.sync p f, 6)] → s.clk.mainRst = false → 2 ≤ x.st → f.typ = c.2 → f.ok = false → ∃ w, exec c.1 s = .next w ∧ reset w) ∧
    (s.running = true → s.casc.corrDue tb = true →
      let c := s.casc
      (0 < c.corrLeft → ∃ w, exec .timeCorrection s = .next w ∧ w.clk.tb = tb % 2 ^ 64 ∧ w.casc.repeats = satInc 0xFFFF c.repeats ∧
        w.casc.corrLeft = c.corrLeft - 1 ∧ w.casc.skips = c.skips) ∧
      (c.corrLeft < 0 → ∃ w, exec .timeCorrection s = .next w ∧ w.clk.tb = (tb + 2) % 2 ^ 64 ∧ w.casc.skips = satInc 0xFFFF c.skips ∧
        w.casc.corrLeft = c.corrLeft + 1 ∧ w.casc.repeats = c.repeats))

/-- R376 to R379, R383, R388 to R393: the frames of the tree. A sweep begins, waits for a cascade Freeze or ends; ASSIGN and DONE number
the nodes, and REFUSE turns a port away; a frame for another node goes on or is dropped; messages are delivered, refused with a NAK, settled
by an ACK, or lost; a cascade Freeze is prepared, voted, drained, committed and aborted; a close comes to a member, and a forwarded record
is asked for, granted and acknowledged. -/
def Obligations.CascadeFrames : Prop :=
  ∀ (s : State) (p : Fin 4) (f : Frame),
    let x := s.lport p
    let c := s.casc
    let tb := s.clk.tb
    let id := f.arg / 2 ^ 10 % 65536
    let kind := f.arg / 2 ^ 27 % 8
    let aborted := fun (w : State) code => w.casc.frz = none ∧ w.frz.st = .idle ∧ w.frz.last = .aborted ∧ w.frz.lastCode = code
    let armed := fun (w : State) t => w.frz.st = .armed ∧ w.frz.tick = t
    let sub := fun k => s.reached 9 p f ∧ kind = k
    (s.clk.mainRst = false → c.master = true → c.sweeping = false →
      (s.cascBusy = true → ∃ w, exec .sweep s = .next w ∧ w.casc = { c with
        sweeping := true
        sweepPend := true }) ∧
      (s.cascBusy = false → (∀ q, q < 4 → s.sweepsTo q = false) → ∃ w, exec .sweep s = .next w ∧ w.casc.sweep = none ∧ w.casc.sweeping = false ∧
        w.casc.nodes = 1 ∧ w.casc.sweepSeq = (c.sweepSeq + 1) % 65536) ∧
      (s.cascBusy = false → s.sweepsTo 0 = true → ∃ w, exec .sweep s = .next w ∧ w.casc.sweeping = true ∧ w.casc.sweep = some {
        up := none
        wait := 0
        next := 1 })) ∧
    (s.hears 2 p f →
      let b := f.b 0
      let usable := x.st = 3 ∨ x.st = 4 ∨ x.st = 5 ∨ x.st = 6
      (c.master = false → usable → bits b 12 4 ≠ 0 → bits b 0 12 ≠ 0 → (c.rooted = true → p.val = c.up ∧ x.st = 4) →
        ∃ w, exec (.assign p f) s = .next w ∧ w.casc.rooted = true ∧ w.casc.assigned = true ∧ w.casc.node = bits b 0 12 ∧
          w.casc.depth = bits b 12 4 ∧ w.casc.up = p.val ∧ w.casc.tag = bits (f.b 1) 0 32 ∧ (w.lport p).st = 4) ∧
      (c.master = true → usable → ∃ w, exec (.assign p f) s = .next w ∧ w.casc.node = c.node ∧ (w.lport p).st = x.st)) ∧
    (s.hears 3 p f →
      (f.arg.testBit 29 = true → x.st = 4 → ∃ w, exec (.done p f) s = .next w ∧ w.casc.nodes = bits (f.b 0) 0 13 ∧ (w.lport p).st = 4) ∧
      (f.arg.testBit 29 = false → ∀ v, c.sweep = some v → v.wait = p.val → s.sweepsTo p = true → ∃ w, exec (.done p f) s = .next w ∧
        (w.lport p).st = 5 ∧ (w.lport p).lo = v.next ∧ (w.lport p).hi = bits (f.b 0) 0 13 - 1)) ∧
    (s.hears 4 p f →
      let code := bits (f.b 0) 0 16
      (x.st = 7 ∨ x.st = 8 → exec (.refuse p f) s = .next (s.received p f)) ∧
      (x.st ≠ 7 → x.st ≠ 8 → ∃ w, exec (.refuse p f) s = .next w ∧
        (code = 0x0901 → (w.lport p).st = 7) ∧ (code = 0x0902 → (w.lport p).st = 9) ∧ (code = 0x0903 → (w.lport p).st = 10))) ∧
    (∀ (q : Nat) (r : Instr × Nat), r ∈ [(Instr.msg p f, 7), (.ack p f, 8), (.rclose p f, 0xA), (.rfwd p f, 0xB), (.rack p f, 0xC)] →
      s.hears r.2 p f → x.carries = true → c.rooted = true → s.mayPass p f = true →
      (s.route f.dst = .port q → s.mayPass q f = true → exec r.1 s = .next ((s.received p f).enqueue q f)) ∧
      (s.route f.dst = .drop → ∃ w, exec r.1 s = .next w ∧ (w.lport p).drop = satInc 0xFFFFFFFF x.drop ∧ w.ends = s.ends ∧
        w.host = s.host)) ∧
    (s.reached 7 p f →
      let dest := f.arg / 2 ^ 12 % 4096
      let from_ := b2n (f.arg.testBit 29)
      let e := s.chEnd dest
      let u := s.received p f
      (f.arg.testBit 24 = false → s.takesFrom dest f.src from_ (f.arg % 4096) = false → f.src ≠ c.node →
        exec (.msg p f) s = .next (u.sendTo (u.ackFrame f.src true (f.arg / 2 ^ 25 % 16 + 1) from_ (f.arg % 4096)))) ∧
      (f.arg.testBit 24 = false → s.takesFrom dest f.src from_ (f.arg % 4096) = true → e.landing = [] → e.buf.length < 8 →
        f.arg / 2 ^ 25 % 16 = 0 → f.body ≠ [] → ∃ w r, exec (.msg p f) s = .next w ∧
          (w.chEnd dest).buf = e.buf ++ [((f.b 0).extractLsb' 0 32, true, r)] ∧ (w.chEnd dest).landing = []) ∧
      (f.arg.testBit 24 = true → s.cdtTakes dest f.src from_ (f.arg % 4096) = true → ∃ w, exec (.msg p f) s = .next w ∧
        (w.cdt dest).landing = (s.cdt dest).landing ++ [(unpackWords f.body).take (f.arg / 2 ^ 25 % 16 + 1)])) ∧
    (s.reached 8 p f → f.arg.testBit 24 = false → f.arg.testBit 29 = false →
      let dest := f.arg / 2 ^ 12 % 4096
      let n := f.arg / 2 ^ 25 % 16 + 1
      ∀ r, takeSent n (s.chEnd dest).sent = some r → (s.chEnd dest).store = [] → ∃ w, exec (.ack p f) s = .next w ∧ (w.chEnd dest).sent = r ∧
        (w.chEnd dest).credits = min 16 ((s.chEnd dest).credits + n)) ∧
    (∀ (n : Fin 16) (e : Fin 128) k t r,
      let i := n.val * 128 + e.val
      s.running = true → (s.chEnd i).sent = (k, t) :: r →
      (tb < t + 1048576 → exec (.msgLost (.chanEnd n e)) s = .next s) ∧
      (t + 1048576 ≤ tb → (s.chEnd i).store = [] → ∃ w, exec (.msgLost (.chanEnd n e)) s = .next w ∧ (w.chEnd i).sent = r ∧
        (w.chEnd i).credits = min 16 ((s.chEnd i).credits + k) ∧ (w.chEnd i).peerErr = true)) ∧
    (sub 0 → x.st = 4 → s.frz.st = .idle → ∃ w, exec (.cfrzPrepare p f) s = .next w ∧ w.frz.st = .voted ∧ w.casc.cfId = id ∧
      ∃ z, w.casc.frz = some z ∧ z.id = id ∧ z.up = some p.val ∧ z.own = some s.readStaged.cascVote.isNone ∧ z.at0 = tb ∧ z.drain = (f.b 1).getLsbD 32) ∧
    (sub 0 → x.st = 4 → s.frz.st ≠ .idle → ∃ w, exec (.cfrzPrepare p f) s = .next w ∧ w.frz = s.frz ∧ w.casc.frz = c.frz) ∧
    (∀ z, s.cfOf f = some z →
      (sub 1 → x.st = 5 → s.cfMissed z 1 = false → z.up = none → z.own.isSome = true → z.voted = false → z.f0 = none → z.no = none →
        (f.arg.testBit 26 = true → z.miss = [p.val] → z.drain = false → s.frz.atF = false → ∃ w, exec (.cfrzVote p f) s = .next w ∧
          armed w (max (z.at0 + 256) (tb + z.lead))) ∧
        (f.arg.testBit 26 = true → z.miss = [p.val] → z.drain = true → ∃ w z1, exec (.cfrzVote p f) s = .next w ∧ w.casc.frz = some z1 ∧
          z1.f0 = some (tb + z.lead) ∧ w.frz.st = s.frz.st) ∧
        (f.arg.testBit 26 = false → z.miss = [p.val] → ∃ w, exec (.cfrzVote p f) s = .next w ∧ aborted w 0x0910) ∧
        (f.arg.testBit 26 = true → (∃ q, q ∈ z.miss ∧ q ≠ p.val) → ∃ w, exec (.cfrzVote p f) s = .next w ∧
          w.casc.frz = some { z with miss := dropIf (· == p.val) z.miss } ∧ w.frz = s.frz)) ∧
      (sub 2 → x.st = 4 → ∃ w, exec (.cfrzDrain p f) s = .next w ∧ w.frz = s.frz ∧ w.casc.frz = some { z with
        f0 := some (f.b 0).toNat
        miss := s.downPorts }) ∧
      (sub 1 → x.st = 5 → s.cfMissed z 1 = true → ∃ w, exec (.cfrzVote p f) s = .next w ∧ aborted w 0x0911) ∧
      (sub 3 → x.st = 5 → s.cfMissed z 1 = false → z.up = none → z.miss = [p.val] → z.drained = true → z.failed = none →
        (f.arg.testBit 26 = true → ∃ w, exec (.cfrzDrained p f) s = .next w ∧ armed w (tb + z.lead)) ∧
        (f.arg.testBit 26 = false → ∃ w, exec (.cfrzDrained p f) s = .next w ∧ aborted w 0x0507)) ∧
      (sub 4 → x.st = 4 → s.frz.st = .voted → ∃ w, exec (.cfrzCommit p f) s = .next w ∧
        armed w (if tb < (f.b 0).toNat then (f.b 0).toNat else tb + 1)) ∧
      (sub 5 → x.st = 4 → ∃ w, exec (.cfrzAbort p f) s = .next w ∧ aborted w (bits (f.b 1) 16 16))) ∧
    (s.clk.mainRst = false → ∀ z, c.frz = some z → s.frz.st = .voted → z.f0 = none →
      (z.up = none → z.at0 + z.vlim ≤ tb → ∃ w, exec .cfrzVoteLimit s = .next w ∧ aborted w 0x0911) ∧
      (z.up = none → tb < z.at0 + z.vlim → exec .cfrzVoteLimit s = .next s) ∧
      (z.up.isSome = true → z.voted = true → z.no = none → z.at0 + 2 * z.vlim ≤ tb → ∃ w, exec .cfrzOrphan s = .next w ∧ aborted w 0x0911 ∧
        w.casc.orphan = some z.id)) ∧
    (s.reached 0xA p f → x.st = 4 →
      (s.meas.closeAt = none → ∃ w, exec (.rclose p f) s = .next w ∧ w.meas = { s.meas with closeAt := some (f.b 0).toNat }) ∧
      (s.meas.closeAt ≠ none → ∃ w, exec (.rclose p f) s = .next w ∧ w.meas = s.meas)) ∧
    (s.reached 0xB p f → c.master = true → f.arg.testBit 29 = false → ∃ w g, exec (.rfwd p f) s = .next w ∧ g ∈ w.casc.fwds ∧ g.node = f.src ∧
      g.data = []) ∧
    (s.reached 0xC p f → ∀ rb, c.fwdRec = some rb →
      (f.arg.testBit 29 = true → recSeq rb = bits (f.b 0) 0 32 → ∃ w, exec (.rack p f) s = .next w ∧ w.casc.fwdRec = none) ∧
      (f.arg.testBit 29 = false → exec (.rack p f) s = .next (sendRec 0 (rb.length / 64 + 1) rb (s.received p f))))

/-- R438 to R446: a debug command with none running. It halts, resumes and steps threads and Clove channels, aborts a held message, and
halts and resumes the device; it ends with its RESULT, or runs on as BUSY. DBG_TREG reaches the registers of a thread the debugger holds,
and DBG_MEM the memory of a Span outside SECRET_MAP, both open to every requester the port lets in. DBG_RESET takes its key. The TAP
shifts out IDCODE and BYPASS; DBGACC reads and writes the setup window as the protection level allows. (RESULT 1 for a Span in reset, log
entry 17, and IDCODE after a TAP reset are the model's choices.) -/
def Obligations.DebugAndTap : Prop :=
  ∀ (s : State),
    s.clk.mainRst = false →
    let ended := fun (w : State) (r : Nat) => w.dbg.busy = none ∧ w.dbg.done = true ∧ w.dbg.result = r
    let runs := fun (w : State) => w.dbg.busy.isSome = true ∧ w.dbg.done = false
    (s.dbg.busy = none →
      (∀ n t : Fin 16,
        let g := gthr n t
        (s.inRst n = true → ∀ c ∈ [Instr.halt n t, .resume n t, .step n t], ∃ w, exec c s = .next w ∧ ended w 1 ∧ w.threads = s.threads) ∧
        (s.inRst n = false →
          (∃ w, exec (.halt n t) s = .next w ∧ ended w 0 ∧ (w.thr g).st = .halted ∧ (w.thr g).a = (s.thr g).a ∧
            (w.thr g).fl = (s.thr g).fl ∧ ((s.thr g).st = .halted → w.threads = s.threads) ∧
            ((s.thr g).st ≠ .halted → (w.thr g).haltCause = 1 ∧ (w.thr g).before = (s.thr g).st) ∧ ∀ j, j ≠ g → w.thr j = s.thr j) ∧
          (s.dbgHeld g = false → ∀ c ∈ [Instr.resume n t, .step n t], ∃ w, exec c s = .next w ∧ ended w 1 ∧ w.threads = s.threads) ∧
          (s.dbgHeld g = true →
            (∃ w, exec (.resume n t) s = .next w ∧ ended w 0 ∧ (w.thr g).haltCause = 0 ∧ (w.thr g).a = (s.thr g).a ∧
              ((s.thr g).before ≠ .idle ∨ (s.thr g).wakeable = false → (w.thr g).st = (s.thr g).before) ∧
              ∀ j, j ≠ g → w.thr j = s.thr j) ∧
            ∃ w, exec (.step n t) s = .next w ∧ runs w ∧ (w.thr g).stepping = true ∧ (w.thr g).haltCause = 0 ∧ ∀ j, j ≠ g → w.thr j = s.thr j))) ∧
      (∀ (n : Fin 16) (e : Fin 128), s.inRst n = false →
        let k := n.val * 128 + e.val
        (s.abortBar n e = true → ∃ w, exec (.abortMsg n e) s = .next w ∧ ended w 1 ∧ w.ends = s.ends) ∧
        (s.abortBar n e = false → ∃ w, exec (.abortMsg n e) s = .next w ∧ ended w 0 ∧ (w.chEnd k).aborted = true ∧ (w.chEnd k).staged = [] ∧
          ∀ j, j ≠ k → w.chEnd j = s.chEnd j)) ∧
      (∀ (n : Fin 16) (e : Fin 12) (c : Fin 4), s.inRst n = false →
        let k := chanKey n e c
        let ch := s.chan k
        let on := s.chnEn n e c && !ch.stopping
        let halted := ch.flags.getLsbD 11
        (on = false → ∀ q ∈ [Instr.ceHalt n e c, .ceResume n e c, .ceStep n e c], ∃ w, exec q s = .next w ∧ ended w 1 ∧ w.chans = s.chans) ∧
        (on = true → halted = true → (∃ w, exec (.ceHalt n e c) s = .next w ∧ ended w 0 ∧ w.chans = s.chans) ∧
          (∃ w, exec (.ceResume n e c) s = .next w ∧ ended w 0 ∧ (∀ j, j ≠ k → w.chan j = s.chan j) ∧ w.chan k = { ch with
            flags := ch.flags &&& ~~~0x800
            dbgStep := false }) ∧
          ∃ w, exec (.ceStep n e c) s = .next w ∧ runs w ∧ (∀ j, j ≠ k → w.chan j = s.chan j) ∧ w.chan k = { ch with
            flags := ch.flags &&& ~~~0x800
            dbgStep := true }) ∧
        (on = true → halted = false →
          (∃ w, exec (.ceHalt n e c) s = .next w ∧ runs w ∧ w.chan k = { ch with dbgHalt := true } ∧ ∀ j, j ≠ k → w.chan j = s.chan j) ∧
          ∀ q ∈ [Instr.ceResume n e c, .ceStep n e c], ∃ w, exec q s = .next w ∧ ended w 1 ∧ w.chans = s.chans)) ∧
      (∃ w, exec .devHalt s = .next w ∧ ended w s.devHaltBar ∧ w.dbg.devHalt = (s.devHaltBar == 0 || s.dbg.devHalt) ∧
        ∀ g : Fin 256, (w.thr g).st = (s.thr g).st) ∧
      (s.dbg.devHalt = false → ∃ w, exec .devResume s = .next w ∧ ended w 1 ∧ w.threads = s.threads) ∧
      (s.dbg.devHalt = true →
        (s.clk.lfMode = true → ∃ w, exec .devResume s = .next w ∧ runs w ∧ w.dbg.resuming = true ∧ w.dbg.devHalt = true) ∧
        (s.clk.lfMode = false → ∃ w, exec .devResume s = .next w ∧ ended w 0 ∧ w.dbg.devHalt = false))) ∧
    (s.bit 0x80000 30 = true → s.funcOf 0 8 = 14 → (s.ieMask 0).getLsbD 8 = true → s.devHaltBar = 0 → ∃ w, exec .dbgXtrigIn s = .next w ∧ w.dbg.devHalt = true ∧
      ∀ g : Fin 256, (w.thr g).st = (s.thr g).st) ∧
    (s.bit 0x80000 30 = false → exec .dbgXtrigIn s = .next s) ∧
    (∀ src : Src, s.portShut src = false →
      let g := s.tregThr
      (s.dbgHeld g = true → (s.tregSel = 0x20 →
          (∀ v, ∃ w, exec (.dbgTregData src (some v)) s = .next w ∧ (w.thr g).a = v ∧ w.dbg.tregErr = false ∧ ∀ j, j ≠ g → w.thr j = s.thr j) ∧
          ∃ w, exec (.dbgTregData src none) s = .next w ∧ w.spRdata = (s.thr g).settleAll.a ∧ w.spErr = false ∧ w.dbg.tregErr = false) ∧
        (s.tregSel = 0x23 → ∀ v, ∃ w, exec (.dbgTregData src (some v)) s = .next w ∧ (w.thr g).pc = v &&& ~~~1 ∧ w.dbg.tregErr = false)) ∧
      (s.dbgHeld g = false →
        (∀ v, ∃ w, exec (.dbgTregData src (some v)) s = .next w ∧ w.dbg.tregErr = true ∧ w.threads = s.threads) ∧
        ∃ w, exec (.dbgTregData src none) s = .next w ∧ w.dbg.tregErr = true ∧ w.spRdata = 0 ∧ w.threads = s.threads) ∧
      let m := s.dmSpan
      let a := s.dmAddr
      let up := tabGet 0 s.upset (upKey 0 (spanGran m a))
      (∀ v, ∃ w, exec (.dbgMemLo src (some v)) s = .next w ∧ w.dbg.memLo = v ∧ w.mem = s.mem) ∧
      (∃ w, exec (.dbgMemHi src none) s = .next w ∧ w.spRdata = s.dbg.memHi ∧ w.mem = s.mem) ∧
      (s.dmSecret = true →
        (∃ w, exec (.dbgMemLo src none) s = .next w ∧ w.spRdata = 0 ∧ w.dbg.memErr = true ∧ w.dbg.memHi = s.dbg.memHi) ∧
        ∀ v, ∃ w, exec (.dbgMemHi src (some v)) s = .next w ∧ w.dbg.memErr = true ∧ w.mem = s.mem ∧ w.cores = s.cores) ∧
      (s.dmSecret = false → s.inRst m = false →
        (up < 2 → ∃ w, exec (.dbgMemLo src none) s = .next w ∧ w.dbg.memErr = false ∧ w.spRdata = BitVec.ofNat 32 (s.memRead m a 8) ∧
          w.dbg.memHi = BitVec.ofNat 32 (s.memRead m a 8 / 2 ^ 32)) ∧
        (2 ≤ up → ∃ w, exec (.dbgMemLo src none) s = .next w ∧ w.dbg.memErr = true ∧ w.mem = s.mem) ∧
        ∀ v, ∃ w, exec (.dbgMemHi src (some v)) s = .next w ∧ w.dbg.memErr = false ∧
          w.memRead m a 8 = s.dbg.memLo.toNat + v.toNat * 2 ^ 32 ∧
          (∀ (n : Fin 16) (b : Nat), b < 2 ^ 20 → n.val ≠ m ∨ b < a ∨ a + 8 ≤ b → w.memByte n b = s.memByte n b) ∧
          (s.bit 0x80030 31 = true → w.dmAddr = (a + 8) % 2 ^ 20) ∧ (s.bit 0x80030 31 = false → w.dmAddr = a))) ∧
    (∀ v : Word, (bits v 16 16 = 0x4D52 → v.getLsbD 0 = true → ∃ w, exec (.dbgReset v) s = .next w ∧ w.clk.mainRst = true ∧ w.clk.cause = 5) ∧
      (bits v 16 16 = 0x4D52 → v.getLsbD 0 = false → exec (.dbgReset v) s = .next s) ∧
      (bits v 16 16 ≠ 0x4D52 → ∃ w, exec (.dbgReset v) s = .next w ∧ w.clk = s.clk ∧ w.regs = s.regs ∧ w.threads = s.threads)) ∧
    (∃ w, exec .idcode s = .next w ∧ w.dbg.ir = 1 ∧ w.dbg.dr = 0x25616DCB) ∧
    (∃ w, exec .bypass s = .next w ∧ w.dbg.ir = 0xF ∧ w.dbg.dr = 0) ∧
    (∃ w, exec .tapReset s = .next w ∧ w.dbg = { s.dbg with
      ir := 1
      dr := 0
      accErr := false
      accOff := 0
      accData := 0 } ∧ w.threads = s.threads) ∧
    (∀ dr : BitVec 52,
      (2 ≤ s.optn.level → ∃ w, exec (.dbgacc dr) s = .next w ∧ w.dbg.ir = 0xF ∧ w.dbg.dr = 0 ∧ w.regs = s.regs ∧ w.threads = s.threads) ∧
      (s.optn.level = 1 → tapBarred (dr.getLsbD 51) (bits dr 32 19 * 4) = true → ∃ w, exec (.dbgacc dr) s = .next w ∧ w.dbg.ir = 8 ∧
        w.dbg.accErr = true ∧ w.dbg.accData = 0 ∧ w.dbg.accOff = bits dr 32 19 ∧ w.regs = s.regs ∧ w.threads = s.threads) ∧
      (s.optn.level < 2 → bits dr 32 19 = 0x42 →
        (dr.getLsbD 51 = true → ∃ w, exec (.dbgacc dr) s = .next w ∧ w.dbg.ir = 8 ∧ w.dbg.dr = s.capture ∧ w.dbg.accErr = false ∧ w.dbg.accOff = 0x42 ∧
          w.dbg.accData = 0 ∧ w.reg 0x108 = dr.truncate 32 ∧ ∀ o, o ≠ 0x108 → w.reg o = s.reg o) ∧
        (dr.getLsbD 51 = false → ∃ w, exec (.dbgacc dr) s = .next w ∧ w.dbg.ir = 8 ∧ w.dbg.dr = s.capture ∧ w.dbg.accErr = false ∧ w.dbg.accOff = 0x42 ∧
          w.dbg.accData = s.reg 0x108 ∧ w.regs = s.regs)))
end

