-- ==== Sys2Proof/Laws/Flags.lean ====
section
/-! SUPPORT. What the flag computations of the Strand instruction set say, as arithmetic on numbers. -/
namespace Sys2Proof.Machine
theorem mk_flags (t h v n z c : Bool) : flT (mkFlags t h v n z c) = t ∧ flH (mkFlags t h v n z c) = h ∧ flV (mkFlags t h v n z c) = v ∧
    flN (mkFlags t h v n z c) = n ∧ flZ (mkFlags t h v n z c) = z ∧ flC (mkFlags t h v n z c) = c := by
  revert t h v n z c; decide
/-! A masked write of the flags, flag by flag. -/

@[simp] theorem flC_mask (old v m : BitVec 6) : flC ((old &&& ~~~m) ||| (v &&& m)) = if flC m then flC v else flC old := by
  simp only [flC, BitVec.getLsbD_or, BitVec.getLsbD_and, BitVec.getLsbD_not]
  by_cases h : m[0] = true <;> simp [h]

@[simp] theorem flZ_mask (old v m : BitVec 6) : flZ ((old &&& ~~~m) ||| (v &&& m)) = if flZ m then flZ v else flZ old := by
  simp only [flZ, BitVec.getLsbD_or, BitVec.getLsbD_and, BitVec.getLsbD_not]
  by_cases h : m[1] = true <;> simp [h]

@[simp] theorem flN_mask (old v m : BitVec 6) : flN ((old &&& ~~~m) ||| (v &&& m)) = if flN m then flN v else flN old := by
  simp only [flN, BitVec.getLsbD_or, BitVec.getLsbD_and, BitVec.getLsbD_not]
  by_cases h : m[2] = true <;> simp [h]

@[simp] theorem flV_mask (old v m : BitVec 6) : flV ((old &&& ~~~m) ||| (v &&& m)) = if flV m then flV v else flV old := by
  simp only [flV, BitVec.getLsbD_or, BitVec.getLsbD_and, BitVec.getLsbD_not]
  by_cases h : m[3] = true <;> simp [h]

@[simp] theorem flH_mask (old v m : BitVec 6) : flH ((old &&& ~~~m) ||| (v &&& m)) = if flH m then flH v else flH old := by
  simp only [flH, BitVec.getLsbD_or, BitVec.getLsbD_and, BitVec.getLsbD_not]
  by_cases h : m[4] = true <;> simp [h]

@[simp] theorem flT_mask (old v m : BitVec 6) : flT ((old &&& ~~~m) ||| (v &&& m)) = if flT m then flT v else flT old := by
  simp only [flT, BitVec.getLsbD_or, BitVec.getLsbD_and, BitVec.getLsbD_not]
  by_cases h : m[5] = true <;> simp [h]

/-! The flags that a mask names. -/

@[simp] theorem flC_mNZ : flC mNZ = false := (rfl)
@[simp] theorem flC_mNZC : flC mNZC = true := (rfl)
@[simp] theorem flC_mNZCV : flC mNZCV = true := (rfl)
@[simp] theorem flC_mNZCVH : flC mNZCVH = true := (rfl)
@[simp] theorem flC_mNZV : flC mNZV = false := (rfl)
@[simp] theorem flC_mT : flC mT = false := (rfl)
@[simp] theorem flZ_mNZ : flZ mNZ = true := (rfl)
@[simp] theorem flZ_mNZC : flZ mNZC = true := (rfl)
@[simp] theorem flZ_mNZCV : flZ mNZCV = true := (rfl)
@[simp] theorem flZ_mNZCVH : flZ mNZCVH = true := (rfl)
@[simp] theorem flZ_mNZV : flZ mNZV = true := (rfl)
@[simp] theorem flZ_mT : flZ mT = false := (rfl)
@[simp] theorem flN_mNZ : flN mNZ = true := (rfl)
@[simp] theorem flN_mNZC : flN mNZC = true := (rfl)
@[simp] theorem flN_mNZCV : flN mNZCV = true := (rfl)
@[simp] theorem flN_mNZCVH : flN mNZCVH = true := (rfl)
@[simp] theorem flN_mNZV : flN mNZV = true := (rfl)
@[simp] theorem flN_mT : flN mT = false := (rfl)
@[simp] theorem flV_mNZ : flV mNZ = false := (rfl)
@[simp] theorem flV_mNZC : flV mNZC = false := (rfl)
@[simp] theorem flV_mNZCV : flV mNZCV = true := (rfl)
@[simp] theorem flV_mNZCVH : flV mNZCVH = true := (rfl)
@[simp] theorem flV_mNZV : flV mNZV = true := (rfl)
@[simp] theorem flV_mT : flV mT = false := (rfl)
@[simp] theorem flH_mNZ : flH mNZ = false := (rfl)
@[simp] theorem flH_mNZC : flH mNZC = false := (rfl)
@[simp] theorem flH_mNZCV : flH mNZCV = false := (rfl)
@[simp] theorem flH_mNZCVH : flH mNZCVH = true := (rfl)
@[simp] theorem flH_mNZV : flH mNZV = false := (rfl)
@[simp] theorem flH_mT : flH mT = false := (rfl)
@[simp] theorem flT_mNZ : flT mNZ = false := (rfl)
@[simp] theorem flT_mNZC : flT mNZC = false := (rfl)
@[simp] theorem flT_mNZCV : flT mNZCV = false := (rfl)
@[simp] theorem flT_mNZCVH : flT mNZCVH = false := (rfl)
@[simp] theorem flT_mNZV : flT mNZV = false := (rfl)
@[simp] theorem flT_mT : flT mT = true := (rfl)

theorem b2n_le (b : Bool) : b2n b ≤ 1 := by cases b <;> decide

/-- R133: the add forms. -/
theorem addForm_spec (a b : Word) (c : Bool) :
    (addForm a b c).val = a + b + BitVec.ofNat 32 (b2n c) ∧
    flN (addForm a b c).fl = (a + b + BitVec.ofNat 32 (b2n c)).msb ∧
    flZ (addForm a b c).fl = (a + b + BitVec.ofNat 32 (b2n c) == 0) ∧
    flC (addForm a b c).fl = decide (2 ^ 32 ≤ a.toNat + b.toNat + b2n c) ∧
    flV (addForm a b c).fl = decide ((a + b + BitVec.ofNat 32 (b2n c)).toInt ≠ a.toInt + b.toInt + (b2n c : Int)) ∧
    flH (addForm a b c).fl = decide (16 ≤ a.toNat % 16 + b.toNat % 16 + b2n c) := by
  have e : BitVec.ofNat 32 (a.toNat + b.toNat + b2n c) = a + b + BitVec.ofNat 32 (b2n c) := by
    apply BitVec.eq_of_toNat_eq; simp [BitVec.toNat_add]
  unfold addForm
  obtain ⟨-, h2, h3, h4, h5, h6⟩ := mk_flags false (decide (16 ≤ a.toNat % 16 + b.toNat % 16 + b2n c))
    (a.msb == b.msb && (a + b + BitVec.ofNat 32 (b2n c)).msb != a.msb) (a + b + BitVec.ofNat 32 (b2n c)).msb
    (a + b + BitVec.ofNat 32 (b2n c) == 0) (decide (2 ^ 32 ≤ a.toNat + b.toNat + b2n c))
  simp only [e]
  refine ⟨trivial, h4, h5, h6, ?_, h2⟩
  rw [h3, ← e]
  have := b2n_le c
  have ha := a.isLt
  have hb := b.isLt
  simp only [BitVec.msb_eq_decide, BitVec.toInt_eq_toNat_cond, BitVec.toNat_ofNat]
  rw [Bool.eq_iff_iff]
  simp only [Bool.and_eq_true, beq_iff_eq, bne_iff_ne, ne_eq, decide_eq_decide, decide_eq_true_eq]
  constructor
  · rintro ⟨h, k⟩
    split <;> split <;> split <;> omega
  · intro h
    split at h <;> split at h <;> split at h <;> omega

/-- R133: the sub forms. -/
theorem subForm_spec (a b : Word) (c : Bool) :
    (subForm a b c).val = a - b - BitVec.ofNat 32 (b2n c) ∧
    flN (subForm a b c).fl = (a - b - BitVec.ofNat 32 (b2n c)).msb ∧
    flZ (subForm a b c).fl = (a - b - BitVec.ofNat 32 (b2n c) == 0) ∧
    flC (subForm a b c).fl = decide (b.toNat + b2n c ≤ a.toNat) ∧
    flV (subForm a b c).fl = decide ((a - b - BitVec.ofNat 32 (b2n c)).toInt ≠ a.toInt - b.toInt - (b2n c : Int)) ∧
    flH (subForm a b c).fl = decide (a.toNat % 16 < b.toNat % 16 + b2n c) := by
  unfold subForm
  obtain ⟨-, h2, h3, h4, h5, h6⟩ := mk_flags false (decide (a.toNat % 16 < b.toNat % 16 + b2n c))
    (a.msb != b.msb && (a - b - BitVec.ofNat 32 (b2n c)).msb != a.msb) (a - b - BitVec.ofNat 32 (b2n c)).msb
    (a - b - BitVec.ofNat 32 (b2n c) == 0) (decide (b.toNat + b2n c ≤ a.toNat))
  refine ⟨rfl, h4, h5, h6, ?_, h2⟩
  rw [h3]
  have hc := b2n_le c
  have ha := a.isLt
  have hb := b.isLt
  simp only [BitVec.msb_eq_decide, BitVec.toInt_eq_toNat_cond, BitVec.toNat_ofNat, BitVec.toNat_sub]
  rw [Bool.eq_iff_iff]
  simp only [Bool.and_eq_true, bne_iff_ne, ne_eq, decide_eq_decide, decide_eq_true_eq]
  constructor
  · rintro ⟨h, k⟩
    split <;> split <;> split <;> omega
  · intro h
    split at h <;> split at h <;> split at h <;> omega

/-! The flags of a result that sets N and Z. -/

@[simp] theorem flN_flNZ (r : Word) : flN (flNZ r) = r.msb := (mk_flags _ _ _ _ _ _).2.2.2.1
@[simp] theorem flZ_flNZ (r : Word) : flZ (flNZ r) = (r == 0) := (mk_flags _ _ _ _ _ _).2.2.2.2.1

/-! The flags of a value that `mkFlags` builds. -/

@[simp] theorem flT_mkFlags (t h v n z c : Bool) : flT (mkFlags t h v n z c) = t := (mk_flags _ _ _ _ _ _).1
@[simp] theorem flH_mkFlags (t h v n z c : Bool) : flH (mkFlags t h v n z c) = h := (mk_flags _ _ _ _ _ _).2.1
@[simp] theorem flV_mkFlags (t h v n z c : Bool) : flV (mkFlags t h v n z c) = v := (mk_flags _ _ _ _ _ _).2.2.1
@[simp] theorem flN_mkFlags (t h v n z c : Bool) : flN (mkFlags t h v n z c) = n := (mk_flags _ _ _ _ _ _).2.2.2.1
@[simp] theorem flZ_mkFlags (t h v n z c : Bool) : flZ (mkFlags t h v n z c) = z := (mk_flags _ _ _ _ _ _).2.2.2.2.1
@[simp] theorem flC_mkFlags (t h v n z c : Bool) : flC (mkFlags t h v n z c) = c := (mk_flags _ _ _ _ _ _).2.2.2.2.2

end Sys2Proof.Machine
end

