-- ==== Sys2Proof/Laws/Tab.lean ====
section
/-! SUPPORT. The laws of numbered storage: reading after writing, and the canonical form that every write keeps. -/
namespace Sys2Proof.Machine

variable {α : Type}

theorem tabGet_tabDel_self (d : α) (k : Nat) (t : Tab α) : tabGet d (tabDel k t) k = d := by
  induction t with
  | nil => rfl
  | cons p r ih => obtain ⟨j, w⟩ := p; by_cases h : j = k <;> simp [tabDel, tabGet, h, ih]

theorem tabGet_tabDel_ne (d : α) {j k : Nat} (h : k ≠ j) (t : Tab α) : tabGet d (tabDel k t) j = tabGet d t j := by
  induction t with
  | nil => rfl
  | cons p r ih =>
    obtain ⟨i, w⟩ := p
    by_cases h1 : i = k
    · subst h1; simp [tabDel, tabGet, h, ih]
    · by_cases h2 : i = j
      · subst h2; simp [tabDel, tabGet, h1]
      · simp [tabDel, tabGet, h1, h2, ih]

theorem tabGet_tabIns_self (d : α) (k : Nat) (v : α) (t : Tab α) (h : tabGet d t k = d) (hk : ∀ w, (k, w) ∉ t) :
    tabGet d (tabIns k v t) k = v := by
  induction t with
  | nil => simp [tabIns, tabGet]
  | cons p r ih =>
    obtain ⟨i, w⟩ := p
    have hi : i ≠ k := fun e => hk w (by simp [e])
    by_cases h1 : k < i
    · simp [tabIns, tabGet, h1]
    · simp only [tabIns, h1, if_false, tabGet, hi]
      exact ih (by simpa [tabGet, hi] using h) (fun u hu => hk u (by simp [hu]))

theorem tabGet_tabIns_ne (d : α) {j k : Nat} (h : k ≠ j) (v : α) (t : Tab α) : tabGet d (tabIns k v t) j = tabGet d t j := by
  induction t with
  | nil => simp [tabIns, tabGet, h]
  | cons p r ih =>
    obtain ⟨i, w⟩ := p
    by_cases h1 : k < i
    · simp [tabIns, h1, tabGet, h]
    · by_cases h2 : i = j
      · subst h2; simp [tabIns, h1, tabGet]
      · simp [tabIns, h1, tabGet, h2, ih]

theorem not_mem_tabDel (k : Nat) (t : Tab α) (w : α) : (k, w) ∉ tabDel k t := by
  induction t with
  | nil => simp [tabDel]
  | cons p r ih =>
    obtain ⟨i, u⟩ := p
    by_cases h : i = k
    · simp [tabDel, h, ih]
    · simp only [tabDel, h, if_false, List.mem_cons, Prod.mk.injEq, not_or]
      exact ⟨fun e => h e.1.symm, ih⟩

/-- The number written reads as what was written. -/
@[simp] theorem tabGet_tabSet_self [DecidableEq α] (d : α) (t : Tab α) (k : Nat) (v : α) : tabGet d (tabSet d t k v) k = v := by
  unfold tabSet
  by_cases h : v = d
  · simp [h, tabGet_tabDel_self]
  · simp only [h, if_false]
    exact tabGet_tabIns_self d k v _ (tabGet_tabDel_self d k t) (not_mem_tabDel k t)

/-- Every other number reads as before. -/
theorem tabGet_tabSet_ne [DecidableEq α] (d : α) (t : Tab α) {j k : Nat} (h : k ≠ j) (v : α) :
    tabGet d (tabSet d t k v) j = tabGet d t j := by
  unfold tabSet
  by_cases hv : v = d
  · simp [hv, tabGet_tabDel_ne d h]
  · simp only [hv, if_false, tabGet_tabIns_ne d h, tabGet_tabDel_ne d h]

/-- A read after a write, at any number. -/
theorem tabGet_tabSet [DecidableEq α] (d : α) (t : Tab α) (j k : Nat) (v : α) :
    tabGet d (tabSet d t k v) j = if k = j then v else tabGet d t j := by
  by_cases h : k = j
  · subst h; simp
  · simp [h, tabGet_tabSet_ne d t h v]

theorem tabWfFrom_le [DecidableEq α] (d : α) {lo lo' : Nat} (h : lo' ≤ lo) (t : Tab α) :
    tabWfFrom d lo t = true → tabWfFrom d lo' t = true := by
  cases t with
  | nil => intro _; rfl
  | cons p r =>
    obtain ⟨j, v⟩ := p
    simp only [tabWfFrom, Bool.and_eq_true, decide_eq_true_eq]
    exact fun ⟨⟨a, b⟩, c⟩ => ⟨⟨by omega, b⟩, c⟩

theorem tabDel_wfFrom [DecidableEq α] (d : α) (k : Nat) (t : Tab α) :
    ∀ lo, tabWfFrom d lo t = true → tabWfFrom d lo (tabDel k t) = true := by
  induction t with
  | nil => intro _ h; exact h
  | cons p r ih =>
    obtain ⟨j, v⟩ := p
    intro lo h
    simp only [tabWfFrom, Bool.and_eq_true, decide_eq_true_eq] at h
    by_cases hk : j = k
    · simp only [tabDel, hk, if_true]; exact ih lo (tabWfFrom_le d (by omega) r h.2)
    · simp only [tabDel, hk, if_false, tabWfFrom, Bool.and_eq_true, decide_eq_true_eq]
      exact ⟨h.1, ih _ h.2⟩

theorem tabDrop_wfFrom [DecidableEq α] (d : α) (p : Nat → Bool) (t : Tab α) :
    ∀ lo, tabWfFrom d lo t = true → tabWfFrom d lo (tabDrop p t) = true := by
  induction t with
  | nil => intro _ h; exact h
  | cons q r ih =>
    obtain ⟨j, v⟩ := q
    intro lo h
    simp only [tabWfFrom, Bool.and_eq_true, decide_eq_true_eq] at h
    by_cases hk : p j = true
    · simp only [tabDrop, hk, if_true]; exact ih lo (tabWfFrom_le d (by omega) r h.2)
    · have e : tabDrop p ((j, v) :: r) = (j, v) :: tabDrop p r := by simp [tabDrop, hk]
      rw [e]
      simp only [tabWfFrom, Bool.and_eq_true, decide_eq_true_eq]
      exact ⟨h.1, ih _ h.2⟩

theorem tabIns_wfFrom [DecidableEq α] (d : α) (k : Nat) {v : α} (hv : v ≠ d) (t : Tab α) :
    ∀ lo, lo ≤ k → (∀ w, (k, w) ∉ t) → tabWfFrom d lo t = true → tabWfFrom d lo (tabIns k v t) = true := by
  induction t with
  | nil => intro lo hl _ _; simp [tabIns, tabWfFrom, hl, hv]
  | cons p r ih =>
    obtain ⟨j, w⟩ := p
    intro lo hl hn h
    have hj : j ≠ k := fun e => hn w (by simp [e])
    simp only [tabWfFrom, Bool.and_eq_true, decide_eq_true_eq] at h
    by_cases hk : k < j
    · simp only [tabIns, hk, if_true, tabWfFrom, Bool.and_eq_true, decide_eq_true_eq]
      exact ⟨⟨hl, hv⟩, ⟨⟨by omega, h.1.2⟩, h.2⟩⟩
    · simp only [tabIns, hk, if_false, tabWfFrom, Bool.and_eq_true, decide_eq_true_eq]
      exact ⟨h.1, ih (j + 1) (by omega) (fun u hu => hn u (by simp [hu])) h.2⟩

/-- A write keeps the canonical form. -/
theorem tabSet_wf [DecidableEq α] (d : α) (t : Tab α) (k : Nat) (v : α) (h : tabWf d t = true) : tabWf d (tabSet d t k v) = true := by
  unfold tabSet tabWf at *
  by_cases hv : v = d
  · simp only [hv, if_true]; exact tabDel_wfFrom d k t 0 h
  · simp only [hv, if_false]
    exact tabIns_wfFrom d k hv _ 0 (by omega) (not_mem_tabDel k t) (tabDel_wfFrom d k t 0 h)

/-- Dropping entries keeps the canonical form. -/
theorem tabDrop_wf [DecidableEq α] (d : α) (p : Nat → Bool) (t : Tab α) (h : tabWf d t = true) : tabWf d (tabDrop p t) = true :=
  tabDrop_wfFrom d p t 0 h

theorem tabMap_wfFrom [DecidableEq α] (d : α) (p : Nat → Bool) (f : α → α) (t : Tab α) :
    ∀ lo, tabWfFrom d lo t = true → tabWfFrom d lo (tabMap d p f t) = true := by
  induction t with
  | nil => intro _ h; exact h
  | cons q r ih =>
    obtain ⟨j, v⟩ := q
    intro lo h
    simp only [tabWfFrom, Bool.and_eq_true, decide_eq_true_eq] at h
    unfold tabMap
    repeat' split
    all_goals first
      | exact ih lo (tabWfFrom_le d (by omega) _ h.2)
      | exact tabWfFrom_le d (show lo ≤ j + 1 by omega) _ (ih (j + 1) h.2)
      | (simp only [tabWfFrom, Bool.and_eq_true, decide_eq_true_eq]
         exact ⟨⟨h.1.1, by assumption⟩, ih (j + 1) h.2⟩)
      | (simp only [tabWfFrom, Bool.and_eq_true, decide_eq_true_eq]
         exact ⟨h.1, ih (j + 1) h.2⟩)

/-- Changing the entries of a table keeps the canonical form. -/
theorem tabMap_wf [DecidableEq α] (d : α) (p : Nat → Bool) (f : α → α) (t : Tab α) (h : tabWf d t = true) :
    tabWf d (tabMap d p f t) = true := tabMap_wfFrom d p f t 0 h

theorem tabGet_of_wfFrom [DecidableEq α] (d : α) (t : Tab α) : ∀ lo j, tabWfFrom d lo t = true → j < lo → tabGet d t j = d := by
  induction t with
  | nil => intros; rfl
  | cons p r ih =>
    obtain ⟨i, v⟩ := p
    intro lo j h hj
    simp only [tabWfFrom, Bool.and_eq_true, decide_eq_true_eq] at h
    simp only [tabGet, show ¬ i = j from by omega, if_false]
    exact ih (i + 1) j h.2 (by omega)

/-- Two canonical tables that read alike at every number are the same data. -/
theorem tab_ext_from [DecidableEq α] (d : α) (t : Tab α) : ∀ lo u, tabWfFrom d lo t = true → tabWfFrom d lo u = true →
    (∀ k, tabGet d t k = tabGet d u k) → t = u := by
  induction t with
  | nil =>
    intro lo u _ hu he
    cases u with
    | nil => rfl
    | cons q r =>
      obtain ⟨j, w⟩ := q
      simp only [tabWfFrom, Bool.and_eq_true, decide_eq_true_eq] at hu
      have := he j
      simp [tabGet] at this
      exact absurd this.symm hu.1.2
  | cons p r ih =>
    obtain ⟨i, v⟩ := p
    intro lo u ht hu he
    have ht' := ht
    simp only [tabWfFrom, Bool.and_eq_true, decide_eq_true_eq] at ht
    cases u with
    | nil =>
      have := he i
      simp [tabGet] at this
      exact absurd this ht.1.2
    | cons q r' =>
      obtain ⟨j, w⟩ := q
      have hu' := hu
      simp only [tabWfFrom, Bool.and_eq_true, decide_eq_true_eq] at hu
      have hij : i = j := by
        rcases Nat.lt_trichotomy i j with h | h | h
        · have h1 := he i
          simp only [tabGet, if_true, show ¬ j = i from by omega, if_false] at h1
          rw [tabGet_of_wfFrom d r' (j + 1) i hu.2 (by omega)] at h1
          exact absurd h1 ht.1.2
        · exact h
        · have h1 := he j
          simp only [tabGet, if_true, show ¬ i = j from by omega, if_false] at h1
          rw [tabGet_of_wfFrom d r (i + 1) j ht.2 (by omega)] at h1
          exact absurd h1.symm hu.1.2
      subst hij
      have hvw : v = w := by simpa [tabGet] using he i
      subst hvw
      congr 1
      refine ih (i + 1) r' ht.2 hu.2 (fun k => ?_)
      by_cases hk : i = k
      · subst hk
        rw [tabGet_of_wfFrom d r (i + 1) i ht.2 (by omega), tabGet_of_wfFrom d r' (i + 1) i hu.2 (by omega)]
      · simpa [tabGet, hk] using he k

/-- Two canonical tables that read alike are equal. -/
theorem tab_ext [DecidableEq α] (d : α) (t u : Tab α) (ht : tabWf d t = true) (hu : tabWf d u = true)
    (he : ∀ k, tabGet d t k = tabGet d u k) : t = u := tab_ext_from d t 0 u ht hu he

end Sys2Proof.Machine
end

