-- ==== Sys2Proof/Laws/State.lean ====
section
/-! SUPPORT. What an update of one part of the state leaves alone, field by field and reader by reader, and what it changes: simp
lemmas, so that no proof unfolds a record update. -/
namespace Sys2Proof.Machine

section setReg
variable (s : State) (off : Nat) (v : Word)
@[simp] theorem State.setReg_clk : (s.setReg off v).clk = s.clk := (rfl)
@[simp] theorem State.setReg_staged : (s.setReg off v).staged = s.staged := (rfl)
@[simp] theorem State.setReg_dirty : (s.setReg off v).dirty = s.dirty := (rfl)
@[simp] theorem State.setReg_regionLive : (s.setReg off v).regionLive = s.regionLive := (rfl)
@[simp] theorem State.setReg_regionStaged : (s.setReg off v).regionStaged = s.regionStaged := (rfl)
@[simp] theorem State.setReg_cores : (s.setReg off v).cores = s.cores := (rfl)
@[simp] theorem State.setReg_threads : (s.setReg off v).threads = s.threads := (rfl)
@[simp] theorem State.setReg_ports : (s.setReg off v).ports = s.ports := (rfl)
@[simp] theorem State.setReg_ends : (s.setReg off v).ends = s.ends := (rfl)
@[simp] theorem State.setReg_engines : (s.setReg off v).engines = s.engines := (rfl)
@[simp] theorem State.setReg_chans : (s.setReg off v).chans = s.chans := (rfl)
@[simp] theorem State.setReg_banks : (s.setReg off v).banks = s.banks := (rfl)
@[simp] theorem State.setReg_sideband : (s.setReg off v).sideband = s.sideband := (rfl)
@[simp] theorem State.setReg_timers : (s.setReg off v).timers = s.timers := (rfl)
@[simp] theorem State.setReg_mem : (s.setReg off v).mem = s.mem := (rfl)
@[simp] theorem State.setReg_flash : (s.setReg off v).flash = s.flash := (rfl)
@[simp] theorem State.setReg_opt : (s.setReg off v).opt = s.opt := (rfl)
@[simp] theorem State.setReg_fp : (s.setReg off v).fp = s.fp := (rfl)
@[simp] theorem State.setReg_gd : (s.setReg off v).gd = s.gd := (rfl)
@[simp] theorem State.setReg_meas : (s.setReg off v).meas = s.meas := (rfl)
@[simp] theorem State.setReg_dbg : (s.setReg off v).dbg = s.dbg := (rfl)
@[simp] theorem State.setReg_host : (s.setReg off v).host = s.host := (rfl)
@[simp] theorem State.setReg_casc : (s.setReg off v).casc = s.casc := (rfl)
@[simp] theorem State.setReg_alm : (s.setReg off v).alm = s.alm := (rfl)
@[simp] theorem State.setReg_bk : (s.setReg off v).bk = s.bk := (rfl)
@[simp] theorem State.setReg_optn : (s.setReg off v).optn = s.optn := (rfl)
@[simp] theorem State.setReg_boot : (s.setReg off v).boot = s.boot := (rfl)
@[simp] theorem State.setReg_upset : (s.setReg off v).upset = s.upset := (rfl)
@[simp] theorem State.setReg_frz : (s.setReg off v).frz = s.frz := (rfl)
@[simp] theorem State.setReg_mor : (s.setReg off v).mor = s.mor := (rfl)
@[simp] theorem State.setReg_src : (s.setReg off v).src = s.src := (rfl)
@[simp] theorem State.setReg_spRdata : (s.setReg off v).spRdata = s.spRdata := (rfl)
@[simp] theorem State.setReg_spErr : (s.setReg off v).spErr = s.spErr := (rfl)
@[simp] theorem State.setReg_freeCtr : (s.setReg off v).freeCtr = s.freeCtr := (rfl)
@[simp] theorem State.setReg_fab : (s.setReg off v).fab = s.fab := (rfl)
@[simp] theorem State.setReg_pending : (s.setReg off v).pending = s.pending := (rfl)
@[simp] theorem State.setReg_stg (o : Nat) : (s.setReg off v).stg o = s.stg o := (rfl)
@[simp] theorem State.setReg_core (i : Nat) : (s.setReg off v).core i = s.core i := (rfl)
@[simp] theorem State.setReg_thr (i : Nat) : (s.setReg off v).thr i = s.thr i := (rfl)
@[simp] theorem State.setReg_port (i : Nat) : (s.setReg off v).port i = s.port i := (rfl)
@[simp] theorem State.setReg_chEnd (i : Nat) : (s.setReg off v).chEnd i = s.chEnd i := (rfl)
@[simp] theorem State.setReg_engine (i : Nat) : (s.setReg off v).engine i = s.engine i := (rfl)
@[simp] theorem State.setReg_chan (i : Nat) : (s.setReg off v).chan i = s.chan i := (rfl)
@[simp] theorem State.setReg_bank (i : Nat) : (s.setReg off v).bank i = s.bank i := (rfl)
@[simp] theorem State.setReg_timer (i : Nat) : (s.setReg off v).timer i = s.timer i := (rfl)
@[simp] theorem State.setReg_free : (s.setReg off v).free = s.free := (rfl)
/-- A read after the write, at the place written. -/
@[simp] theorem State.setReg_reg_self : (s.setReg off v).reg off = v := by
  simp [State.setReg, State.reg]
/-- Every other place reads as before. -/
theorem State.setReg_reg_ne {j : Nat} (h : off ≠ j) : (s.setReg off v).reg j = s.reg j := by
  simp [State.setReg, State.reg, tabGet_tabSet_ne _ _ h]
end setReg

section setStg
variable (s : State) (off : Nat) (v : Word)
@[simp] theorem State.setStg_clk : (s.setStg off v).clk = s.clk := (rfl)
@[simp] theorem State.setStg_regs : (s.setStg off v).regs = s.regs := (rfl)
@[simp] theorem State.setStg_dirty : (s.setStg off v).dirty = s.dirty := (rfl)
@[simp] theorem State.setStg_regionLive : (s.setStg off v).regionLive = s.regionLive := (rfl)
@[simp] theorem State.setStg_regionStaged : (s.setStg off v).regionStaged = s.regionStaged := (rfl)
@[simp] theorem State.setStg_cores : (s.setStg off v).cores = s.cores := (rfl)
@[simp] theorem State.setStg_threads : (s.setStg off v).threads = s.threads := (rfl)
@[simp] theorem State.setStg_ports : (s.setStg off v).ports = s.ports := (rfl)
@[simp] theorem State.setStg_ends : (s.setStg off v).ends = s.ends := (rfl)
@[simp] theorem State.setStg_engines : (s.setStg off v).engines = s.engines := (rfl)
@[simp] theorem State.setStg_chans : (s.setStg off v).chans = s.chans := (rfl)
@[simp] theorem State.setStg_banks : (s.setStg off v).banks = s.banks := (rfl)
@[simp] theorem State.setStg_sideband : (s.setStg off v).sideband = s.sideband := (rfl)
@[simp] theorem State.setStg_timers : (s.setStg off v).timers = s.timers := (rfl)
@[simp] theorem State.setStg_mem : (s.setStg off v).mem = s.mem := (rfl)
@[simp] theorem State.setStg_flash : (s.setStg off v).flash = s.flash := (rfl)
@[simp] theorem State.setStg_opt : (s.setStg off v).opt = s.opt := (rfl)
@[simp] theorem State.setStg_fp : (s.setStg off v).fp = s.fp := (rfl)
@[simp] theorem State.setStg_gd : (s.setStg off v).gd = s.gd := (rfl)
@[simp] theorem State.setStg_meas : (s.setStg off v).meas = s.meas := (rfl)
@[simp] theorem State.setStg_dbg : (s.setStg off v).dbg = s.dbg := (rfl)
@[simp] theorem State.setStg_host : (s.setStg off v).host = s.host := (rfl)
@[simp] theorem State.setStg_casc : (s.setStg off v).casc = s.casc := (rfl)
@[simp] theorem State.setStg_alm : (s.setStg off v).alm = s.alm := (rfl)
@[simp] theorem State.setStg_bk : (s.setStg off v).bk = s.bk := (rfl)
@[simp] theorem State.setStg_optn : (s.setStg off v).optn = s.optn := (rfl)
@[simp] theorem State.setStg_boot : (s.setStg off v).boot = s.boot := (rfl)
@[simp] theorem State.setStg_upset : (s.setStg off v).upset = s.upset := (rfl)
@[simp] theorem State.setStg_frz : (s.setStg off v).frz = s.frz := (rfl)
@[simp] theorem State.setStg_mor : (s.setStg off v).mor = s.mor := (rfl)
@[simp] theorem State.setStg_src : (s.setStg off v).src = s.src := (rfl)
@[simp] theorem State.setStg_spRdata : (s.setStg off v).spRdata = s.spRdata := (rfl)
@[simp] theorem State.setStg_spErr : (s.setStg off v).spErr = s.spErr := (rfl)
@[simp] theorem State.setStg_freeCtr : (s.setStg off v).freeCtr = s.freeCtr := (rfl)
@[simp] theorem State.setStg_fab : (s.setStg off v).fab = s.fab := (rfl)
@[simp] theorem State.setStg_pending : (s.setStg off v).pending = s.pending := (rfl)
@[simp] theorem State.setStg_reg (o : Nat) : (s.setStg off v).reg o = s.reg o := (rfl)
@[simp] theorem State.setStg_fld (o lo len : Nat) : (s.setStg off v).fld o lo len = s.fld o lo len := (rfl)
@[simp] theorem State.setStg_bit (o i : Nat) : (s.setStg off v).bit o i = s.bit o i := (rfl)
@[simp] theorem State.setStg_core (i : Nat) : (s.setStg off v).core i = s.core i := (rfl)
@[simp] theorem State.setStg_thr (i : Nat) : (s.setStg off v).thr i = s.thr i := (rfl)
@[simp] theorem State.setStg_port (i : Nat) : (s.setStg off v).port i = s.port i := (rfl)
@[simp] theorem State.setStg_chEnd (i : Nat) : (s.setStg off v).chEnd i = s.chEnd i := (rfl)
@[simp] theorem State.setStg_engine (i : Nat) : (s.setStg off v).engine i = s.engine i := (rfl)
@[simp] theorem State.setStg_chan (i : Nat) : (s.setStg off v).chan i = s.chan i := (rfl)
@[simp] theorem State.setStg_bank (i : Nat) : (s.setStg off v).bank i = s.bank i := (rfl)
@[simp] theorem State.setStg_timer (i : Nat) : (s.setStg off v).timer i = s.timer i := (rfl)
@[simp] theorem State.setStg_free : (s.setStg off v).free = s.free := (rfl)
/-- A read after the write, at the place written. -/
@[simp] theorem State.setStg_stg_self : (s.setStg off v).stg off = v := by
  simp [State.setStg, State.stg]
/-- Every other place reads as before. -/
theorem State.setStg_stg_ne {j : Nat} (h : off ≠ j) : (s.setStg off v).stg j = s.stg j := by
  simp [State.setStg, State.stg, tabGet_tabSet_ne _ _ h]
end setStg

section setCore
variable (s : State) (n : Nat) (c : Core)
@[simp] theorem State.setCore_clk : (s.setCore n c).clk = s.clk := (rfl)
@[simp] theorem State.setCore_regs : (s.setCore n c).regs = s.regs := (rfl)
@[simp] theorem State.setCore_staged : (s.setCore n c).staged = s.staged := (rfl)
@[simp] theorem State.setCore_dirty : (s.setCore n c).dirty = s.dirty := (rfl)
@[simp] theorem State.setCore_regionLive : (s.setCore n c).regionLive = s.regionLive := (rfl)
@[simp] theorem State.setCore_regionStaged : (s.setCore n c).regionStaged = s.regionStaged := (rfl)
@[simp] theorem State.setCore_threads : (s.setCore n c).threads = s.threads := (rfl)
@[simp] theorem State.setCore_ports : (s.setCore n c).ports = s.ports := (rfl)
@[simp] theorem State.setCore_ends : (s.setCore n c).ends = s.ends := (rfl)
@[simp] theorem State.setCore_engines : (s.setCore n c).engines = s.engines := (rfl)
@[simp] theorem State.setCore_chans : (s.setCore n c).chans = s.chans := (rfl)
@[simp] theorem State.setCore_banks : (s.setCore n c).banks = s.banks := (rfl)
@[simp] theorem State.setCore_sideband : (s.setCore n c).sideband = s.sideband := (rfl)
@[simp] theorem State.setCore_timers : (s.setCore n c).timers = s.timers := (rfl)
@[simp] theorem State.setCore_mem : (s.setCore n c).mem = s.mem := (rfl)
@[simp] theorem State.setCore_flash : (s.setCore n c).flash = s.flash := (rfl)
@[simp] theorem State.setCore_opt : (s.setCore n c).opt = s.opt := (rfl)
@[simp] theorem State.setCore_fp : (s.setCore n c).fp = s.fp := (rfl)
@[simp] theorem State.setCore_gd : (s.setCore n c).gd = s.gd := (rfl)
@[simp] theorem State.setCore_meas : (s.setCore n c).meas = s.meas := (rfl)
@[simp] theorem State.setCore_dbg : (s.setCore n c).dbg = s.dbg := (rfl)
@[simp] theorem State.setCore_host : (s.setCore n c).host = s.host := (rfl)
@[simp] theorem State.setCore_casc : (s.setCore n c).casc = s.casc := (rfl)
@[simp] theorem State.setCore_alm : (s.setCore n c).alm = s.alm := (rfl)
@[simp] theorem State.setCore_bk : (s.setCore n c).bk = s.bk := (rfl)
@[simp] theorem State.setCore_optn : (s.setCore n c).optn = s.optn := (rfl)
@[simp] theorem State.setCore_boot : (s.setCore n c).boot = s.boot := (rfl)
@[simp] theorem State.setCore_upset : (s.setCore n c).upset = s.upset := (rfl)
@[simp] theorem State.setCore_frz : (s.setCore n c).frz = s.frz := (rfl)
@[simp] theorem State.setCore_mor : (s.setCore n c).mor = s.mor := (rfl)
@[simp] theorem State.setCore_src : (s.setCore n c).src = s.src := (rfl)
@[simp] theorem State.setCore_spRdata : (s.setCore n c).spRdata = s.spRdata := (rfl)
@[simp] theorem State.setCore_spErr : (s.setCore n c).spErr = s.spErr := (rfl)
@[simp] theorem State.setCore_freeCtr : (s.setCore n c).freeCtr = s.freeCtr := (rfl)
@[simp] theorem State.setCore_fab : (s.setCore n c).fab = s.fab := (rfl)
@[simp] theorem State.setCore_pending : (s.setCore n c).pending = s.pending := (rfl)
@[simp] theorem State.setCore_reg (o : Nat) : (s.setCore n c).reg o = s.reg o := (rfl)
@[simp] theorem State.setCore_fld (o lo len : Nat) : (s.setCore n c).fld o lo len = s.fld o lo len := (rfl)
@[simp] theorem State.setCore_bit (o i : Nat) : (s.setCore n c).bit o i = s.bit o i := (rfl)
@[simp] theorem State.setCore_stg (o : Nat) : (s.setCore n c).stg o = s.stg o := (rfl)
@[simp] theorem State.setCore_thr (i : Nat) : (s.setCore n c).thr i = s.thr i := (rfl)
@[simp] theorem State.setCore_port (i : Nat) : (s.setCore n c).port i = s.port i := (rfl)
@[simp] theorem State.setCore_chEnd (i : Nat) : (s.setCore n c).chEnd i = s.chEnd i := (rfl)
@[simp] theorem State.setCore_engine (i : Nat) : (s.setCore n c).engine i = s.engine i := (rfl)
@[simp] theorem State.setCore_chan (i : Nat) : (s.setCore n c).chan i = s.chan i := (rfl)
@[simp] theorem State.setCore_bank (i : Nat) : (s.setCore n c).bank i = s.bank i := (rfl)
@[simp] theorem State.setCore_timer (i : Nat) : (s.setCore n c).timer i = s.timer i := (rfl)
@[simp] theorem State.setCore_free : (s.setCore n c).free = s.free := (rfl)
/-- A read after the write, at the place written. -/
@[simp] theorem State.setCore_core_self : (s.setCore n c).core n = c := tabGet_tabSet_self _ _ _ _
/-- Every other place reads as before. -/
theorem State.setCore_core_ne {j : Nat} (h : n ≠ j) : (s.setCore n c).core j = s.core j := tabGet_tabSet_ne _ _ h _
end setCore

section setThr
variable (s : State) (g : Nat) (t : Thread)
@[simp] theorem State.setThr_clk : (s.setThr g t).clk = s.clk := (rfl)
@[simp] theorem State.setThr_regs : (s.setThr g t).regs = s.regs := (rfl)
@[simp] theorem State.setThr_staged : (s.setThr g t).staged = s.staged := (rfl)
@[simp] theorem State.setThr_dirty : (s.setThr g t).dirty = s.dirty := (rfl)
@[simp] theorem State.setThr_regionLive : (s.setThr g t).regionLive = s.regionLive := (rfl)
@[simp] theorem State.setThr_regionStaged : (s.setThr g t).regionStaged = s.regionStaged := (rfl)
@[simp] theorem State.setThr_cores : (s.setThr g t).cores = s.cores := (rfl)
@[simp] theorem State.setThr_ports : (s.setThr g t).ports = s.ports := (rfl)
@[simp] theorem State.setThr_ends : (s.setThr g t).ends = s.ends := (rfl)
@[simp] theorem State.setThr_engines : (s.setThr g t).engines = s.engines := (rfl)
@[simp] theorem State.setThr_chans : (s.setThr g t).chans = s.chans := (rfl)
@[simp] theorem State.setThr_banks : (s.setThr g t).banks = s.banks := (rfl)
@[simp] theorem State.setThr_sideband : (s.setThr g t).sideband = s.sideband := (rfl)
@[simp] theorem State.setThr_timers : (s.setThr g t).timers = s.timers := (rfl)
@[simp] theorem State.setThr_mem : (s.setThr g t).mem = s.mem := (rfl)
@[simp] theorem State.setThr_flash : (s.setThr g t).flash = s.flash := (rfl)
@[simp] theorem State.setThr_opt : (s.setThr g t).opt = s.opt := (rfl)
@[simp] theorem State.setThr_fp : (s.setThr g t).fp = s.fp := (rfl)
@[simp] theorem State.setThr_gd : (s.setThr g t).gd = s.gd := (rfl)
@[simp] theorem State.setThr_meas : (s.setThr g t).meas = s.meas := (rfl)
@[simp] theorem State.setThr_dbg : (s.setThr g t).dbg = s.dbg := (rfl)
@[simp] theorem State.setThr_host : (s.setThr g t).host = s.host := (rfl)
@[simp] theorem State.setThr_casc : (s.setThr g t).casc = s.casc := (rfl)
@[simp] theorem State.setThr_alm : (s.setThr g t).alm = s.alm := (rfl)
@[simp] theorem State.setThr_bk : (s.setThr g t).bk = s.bk := (rfl)
@[simp] theorem State.setThr_optn : (s.setThr g t).optn = s.optn := (rfl)
@[simp] theorem State.setThr_boot : (s.setThr g t).boot = s.boot := (rfl)
@[simp] theorem State.setThr_upset : (s.setThr g t).upset = s.upset := (rfl)
@[simp] theorem State.setThr_frz : (s.setThr g t).frz = s.frz := (rfl)
@[simp] theorem State.setThr_mor : (s.setThr g t).mor = s.mor := (rfl)
@[simp] theorem State.setThr_src : (s.setThr g t).src = s.src := (rfl)
@[simp] theorem State.setThr_spRdata : (s.setThr g t).spRdata = s.spRdata := (rfl)
@[simp] theorem State.setThr_spErr : (s.setThr g t).spErr = s.spErr := (rfl)
@[simp] theorem State.setThr_freeCtr : (s.setThr g t).freeCtr = s.freeCtr := (rfl)
@[simp] theorem State.setThr_fab : (s.setThr g t).fab = s.fab := (rfl)
@[simp] theorem State.setThr_pending : (s.setThr g t).pending = s.pending := (rfl)
@[simp] theorem State.setThr_reg (o : Nat) : (s.setThr g t).reg o = s.reg o := (rfl)
@[simp] theorem State.setThr_fld (o lo len : Nat) : (s.setThr g t).fld o lo len = s.fld o lo len := (rfl)
@[simp] theorem State.setThr_bit (o i : Nat) : (s.setThr g t).bit o i = s.bit o i := (rfl)
@[simp] theorem State.setThr_stg (o : Nat) : (s.setThr g t).stg o = s.stg o := (rfl)
@[simp] theorem State.setThr_core (i : Nat) : (s.setThr g t).core i = s.core i := (rfl)
@[simp] theorem State.setThr_port (i : Nat) : (s.setThr g t).port i = s.port i := (rfl)
@[simp] theorem State.setThr_chEnd (i : Nat) : (s.setThr g t).chEnd i = s.chEnd i := (rfl)
@[simp] theorem State.setThr_engine (i : Nat) : (s.setThr g t).engine i = s.engine i := (rfl)
@[simp] theorem State.setThr_chan (i : Nat) : (s.setThr g t).chan i = s.chan i := (rfl)
@[simp] theorem State.setThr_bank (i : Nat) : (s.setThr g t).bank i = s.bank i := (rfl)
@[simp] theorem State.setThr_timer (i : Nat) : (s.setThr g t).timer i = s.timer i := (rfl)
@[simp] theorem State.setThr_free : (s.setThr g t).free = s.free := (rfl)
/-- A read after the write, at the place written. -/
@[simp] theorem State.setThr_thr_self : (s.setThr g t).thr g = t := tabGet_tabSet_self _ _ _ _
/-- Every other place reads as before. -/
theorem State.setThr_thr_ne {j : Nat} (h : g ≠ j) : (s.setThr g t).thr j = s.thr j := tabGet_tabSet_ne _ _ h _
end setThr

section setPort
variable (s : State) (k : Nat) (p : TPort)
@[simp] theorem State.setPort_clk : (s.setPort k p).clk = s.clk := (rfl)
@[simp] theorem State.setPort_regs : (s.setPort k p).regs = s.regs := (rfl)
@[simp] theorem State.setPort_staged : (s.setPort k p).staged = s.staged := (rfl)
@[simp] theorem State.setPort_dirty : (s.setPort k p).dirty = s.dirty := (rfl)
@[simp] theorem State.setPort_regionLive : (s.setPort k p).regionLive = s.regionLive := (rfl)
@[simp] theorem State.setPort_regionStaged : (s.setPort k p).regionStaged = s.regionStaged := (rfl)
@[simp] theorem State.setPort_cores : (s.setPort k p).cores = s.cores := (rfl)
@[simp] theorem State.setPort_threads : (s.setPort k p).threads = s.threads := (rfl)
@[simp] theorem State.setPort_ends : (s.setPort k p).ends = s.ends := (rfl)
@[simp] theorem State.setPort_engines : (s.setPort k p).engines = s.engines := (rfl)
@[simp] theorem State.setPort_chans : (s.setPort k p).chans = s.chans := (rfl)
@[simp] theorem State.setPort_banks : (s.setPort k p).banks = s.banks := (rfl)
@[simp] theorem State.setPort_sideband : (s.setPort k p).sideband = s.sideband := (rfl)
@[simp] theorem State.setPort_timers : (s.setPort k p).timers = s.timers := (rfl)
@[simp] theorem State.setPort_mem : (s.setPort k p).mem = s.mem := (rfl)
@[simp] theorem State.setPort_flash : (s.setPort k p).flash = s.flash := (rfl)
@[simp] theorem State.setPort_opt : (s.setPort k p).opt = s.opt := (rfl)
@[simp] theorem State.setPort_fp : (s.setPort k p).fp = s.fp := (rfl)
@[simp] theorem State.setPort_gd : (s.setPort k p).gd = s.gd := (rfl)
@[simp] theorem State.setPort_meas : (s.setPort k p).meas = s.meas := (rfl)
@[simp] theorem State.setPort_dbg : (s.setPort k p).dbg = s.dbg := (rfl)
@[simp] theorem State.setPort_host : (s.setPort k p).host = s.host := (rfl)
@[simp] theorem State.setPort_casc : (s.setPort k p).casc = s.casc := (rfl)
@[simp] theorem State.setPort_alm : (s.setPort k p).alm = s.alm := (rfl)
@[simp] theorem State.setPort_bk : (s.setPort k p).bk = s.bk := (rfl)
@[simp] theorem State.setPort_optn : (s.setPort k p).optn = s.optn := (rfl)
@[simp] theorem State.setPort_boot : (s.setPort k p).boot = s.boot := (rfl)
@[simp] theorem State.setPort_upset : (s.setPort k p).upset = s.upset := (rfl)
@[simp] theorem State.setPort_frz : (s.setPort k p).frz = s.frz := (rfl)
@[simp] theorem State.setPort_mor : (s.setPort k p).mor = s.mor := (rfl)
@[simp] theorem State.setPort_src : (s.setPort k p).src = s.src := (rfl)
@[simp] theorem State.setPort_spRdata : (s.setPort k p).spRdata = s.spRdata := (rfl)
@[simp] theorem State.setPort_spErr : (s.setPort k p).spErr = s.spErr := (rfl)
@[simp] theorem State.setPort_freeCtr : (s.setPort k p).freeCtr = s.freeCtr := (rfl)
@[simp] theorem State.setPort_fab : (s.setPort k p).fab = s.fab := (rfl)
@[simp] theorem State.setPort_pending : (s.setPort k p).pending = s.pending := (rfl)
@[simp] theorem State.setPort_reg (o : Nat) : (s.setPort k p).reg o = s.reg o := (rfl)
@[simp] theorem State.setPort_fld (o lo len : Nat) : (s.setPort k p).fld o lo len = s.fld o lo len := (rfl)
@[simp] theorem State.setPort_bit (o i : Nat) : (s.setPort k p).bit o i = s.bit o i := (rfl)
@[simp] theorem State.setPort_stg (o : Nat) : (s.setPort k p).stg o = s.stg o := (rfl)
@[simp] theorem State.setPort_core (i : Nat) : (s.setPort k p).core i = s.core i := (rfl)
@[simp] theorem State.setPort_thr (i : Nat) : (s.setPort k p).thr i = s.thr i := (rfl)
@[simp] theorem State.setPort_chEnd (i : Nat) : (s.setPort k p).chEnd i = s.chEnd i := (rfl)
@[simp] theorem State.setPort_engine (i : Nat) : (s.setPort k p).engine i = s.engine i := (rfl)
@[simp] theorem State.setPort_chan (i : Nat) : (s.setPort k p).chan i = s.chan i := (rfl)
@[simp] theorem State.setPort_bank (i : Nat) : (s.setPort k p).bank i = s.bank i := (rfl)
@[simp] theorem State.setPort_timer (i : Nat) : (s.setPort k p).timer i = s.timer i := (rfl)
@[simp] theorem State.setPort_free : (s.setPort k p).free = s.free := (rfl)
/-- A read after the write, at the place written. -/
@[simp] theorem State.setPort_port_self : (s.setPort k p).port k = p := tabGet_tabSet_self _ _ _ _
/-- Every other place reads as before. -/
theorem State.setPort_port_ne {j : Nat} (h : k ≠ j) : (s.setPort k p).port j = s.port j := tabGet_tabSet_ne _ _ h _
end setPort

section setEnd
variable (s : State) (k : Nat) (e : End)
@[simp] theorem State.setEnd_clk : (s.setEnd k e).clk = s.clk := (rfl)
@[simp] theorem State.setEnd_regs : (s.setEnd k e).regs = s.regs := (rfl)
@[simp] theorem State.setEnd_staged : (s.setEnd k e).staged = s.staged := (rfl)
@[simp] theorem State.setEnd_dirty : (s.setEnd k e).dirty = s.dirty := (rfl)
@[simp] theorem State.setEnd_regionLive : (s.setEnd k e).regionLive = s.regionLive := (rfl)
@[simp] theorem State.setEnd_regionStaged : (s.setEnd k e).regionStaged = s.regionStaged := (rfl)
@[simp] theorem State.setEnd_cores : (s.setEnd k e).cores = s.cores := (rfl)
@[simp] theorem State.setEnd_threads : (s.setEnd k e).threads = s.threads := (rfl)
@[simp] theorem State.setEnd_ports : (s.setEnd k e).ports = s.ports := (rfl)
@[simp] theorem State.setEnd_engines : (s.setEnd k e).engines = s.engines := (rfl)
@[simp] theorem State.setEnd_chans : (s.setEnd k e).chans = s.chans := (rfl)
@[simp] theorem State.setEnd_banks : (s.setEnd k e).banks = s.banks := (rfl)
@[simp] theorem State.setEnd_sideband : (s.setEnd k e).sideband = s.sideband := (rfl)
@[simp] theorem State.setEnd_timers : (s.setEnd k e).timers = s.timers := (rfl)
@[simp] theorem State.setEnd_mem : (s.setEnd k e).mem = s.mem := (rfl)
@[simp] theorem State.setEnd_flash : (s.setEnd k e).flash = s.flash := (rfl)
@[simp] theorem State.setEnd_opt : (s.setEnd k e).opt = s.opt := (rfl)
@[simp] theorem State.setEnd_fp : (s.setEnd k e).fp = s.fp := (rfl)
@[simp] theorem State.setEnd_gd : (s.setEnd k e).gd = s.gd := (rfl)
@[simp] theorem State.setEnd_meas : (s.setEnd k e).meas = s.meas := (rfl)
@[simp] theorem State.setEnd_dbg : (s.setEnd k e).dbg = s.dbg := (rfl)
@[simp] theorem State.setEnd_host : (s.setEnd k e).host = s.host := (rfl)
@[simp] theorem State.setEnd_casc : (s.setEnd k e).casc = s.casc := (rfl)
@[simp] theorem State.setEnd_alm : (s.setEnd k e).alm = s.alm := (rfl)
@[simp] theorem State.setEnd_bk : (s.setEnd k e).bk = s.bk := (rfl)
@[simp] theorem State.setEnd_optn : (s.setEnd k e).optn = s.optn := (rfl)
@[simp] theorem State.setEnd_boot : (s.setEnd k e).boot = s.boot := (rfl)
@[simp] theorem State.setEnd_upset : (s.setEnd k e).upset = s.upset := (rfl)
@[simp] theorem State.setEnd_frz : (s.setEnd k e).frz = s.frz := (rfl)
@[simp] theorem State.setEnd_mor : (s.setEnd k e).mor = s.mor := (rfl)
@[simp] theorem State.setEnd_src : (s.setEnd k e).src = s.src := (rfl)
@[simp] theorem State.setEnd_spRdata : (s.setEnd k e).spRdata = s.spRdata := (rfl)
@[simp] theorem State.setEnd_spErr : (s.setEnd k e).spErr = s.spErr := (rfl)
@[simp] theorem State.setEnd_freeCtr : (s.setEnd k e).freeCtr = s.freeCtr := (rfl)
@[simp] theorem State.setEnd_fab : (s.setEnd k e).fab = s.fab := (rfl)
@[simp] theorem State.setEnd_pending : (s.setEnd k e).pending = s.pending := (rfl)
@[simp] theorem State.setEnd_reg (o : Nat) : (s.setEnd k e).reg o = s.reg o := (rfl)
@[simp] theorem State.setEnd_fld (o lo len : Nat) : (s.setEnd k e).fld o lo len = s.fld o lo len := (rfl)
@[simp] theorem State.setEnd_bit (o i : Nat) : (s.setEnd k e).bit o i = s.bit o i := (rfl)
@[simp] theorem State.setEnd_stg (o : Nat) : (s.setEnd k e).stg o = s.stg o := (rfl)
@[simp] theorem State.setEnd_core (i : Nat) : (s.setEnd k e).core i = s.core i := (rfl)
@[simp] theorem State.setEnd_thr (i : Nat) : (s.setEnd k e).thr i = s.thr i := (rfl)
@[simp] theorem State.setEnd_port (i : Nat) : (s.setEnd k e).port i = s.port i := (rfl)
@[simp] theorem State.setEnd_engine (i : Nat) : (s.setEnd k e).engine i = s.engine i := (rfl)
@[simp] theorem State.setEnd_chan (i : Nat) : (s.setEnd k e).chan i = s.chan i := (rfl)
@[simp] theorem State.setEnd_bank (i : Nat) : (s.setEnd k e).bank i = s.bank i := (rfl)
@[simp] theorem State.setEnd_timer (i : Nat) : (s.setEnd k e).timer i = s.timer i := (rfl)
@[simp] theorem State.setEnd_free : (s.setEnd k e).free = s.free := (rfl)
/-- A read after the write, at the place written. -/
@[simp] theorem State.setEnd_chEnd_self : (s.setEnd k e).chEnd k = e := tabGet_tabSet_self _ _ _ _
/-- Every other place reads as before. -/
theorem State.setEnd_chEnd_ne {j : Nat} (h : k ≠ j) : (s.setEnd k e).chEnd j = s.chEnd j := tabGet_tabSet_ne _ _ h _
end setEnd

section setEngine
variable (s : State) (k : Nat) (e : Engine)
@[simp] theorem State.setEngine_clk : (s.setEngine k e).clk = s.clk := (rfl)
@[simp] theorem State.setEngine_regs : (s.setEngine k e).regs = s.regs := (rfl)
@[simp] theorem State.setEngine_staged : (s.setEngine k e).staged = s.staged := (rfl)
@[simp] theorem State.setEngine_dirty : (s.setEngine k e).dirty = s.dirty := (rfl)
@[simp] theorem State.setEngine_regionLive : (s.setEngine k e).regionLive = s.regionLive := (rfl)
@[simp] theorem State.setEngine_regionStaged : (s.setEngine k e).regionStaged = s.regionStaged := (rfl)
@[simp] theorem State.setEngine_cores : (s.setEngine k e).cores = s.cores := (rfl)
@[simp] theorem State.setEngine_threads : (s.setEngine k e).threads = s.threads := (rfl)
@[simp] theorem State.setEngine_ports : (s.setEngine k e).ports = s.ports := (rfl)
@[simp] theorem State.setEngine_ends : (s.setEngine k e).ends = s.ends := (rfl)
@[simp] theorem State.setEngine_chans : (s.setEngine k e).chans = s.chans := (rfl)
@[simp] theorem State.setEngine_banks : (s.setEngine k e).banks = s.banks := (rfl)
@[simp] theorem State.setEngine_sideband : (s.setEngine k e).sideband = s.sideband := (rfl)
@[simp] theorem State.setEngine_timers : (s.setEngine k e).timers = s.timers := (rfl)
@[simp] theorem State.setEngine_mem : (s.setEngine k e).mem = s.mem := (rfl)
@[simp] theorem State.setEngine_flash : (s.setEngine k e).flash = s.flash := (rfl)
@[simp] theorem State.setEngine_opt : (s.setEngine k e).opt = s.opt := (rfl)
@[simp] theorem State.setEngine_fp : (s.setEngine k e).fp = s.fp := (rfl)
@[simp] theorem State.setEngine_gd : (s.setEngine k e).gd = s.gd := (rfl)
@[simp] theorem State.setEngine_meas : (s.setEngine k e).meas = s.meas := (rfl)
@[simp] theorem State.setEngine_dbg : (s.setEngine k e).dbg = s.dbg := (rfl)
@[simp] theorem State.setEngine_host : (s.setEngine k e).host = s.host := (rfl)
@[simp] theorem State.setEngine_casc : (s.setEngine k e).casc = s.casc := (rfl)
@[simp] theorem State.setEngine_alm : (s.setEngine k e).alm = s.alm := (rfl)
@[simp] theorem State.setEngine_bk : (s.setEngine k e).bk = s.bk := (rfl)
@[simp] theorem State.setEngine_optn : (s.setEngine k e).optn = s.optn := (rfl)
@[simp] theorem State.setEngine_boot : (s.setEngine k e).boot = s.boot := (rfl)
@[simp] theorem State.setEngine_upset : (s.setEngine k e).upset = s.upset := (rfl)
@[simp] theorem State.setEngine_frz : (s.setEngine k e).frz = s.frz := (rfl)
@[simp] theorem State.setEngine_mor : (s.setEngine k e).mor = s.mor := (rfl)
@[simp] theorem State.setEngine_src : (s.setEngine k e).src = s.src := (rfl)
@[simp] theorem State.setEngine_spRdata : (s.setEngine k e).spRdata = s.spRdata := (rfl)
@[simp] theorem State.setEngine_spErr : (s.setEngine k e).spErr = s.spErr := (rfl)
@[simp] theorem State.setEngine_freeCtr : (s.setEngine k e).freeCtr = s.freeCtr := (rfl)
@[simp] theorem State.setEngine_fab : (s.setEngine k e).fab = s.fab := (rfl)
@[simp] theorem State.setEngine_pending : (s.setEngine k e).pending = s.pending := (rfl)
@[simp] theorem State.setEngine_reg (o : Nat) : (s.setEngine k e).reg o = s.reg o := (rfl)
@[simp] theorem State.setEngine_fld (o lo len : Nat) : (s.setEngine k e).fld o lo len = s.fld o lo len := (rfl)
@[simp] theorem State.setEngine_bit (o i : Nat) : (s.setEngine k e).bit o i = s.bit o i := (rfl)
@[simp] theorem State.setEngine_stg (o : Nat) : (s.setEngine k e).stg o = s.stg o := (rfl)
@[simp] theorem State.setEngine_core (i : Nat) : (s.setEngine k e).core i = s.core i := (rfl)
@[simp] theorem State.setEngine_thr (i : Nat) : (s.setEngine k e).thr i = s.thr i := (rfl)
@[simp] theorem State.setEngine_port (i : Nat) : (s.setEngine k e).port i = s.port i := (rfl)
@[simp] theorem State.setEngine_chEnd (i : Nat) : (s.setEngine k e).chEnd i = s.chEnd i := (rfl)
@[simp] theorem State.setEngine_chan (i : Nat) : (s.setEngine k e).chan i = s.chan i := (rfl)
@[simp] theorem State.setEngine_bank (i : Nat) : (s.setEngine k e).bank i = s.bank i := (rfl)
@[simp] theorem State.setEngine_timer (i : Nat) : (s.setEngine k e).timer i = s.timer i := (rfl)
@[simp] theorem State.setEngine_free : (s.setEngine k e).free = s.free := (rfl)
/-- A read after the write, at the place written. -/
@[simp] theorem State.setEngine_engine_self : (s.setEngine k e).engine k = e := tabGet_tabSet_self _ _ _ _
/-- Every other place reads as before. -/
theorem State.setEngine_engine_ne {j : Nat} (h : k ≠ j) : (s.setEngine k e).engine j = s.engine j := tabGet_tabSet_ne _ _ h _
end setEngine

section setChan
variable (s : State) (k : Nat) (c : Chan)
@[simp] theorem State.setChan_clk : (s.setChan k c).clk = s.clk := (rfl)
@[simp] theorem State.setChan_regs : (s.setChan k c).regs = s.regs := (rfl)
@[simp] theorem State.setChan_staged : (s.setChan k c).staged = s.staged := (rfl)
@[simp] theorem State.setChan_dirty : (s.setChan k c).dirty = s.dirty := (rfl)
@[simp] theorem State.setChan_regionLive : (s.setChan k c).regionLive = s.regionLive := (rfl)
@[simp] theorem State.setChan_regionStaged : (s.setChan k c).regionStaged = s.regionStaged := (rfl)
@[simp] theorem State.setChan_cores : (s.setChan k c).cores = s.cores := (rfl)
@[simp] theorem State.setChan_threads : (s.setChan k c).threads = s.threads := (rfl)
@[simp] theorem State.setChan_ports : (s.setChan k c).ports = s.ports := (rfl)
@[simp] theorem State.setChan_ends : (s.setChan k c).ends = s.ends := (rfl)
@[simp] theorem State.setChan_engines : (s.setChan k c).engines = s.engines := (rfl)
@[simp] theorem State.setChan_banks : (s.setChan k c).banks = s.banks := (rfl)
@[simp] theorem State.setChan_sideband : (s.setChan k c).sideband = s.sideband := (rfl)
@[simp] theorem State.setChan_timers : (s.setChan k c).timers = s.timers := (rfl)
@[simp] theorem State.setChan_mem : (s.setChan k c).mem = s.mem := (rfl)
@[simp] theorem State.setChan_flash : (s.setChan k c).flash = s.flash := (rfl)
@[simp] theorem State.setChan_opt : (s.setChan k c).opt = s.opt := (rfl)
@[simp] theorem State.setChan_fp : (s.setChan k c).fp = s.fp := (rfl)
@[simp] theorem State.setChan_gd : (s.setChan k c).gd = s.gd := (rfl)
@[simp] theorem State.setChan_meas : (s.setChan k c).meas = s.meas := (rfl)
@[simp] theorem State.setChan_dbg : (s.setChan k c).dbg = s.dbg := (rfl)
@[simp] theorem State.setChan_host : (s.setChan k c).host = s.host := (rfl)
@[simp] theorem State.setChan_casc : (s.setChan k c).casc = s.casc := (rfl)
@[simp] theorem State.setChan_alm : (s.setChan k c).alm = s.alm := (rfl)
@[simp] theorem State.setChan_bk : (s.setChan k c).bk = s.bk := (rfl)
@[simp] theorem State.setChan_optn : (s.setChan k c).optn = s.optn := (rfl)
@[simp] theorem State.setChan_boot : (s.setChan k c).boot = s.boot := (rfl)
@[simp] theorem State.setChan_upset : (s.setChan k c).upset = s.upset := (rfl)
@[simp] theorem State.setChan_frz : (s.setChan k c).frz = s.frz := (rfl)
@[simp] theorem State.setChan_mor : (s.setChan k c).mor = s.mor := (rfl)
@[simp] theorem State.setChan_src : (s.setChan k c).src = s.src := (rfl)
@[simp] theorem State.setChan_spRdata : (s.setChan k c).spRdata = s.spRdata := (rfl)
@[simp] theorem State.setChan_spErr : (s.setChan k c).spErr = s.spErr := (rfl)
@[simp] theorem State.setChan_freeCtr : (s.setChan k c).freeCtr = s.freeCtr := (rfl)
@[simp] theorem State.setChan_fab : (s.setChan k c).fab = s.fab := (rfl)
@[simp] theorem State.setChan_pending : (s.setChan k c).pending = s.pending := (rfl)
@[simp] theorem State.setChan_reg (o : Nat) : (s.setChan k c).reg o = s.reg o := (rfl)
@[simp] theorem State.setChan_fld (o lo len : Nat) : (s.setChan k c).fld o lo len = s.fld o lo len := (rfl)
@[simp] theorem State.setChan_bit (o i : Nat) : (s.setChan k c).bit o i = s.bit o i := (rfl)
@[simp] theorem State.setChan_stg (o : Nat) : (s.setChan k c).stg o = s.stg o := (rfl)
@[simp] theorem State.setChan_core (i : Nat) : (s.setChan k c).core i = s.core i := (rfl)
@[simp] theorem State.setChan_thr (i : Nat) : (s.setChan k c).thr i = s.thr i := (rfl)
@[simp] theorem State.setChan_port (i : Nat) : (s.setChan k c).port i = s.port i := (rfl)
@[simp] theorem State.setChan_chEnd (i : Nat) : (s.setChan k c).chEnd i = s.chEnd i := (rfl)
@[simp] theorem State.setChan_engine (i : Nat) : (s.setChan k c).engine i = s.engine i := (rfl)
@[simp] theorem State.setChan_bank (i : Nat) : (s.setChan k c).bank i = s.bank i := (rfl)
@[simp] theorem State.setChan_timer (i : Nat) : (s.setChan k c).timer i = s.timer i := (rfl)
@[simp] theorem State.setChan_free : (s.setChan k c).free = s.free := (rfl)
/-- A read after the write, at the place written. -/
@[simp] theorem State.setChan_chan_self : (s.setChan k c).chan k = c := tabGet_tabSet_self _ _ _ _
/-- Every other place reads as before. -/
theorem State.setChan_chan_ne {j : Nat} (h : k ≠ j) : (s.setChan k c).chan j = s.chan j := tabGet_tabSet_ne _ _ h _
end setChan

section setBank
variable (s : State) (k : Nat) (b : Bank)
@[simp] theorem State.setBank_clk : (s.setBank k b).clk = s.clk := (rfl)
@[simp] theorem State.setBank_regs : (s.setBank k b).regs = s.regs := (rfl)
@[simp] theorem State.setBank_staged : (s.setBank k b).staged = s.staged := (rfl)
@[simp] theorem State.setBank_dirty : (s.setBank k b).dirty = s.dirty := (rfl)
@[simp] theorem State.setBank_regionLive : (s.setBank k b).regionLive = s.regionLive := (rfl)
@[simp] theorem State.setBank_regionStaged : (s.setBank k b).regionStaged = s.regionStaged := (rfl)
@[simp] theorem State.setBank_cores : (s.setBank k b).cores = s.cores := (rfl)
@[simp] theorem State.setBank_threads : (s.setBank k b).threads = s.threads := (rfl)
@[simp] theorem State.setBank_ports : (s.setBank k b).ports = s.ports := (rfl)
@[simp] theorem State.setBank_ends : (s.setBank k b).ends = s.ends := (rfl)
@[simp] theorem State.setBank_engines : (s.setBank k b).engines = s.engines := (rfl)
@[simp] theorem State.setBank_chans : (s.setBank k b).chans = s.chans := (rfl)
@[simp] theorem State.setBank_sideband : (s.setBank k b).sideband = s.sideband := (rfl)
@[simp] theorem State.setBank_timers : (s.setBank k b).timers = s.timers := (rfl)
@[simp] theorem State.setBank_mem : (s.setBank k b).mem = s.mem := (rfl)
@[simp] theorem State.setBank_flash : (s.setBank k b).flash = s.flash := (rfl)
@[simp] theorem State.setBank_opt : (s.setBank k b).opt = s.opt := (rfl)
@[simp] theorem State.setBank_fp : (s.setBank k b).fp = s.fp := (rfl)
@[simp] theorem State.setBank_gd : (s.setBank k b).gd = s.gd := (rfl)
@[simp] theorem State.setBank_meas : (s.setBank k b).meas = s.meas := (rfl)
@[simp] theorem State.setBank_dbg : (s.setBank k b).dbg = s.dbg := (rfl)
@[simp] theorem State.setBank_host : (s.setBank k b).host = s.host := (rfl)
@[simp] theorem State.setBank_casc : (s.setBank k b).casc = s.casc := (rfl)
@[simp] theorem State.setBank_alm : (s.setBank k b).alm = s.alm := (rfl)
@[simp] theorem State.setBank_bk : (s.setBank k b).bk = s.bk := (rfl)
@[simp] theorem State.setBank_optn : (s.setBank k b).optn = s.optn := (rfl)
@[simp] theorem State.setBank_boot : (s.setBank k b).boot = s.boot := (rfl)
@[simp] theorem State.setBank_upset : (s.setBank k b).upset = s.upset := (rfl)
@[simp] theorem State.setBank_frz : (s.setBank k b).frz = s.frz := (rfl)
@[simp] theorem State.setBank_mor : (s.setBank k b).mor = s.mor := (rfl)
@[simp] theorem State.setBank_src : (s.setBank k b).src = s.src := (rfl)
@[simp] theorem State.setBank_spRdata : (s.setBank k b).spRdata = s.spRdata := (rfl)
@[simp] theorem State.setBank_spErr : (s.setBank k b).spErr = s.spErr := (rfl)
@[simp] theorem State.setBank_freeCtr : (s.setBank k b).freeCtr = s.freeCtr := (rfl)
@[simp] theorem State.setBank_fab : (s.setBank k b).fab = s.fab := (rfl)
@[simp] theorem State.setBank_pending : (s.setBank k b).pending = s.pending := (rfl)
@[simp] theorem State.setBank_reg (o : Nat) : (s.setBank k b).reg o = s.reg o := (rfl)
@[simp] theorem State.setBank_fld (o lo len : Nat) : (s.setBank k b).fld o lo len = s.fld o lo len := (rfl)
@[simp] theorem State.setBank_bit (o i : Nat) : (s.setBank k b).bit o i = s.bit o i := (rfl)
@[simp] theorem State.setBank_stg (o : Nat) : (s.setBank k b).stg o = s.stg o := (rfl)
@[simp] theorem State.setBank_core (i : Nat) : (s.setBank k b).core i = s.core i := (rfl)
@[simp] theorem State.setBank_thr (i : Nat) : (s.setBank k b).thr i = s.thr i := (rfl)
@[simp] theorem State.setBank_port (i : Nat) : (s.setBank k b).port i = s.port i := (rfl)
@[simp] theorem State.setBank_chEnd (i : Nat) : (s.setBank k b).chEnd i = s.chEnd i := (rfl)
@[simp] theorem State.setBank_engine (i : Nat) : (s.setBank k b).engine i = s.engine i := (rfl)
@[simp] theorem State.setBank_chan (i : Nat) : (s.setBank k b).chan i = s.chan i := (rfl)
@[simp] theorem State.setBank_timer (i : Nat) : (s.setBank k b).timer i = s.timer i := (rfl)
@[simp] theorem State.setBank_free : (s.setBank k b).free = s.free := (rfl)
/-- A read after the write, at the place written. -/
@[simp] theorem State.setBank_bank_self : (s.setBank k b).bank k = b := tabGet_tabSet_self _ _ _ _
/-- Every other place reads as before. -/
theorem State.setBank_bank_ne {j : Nat} (h : k ≠ j) : (s.setBank k b).bank j = s.bank j := tabGet_tabSet_ne _ _ h _
end setBank

section setTimer
variable (s : State) (k : Nat) (t : Timer)
@[simp] theorem State.setTimer_clk : (s.setTimer k t).clk = s.clk := (rfl)
@[simp] theorem State.setTimer_regs : (s.setTimer k t).regs = s.regs := (rfl)
@[simp] theorem State.setTimer_staged : (s.setTimer k t).staged = s.staged := (rfl)
@[simp] theorem State.setTimer_dirty : (s.setTimer k t).dirty = s.dirty := (rfl)
@[simp] theorem State.setTimer_regionLive : (s.setTimer k t).regionLive = s.regionLive := (rfl)
@[simp] theorem State.setTimer_regionStaged : (s.setTimer k t).regionStaged = s.regionStaged := (rfl)
@[simp] theorem State.setTimer_cores : (s.setTimer k t).cores = s.cores := (rfl)
@[simp] theorem State.setTimer_threads : (s.setTimer k t).threads = s.threads := (rfl)
@[simp] theorem State.setTimer_ports : (s.setTimer k t).ports = s.ports := (rfl)
@[simp] theorem State.setTimer_ends : (s.setTimer k t).ends = s.ends := (rfl)
@[simp] theorem State.setTimer_engines : (s.setTimer k t).engines = s.engines := (rfl)
@[simp] theorem State.setTimer_chans : (s.setTimer k t).chans = s.chans := (rfl)
@[simp] theorem State.setTimer_banks : (s.setTimer k t).banks = s.banks := (rfl)
@[simp] theorem State.setTimer_sideband : (s.setTimer k t).sideband = s.sideband := (rfl)
@[simp] theorem State.setTimer_mem : (s.setTimer k t).mem = s.mem := (rfl)
@[simp] theorem State.setTimer_flash : (s.setTimer k t).flash = s.flash := (rfl)
@[simp] theorem State.setTimer_opt : (s.setTimer k t).opt = s.opt := (rfl)
@[simp] theorem State.setTimer_fp : (s.setTimer k t).fp = s.fp := (rfl)
@[simp] theorem State.setTimer_gd : (s.setTimer k t).gd = s.gd := (rfl)
@[simp] theorem State.setTimer_meas : (s.setTimer k t).meas = s.meas := (rfl)
@[simp] theorem State.setTimer_dbg : (s.setTimer k t).dbg = s.dbg := (rfl)
@[simp] theorem State.setTimer_host : (s.setTimer k t).host = s.host := (rfl)
@[simp] theorem State.setTimer_casc : (s.setTimer k t).casc = s.casc := (rfl)
@[simp] theorem State.setTimer_alm : (s.setTimer k t).alm = s.alm := (rfl)
@[simp] theorem State.setTimer_bk : (s.setTimer k t).bk = s.bk := (rfl)
@[simp] theorem State.setTimer_optn : (s.setTimer k t).optn = s.optn := (rfl)
@[simp] theorem State.setTimer_boot : (s.setTimer k t).boot = s.boot := (rfl)
@[simp] theorem State.setTimer_upset : (s.setTimer k t).upset = s.upset := (rfl)
@[simp] theorem State.setTimer_frz : (s.setTimer k t).frz = s.frz := (rfl)
@[simp] theorem State.setTimer_mor : (s.setTimer k t).mor = s.mor := (rfl)
@[simp] theorem State.setTimer_src : (s.setTimer k t).src = s.src := (rfl)
@[simp] theorem State.setTimer_spRdata : (s.setTimer k t).spRdata = s.spRdata := (rfl)
@[simp] theorem State.setTimer_spErr : (s.setTimer k t).spErr = s.spErr := (rfl)
@[simp] theorem State.setTimer_freeCtr : (s.setTimer k t).freeCtr = s.freeCtr := (rfl)
@[simp] theorem State.setTimer_fab : (s.setTimer k t).fab = s.fab := (rfl)
@[simp] theorem State.setTimer_pending : (s.setTimer k t).pending = s.pending := (rfl)
@[simp] theorem State.setTimer_reg (o : Nat) : (s.setTimer k t).reg o = s.reg o := (rfl)
@[simp] theorem State.setTimer_fld (o lo len : Nat) : (s.setTimer k t).fld o lo len = s.fld o lo len := (rfl)
@[simp] theorem State.setTimer_bit (o i : Nat) : (s.setTimer k t).bit o i = s.bit o i := (rfl)
@[simp] theorem State.setTimer_stg (o : Nat) : (s.setTimer k t).stg o = s.stg o := (rfl)
@[simp] theorem State.setTimer_core (i : Nat) : (s.setTimer k t).core i = s.core i := (rfl)
@[simp] theorem State.setTimer_thr (i : Nat) : (s.setTimer k t).thr i = s.thr i := (rfl)
@[simp] theorem State.setTimer_port (i : Nat) : (s.setTimer k t).port i = s.port i := (rfl)
@[simp] theorem State.setTimer_chEnd (i : Nat) : (s.setTimer k t).chEnd i = s.chEnd i := (rfl)
@[simp] theorem State.setTimer_engine (i : Nat) : (s.setTimer k t).engine i = s.engine i := (rfl)
@[simp] theorem State.setTimer_chan (i : Nat) : (s.setTimer k t).chan i = s.chan i := (rfl)
@[simp] theorem State.setTimer_bank (i : Nat) : (s.setTimer k t).bank i = s.bank i := (rfl)
@[simp] theorem State.setTimer_free : (s.setTimer k t).free = s.free := (rfl)
/-- A read after the write, at the place written. -/
@[simp] theorem State.setTimer_timer_self : (s.setTimer k t).timer k = t := tabGet_tabSet_self _ _ _ _
/-- Every other place reads as before. -/
theorem State.setTimer_timer_ne {j : Nat} (h : k ≠ j) : (s.setTimer k t).timer j = s.timer j := tabGet_tabSet_ne _ _ h _
end setTimer

section drawn
variable (s : State)
@[simp] theorem State.drawn_clk : s.drawn.clk = s.clk := (rfl)
@[simp] theorem State.drawn_regs : s.drawn.regs = s.regs := (rfl)
@[simp] theorem State.drawn_staged : s.drawn.staged = s.staged := (rfl)
@[simp] theorem State.drawn_dirty : s.drawn.dirty = s.dirty := (rfl)
@[simp] theorem State.drawn_regionLive : s.drawn.regionLive = s.regionLive := (rfl)
@[simp] theorem State.drawn_regionStaged : s.drawn.regionStaged = s.regionStaged := (rfl)
@[simp] theorem State.drawn_cores : s.drawn.cores = s.cores := (rfl)
@[simp] theorem State.drawn_threads : s.drawn.threads = s.threads := (rfl)
@[simp] theorem State.drawn_ports : s.drawn.ports = s.ports := (rfl)
@[simp] theorem State.drawn_ends : s.drawn.ends = s.ends := (rfl)
@[simp] theorem State.drawn_engines : s.drawn.engines = s.engines := (rfl)
@[simp] theorem State.drawn_chans : s.drawn.chans = s.chans := (rfl)
@[simp] theorem State.drawn_banks : s.drawn.banks = s.banks := (rfl)
@[simp] theorem State.drawn_sideband : s.drawn.sideband = s.sideband := (rfl)
@[simp] theorem State.drawn_timers : s.drawn.timers = s.timers := (rfl)
@[simp] theorem State.drawn_mem : s.drawn.mem = s.mem := (rfl)
@[simp] theorem State.drawn_flash : s.drawn.flash = s.flash := (rfl)
@[simp] theorem State.drawn_opt : s.drawn.opt = s.opt := (rfl)
@[simp] theorem State.drawn_fp : s.drawn.fp = s.fp := (rfl)
@[simp] theorem State.drawn_gd : s.drawn.gd = s.gd := (rfl)
@[simp] theorem State.drawn_meas : s.drawn.meas = s.meas := (rfl)
@[simp] theorem State.drawn_dbg : s.drawn.dbg = s.dbg := (rfl)
@[simp] theorem State.drawn_host : s.drawn.host = s.host := (rfl)
@[simp] theorem State.drawn_casc : s.drawn.casc = s.casc := (rfl)
@[simp] theorem State.drawn_alm : s.drawn.alm = s.alm := (rfl)
@[simp] theorem State.drawn_bk : s.drawn.bk = s.bk := (rfl)
@[simp] theorem State.drawn_optn : s.drawn.optn = s.optn := (rfl)
@[simp] theorem State.drawn_boot : s.drawn.boot = s.boot := (rfl)
@[simp] theorem State.drawn_upset : s.drawn.upset = s.upset := (rfl)
@[simp] theorem State.drawn_frz : s.drawn.frz = s.frz := (rfl)
@[simp] theorem State.drawn_mor : s.drawn.mor = s.mor := (rfl)
@[simp] theorem State.drawn_src : s.drawn.src = s.src := (rfl)
@[simp] theorem State.drawn_spRdata : s.drawn.spRdata = s.spRdata := (rfl)
@[simp] theorem State.drawn_spErr : s.drawn.spErr = s.spErr := (rfl)
@[simp] theorem State.drawn_fab : s.drawn.fab = s.fab := (rfl)
@[simp] theorem State.drawn_pending : s.drawn.pending = s.pending := (rfl)
@[simp] theorem State.drawn_reg (o : Nat) : s.drawn.reg o = s.reg o := (rfl)
@[simp] theorem State.drawn_fld (o lo len : Nat) : s.drawn.fld o lo len = s.fld o lo len := (rfl)
@[simp] theorem State.drawn_bit (o i : Nat) : s.drawn.bit o i = s.bit o i := (rfl)
@[simp] theorem State.drawn_stg (o : Nat) : s.drawn.stg o = s.stg o := (rfl)
@[simp] theorem State.drawn_core (i : Nat) : s.drawn.core i = s.core i := (rfl)
@[simp] theorem State.drawn_thr (i : Nat) : s.drawn.thr i = s.thr i := (rfl)
@[simp] theorem State.drawn_port (i : Nat) : s.drawn.port i = s.port i := (rfl)
@[simp] theorem State.drawn_chEnd (i : Nat) : s.drawn.chEnd i = s.chEnd i := (rfl)
@[simp] theorem State.drawn_engine (i : Nat) : s.drawn.engine i = s.engine i := (rfl)
@[simp] theorem State.drawn_chan (i : Nat) : s.drawn.chan i = s.chan i := (rfl)
@[simp] theorem State.drawn_bank (i : Nat) : s.drawn.bank i = s.bank i := (rfl)
@[simp] theorem State.drawn_timer (i : Nat) : s.drawn.timer i = s.timer i := (rfl)
end drawn

section offerEntry
variable (s : State) (e : MorEntry)
/-- A Moraine offer writes the recorder alone. -/
theorem State.offerEntry_eq : ∃ m, s.offerEntry e = { s with mor := m } := by
  unfold State.offerEntry; split
  · exact ⟨s.mor, rfl⟩
  · exact ⟨_, rfl⟩
@[simp] theorem State.offerEntry_clk : (s.offerEntry e).clk = s.clk := by
  unfold State.offerEntry; split <;> rfl
@[simp] theorem State.offerEntry_regs : (s.offerEntry e).regs = s.regs := by
  unfold State.offerEntry; split <;> rfl
@[simp] theorem State.offerEntry_staged : (s.offerEntry e).staged = s.staged := by
  unfold State.offerEntry; split <;> rfl
@[simp] theorem State.offerEntry_dirty : (s.offerEntry e).dirty = s.dirty := by
  unfold State.offerEntry; split <;> rfl
@[simp] theorem State.offerEntry_regionLive : (s.offerEntry e).regionLive = s.regionLive := by
  unfold State.offerEntry; split <;> rfl
@[simp] theorem State.offerEntry_regionStaged : (s.offerEntry e).regionStaged = s.regionStaged := by
  unfold State.offerEntry; split <;> rfl
@[simp] theorem State.offerEntry_cores : (s.offerEntry e).cores = s.cores := by
  unfold State.offerEntry; split <;> rfl
@[simp] theorem State.offerEntry_threads : (s.offerEntry e).threads = s.threads := by
  unfold State.offerEntry; split <;> rfl
@[simp] theorem State.offerEntry_ports : (s.offerEntry e).ports = s.ports := by
  unfold State.offerEntry; split <;> rfl
@[simp] theorem State.offerEntry_ends : (s.offerEntry e).ends = s.ends := by
  unfold State.offerEntry; split <;> rfl
@[simp] theorem State.offerEntry_engines : (s.offerEntry e).engines = s.engines := by
  unfold State.offerEntry; split <;> rfl
@[simp] theorem State.offerEntry_chans : (s.offerEntry e).chans = s.chans := by
  unfold State.offerEntry; split <;> rfl
@[simp] theorem State.offerEntry_banks : (s.offerEntry e).banks = s.banks := by
  unfold State.offerEntry; split <;> rfl
@[simp] theorem State.offerEntry_sideband : (s.offerEntry e).sideband = s.sideband := by
  unfold State.offerEntry; split <;> rfl
@[simp] theorem State.offerEntry_timers : (s.offerEntry e).timers = s.timers := by
  unfold State.offerEntry; split <;> rfl
@[simp] theorem State.offerEntry_mem : (s.offerEntry e).mem = s.mem := by
  unfold State.offerEntry; split <;> rfl
@[simp] theorem State.offerEntry_flash : (s.offerEntry e).flash = s.flash := by
  unfold State.offerEntry; split <;> rfl
@[simp] theorem State.offerEntry_opt : (s.offerEntry e).opt = s.opt := by
  unfold State.offerEntry; split <;> rfl
@[simp] theorem State.offerEntry_fp : (s.offerEntry e).fp = s.fp := by
  unfold State.offerEntry; split <;> rfl
@[simp] theorem State.offerEntry_gd : (s.offerEntry e).gd = s.gd := by
  unfold State.offerEntry; split <;> rfl
@[simp] theorem State.offerEntry_meas : (s.offerEntry e).meas = s.meas := by
  unfold State.offerEntry; split <;> rfl
@[simp] theorem State.offerEntry_dbg : (s.offerEntry e).dbg = s.dbg := by
  unfold State.offerEntry; split <;> rfl
@[simp] theorem State.offerEntry_host : (s.offerEntry e).host = s.host := by
  unfold State.offerEntry; split <;> rfl
@[simp] theorem State.offerEntry_casc : (s.offerEntry e).casc = s.casc := by
  unfold State.offerEntry; split <;> rfl
@[simp] theorem State.offerEntry_alm : (s.offerEntry e).alm = s.alm := by
  unfold State.offerEntry; split <;> rfl
@[simp] theorem State.offerEntry_bk : (s.offerEntry e).bk = s.bk := by
  unfold State.offerEntry; split <;> rfl
@[simp] theorem State.offerEntry_optn : (s.offerEntry e).optn = s.optn := by
  unfold State.offerEntry; split <;> rfl
@[simp] theorem State.offerEntry_boot : (s.offerEntry e).boot = s.boot := by
  unfold State.offerEntry; split <;> rfl
@[simp] theorem State.offerEntry_upset : (s.offerEntry e).upset = s.upset := by
  unfold State.offerEntry; split <;> rfl
@[simp] theorem State.offerEntry_frz : (s.offerEntry e).frz = s.frz := by
  unfold State.offerEntry; split <;> rfl
@[simp] theorem State.offerEntry_src : (s.offerEntry e).src = s.src := by
  unfold State.offerEntry; split <;> rfl
@[simp] theorem State.offerEntry_spRdata : (s.offerEntry e).spRdata = s.spRdata := by
  unfold State.offerEntry; split <;> rfl
@[simp] theorem State.offerEntry_spErr : (s.offerEntry e).spErr = s.spErr := by
  unfold State.offerEntry; split <;> rfl
@[simp] theorem State.offerEntry_freeCtr : (s.offerEntry e).freeCtr = s.freeCtr := by
  unfold State.offerEntry; split <;> rfl
@[simp] theorem State.offerEntry_fab : (s.offerEntry e).fab = s.fab := by
  unfold State.offerEntry; split <;> rfl
@[simp] theorem State.offerEntry_pending : (s.offerEntry e).pending = s.pending := by
  unfold State.offerEntry; split <;> rfl
@[simp] theorem State.offerEntry_reg (o : Nat) : (s.offerEntry e).reg o = s.reg o := by
  unfold State.offerEntry; split <;> rfl
@[simp] theorem State.offerEntry_fld (o lo len : Nat) : (s.offerEntry e).fld o lo len = s.fld o lo len := by
  unfold State.offerEntry; split <;> rfl
@[simp] theorem State.offerEntry_bit (o i : Nat) : (s.offerEntry e).bit o i = s.bit o i := by
  unfold State.offerEntry; split <;> rfl
@[simp] theorem State.offerEntry_stg (o : Nat) : (s.offerEntry e).stg o = s.stg o := by
  unfold State.offerEntry; split <;> rfl
@[simp] theorem State.offerEntry_core (i : Nat) : (s.offerEntry e).core i = s.core i := by
  unfold State.offerEntry; split <;> rfl
@[simp] theorem State.offerEntry_thr (i : Nat) : (s.offerEntry e).thr i = s.thr i := by
  unfold State.offerEntry; split <;> rfl
@[simp] theorem State.offerEntry_port (i : Nat) : (s.offerEntry e).port i = s.port i := by
  unfold State.offerEntry; split <;> rfl
@[simp] theorem State.offerEntry_chEnd (i : Nat) : (s.offerEntry e).chEnd i = s.chEnd i := by
  unfold State.offerEntry; split <;> rfl
@[simp] theorem State.offerEntry_engine (i : Nat) : (s.offerEntry e).engine i = s.engine i := by
  unfold State.offerEntry; split <;> rfl
@[simp] theorem State.offerEntry_chan (i : Nat) : (s.offerEntry e).chan i = s.chan i := by
  unfold State.offerEntry; split <;> rfl
@[simp] theorem State.offerEntry_bank (i : Nat) : (s.offerEntry e).bank i = s.bank i := by
  unfold State.offerEntry; split <;> rfl
@[simp] theorem State.offerEntry_timer (i : Nat) : (s.offerEntry e).timer i = s.timer i := by
  unfold State.offerEntry; split <;> rfl
@[simp] theorem State.offerEntry_free : (s.offerEntry e).free  = s.free := by
  unfold State.offerEntry; split <;> rfl
end offerEntry

section offer
variable (s : State) (code : Nat) (origin a0 a1 a2 : Word)
/-- A Moraine offer writes the recorder alone. -/
theorem State.offer_eq : ∃ m, s.offer code origin a0 a1 a2 = { s with mor := m } := by
  unfold State.offer State.offerEntry; split
  · exact ⟨s.mor, rfl⟩
  · exact ⟨_, rfl⟩
@[simp] theorem State.offer_clk : (s.offer code origin a0 a1 a2).clk = s.clk := by
  unfold State.offer State.offerEntry; split <;> rfl
@[simp] theorem State.offer_regs : (s.offer code origin a0 a1 a2).regs = s.regs := by
  unfold State.offer State.offerEntry; split <;> rfl
@[simp] theorem State.offer_staged : (s.offer code origin a0 a1 a2).staged = s.staged := by
  unfold State.offer State.offerEntry; split <;> rfl
@[simp] theorem State.offer_dirty : (s.offer code origin a0 a1 a2).dirty = s.dirty := by
  unfold State.offer State.offerEntry; split <;> rfl
@[simp] theorem State.offer_regionLive : (s.offer code origin a0 a1 a2).regionLive = s.regionLive := by
  unfold State.offer State.offerEntry; split <;> rfl
@[simp] theorem State.offer_regionStaged : (s.offer code origin a0 a1 a2).regionStaged = s.regionStaged := by
  unfold State.offer State.offerEntry; split <;> rfl
@[simp] theorem State.offer_cores : (s.offer code origin a0 a1 a2).cores = s.cores := by
  unfold State.offer State.offerEntry; split <;> rfl
@[simp] theorem State.offer_threads : (s.offer code origin a0 a1 a2).threads = s.threads := by
  unfold State.offer State.offerEntry; split <;> rfl
@[simp] theorem State.offer_ports : (s.offer code origin a0 a1 a2).ports = s.ports := by
  unfold State.offer State.offerEntry; split <;> rfl
@[simp] theorem State.offer_ends : (s.offer code origin a0 a1 a2).ends = s.ends := by
  unfold State.offer State.offerEntry; split <;> rfl
@[simp] theorem State.offer_engines : (s.offer code origin a0 a1 a2).engines = s.engines := by
  unfold State.offer State.offerEntry; split <;> rfl
@[simp] theorem State.offer_chans : (s.offer code origin a0 a1 a2).chans = s.chans := by
  unfold State.offer State.offerEntry; split <;> rfl
@[simp] theorem State.offer_banks : (s.offer code origin a0 a1 a2).banks = s.banks := by
  unfold State.offer State.offerEntry; split <;> rfl
@[simp] theorem State.offer_sideband : (s.offer code origin a0 a1 a2).sideband = s.sideband := by
  unfold State.offer State.offerEntry; split <;> rfl
@[simp] theorem State.offer_timers : (s.offer code origin a0 a1 a2).timers = s.timers := by
  unfold State.offer State.offerEntry; split <;> rfl
@[simp] theorem State.offer_mem : (s.offer code origin a0 a1 a2).mem = s.mem := by
  unfold State.offer State.offerEntry; split <;> rfl
@[simp] theorem State.offer_flash : (s.offer code origin a0 a1 a2).flash = s.flash := by
  unfold State.offer State.offerEntry; split <;> rfl
@[simp] theorem State.offer_opt : (s.offer code origin a0 a1 a2).opt = s.opt := by
  unfold State.offer State.offerEntry; split <;> rfl
@[simp] theorem State.offer_fp : (s.offer code origin a0 a1 a2).fp = s.fp := by
  unfold State.offer State.offerEntry; split <;> rfl
@[simp] theorem State.offer_gd : (s.offer code origin a0 a1 a2).gd = s.gd := by
  unfold State.offer State.offerEntry; split <;> rfl
@[simp] theorem State.offer_meas : (s.offer code origin a0 a1 a2).meas = s.meas := by
  unfold State.offer State.offerEntry; split <;> rfl
@[simp] theorem State.offer_dbg : (s.offer code origin a0 a1 a2).dbg = s.dbg := by
  unfold State.offer State.offerEntry; split <;> rfl
@[simp] theorem State.offer_host : (s.offer code origin a0 a1 a2).host = s.host := by
  unfold State.offer State.offerEntry; split <;> rfl
@[simp] theorem State.offer_casc : (s.offer code origin a0 a1 a2).casc = s.casc := by
  unfold State.offer State.offerEntry; split <;> rfl
@[simp] theorem State.offer_alm : (s.offer code origin a0 a1 a2).alm = s.alm := by
  unfold State.offer State.offerEntry; split <;> rfl
@[simp] theorem State.offer_bk : (s.offer code origin a0 a1 a2).bk = s.bk := by
  unfold State.offer State.offerEntry; split <;> rfl
@[simp] theorem State.offer_optn : (s.offer code origin a0 a1 a2).optn = s.optn := by
  unfold State.offer State.offerEntry; split <;> rfl
@[simp] theorem State.offer_boot : (s.offer code origin a0 a1 a2).boot = s.boot := by
  unfold State.offer State.offerEntry; split <;> rfl
@[simp] theorem State.offer_upset : (s.offer code origin a0 a1 a2).upset = s.upset := by
  unfold State.offer State.offerEntry; split <;> rfl
@[simp] theorem State.offer_frz : (s.offer code origin a0 a1 a2).frz = s.frz := by
  unfold State.offer State.offerEntry; split <;> rfl
@[simp] theorem State.offer_src : (s.offer code origin a0 a1 a2).src = s.src := by
  unfold State.offer State.offerEntry; split <;> rfl
@[simp] theorem State.offer_spRdata : (s.offer code origin a0 a1 a2).spRdata = s.spRdata := by
  unfold State.offer State.offerEntry; split <;> rfl
@[simp] theorem State.offer_spErr : (s.offer code origin a0 a1 a2).spErr = s.spErr := by
  unfold State.offer State.offerEntry; split <;> rfl
@[simp] theorem State.offer_freeCtr : (s.offer code origin a0 a1 a2).freeCtr = s.freeCtr := by
  unfold State.offer State.offerEntry; split <;> rfl
@[simp] theorem State.offer_fab : (s.offer code origin a0 a1 a2).fab = s.fab := by
  unfold State.offer State.offerEntry; split <;> rfl
@[simp] theorem State.offer_pending : (s.offer code origin a0 a1 a2).pending = s.pending := by
  unfold State.offer State.offerEntry; split <;> rfl
@[simp] theorem State.offer_reg (o : Nat) : (s.offer code origin a0 a1 a2).reg o = s.reg o := by
  unfold State.offer State.offerEntry; split <;> rfl
@[simp] theorem State.offer_fld (o lo len : Nat) : (s.offer code origin a0 a1 a2).fld o lo len = s.fld o lo len := by
  unfold State.offer State.offerEntry; split <;> rfl
@[simp] theorem State.offer_bit (o i : Nat) : (s.offer code origin a0 a1 a2).bit o i = s.bit o i := by
  unfold State.offer State.offerEntry; split <;> rfl
@[simp] theorem State.offer_stg (o : Nat) : (s.offer code origin a0 a1 a2).stg o = s.stg o := by
  unfold State.offer State.offerEntry; split <;> rfl
@[simp] theorem State.offer_core (i : Nat) : (s.offer code origin a0 a1 a2).core i = s.core i := by
  unfold State.offer State.offerEntry; split <;> rfl
@[simp] theorem State.offer_thr (i : Nat) : (s.offer code origin a0 a1 a2).thr i = s.thr i := by
  unfold State.offer State.offerEntry; split <;> rfl
@[simp] theorem State.offer_port (i : Nat) : (s.offer code origin a0 a1 a2).port i = s.port i := by
  unfold State.offer State.offerEntry; split <;> rfl
@[simp] theorem State.offer_chEnd (i : Nat) : (s.offer code origin a0 a1 a2).chEnd i = s.chEnd i := by
  unfold State.offer State.offerEntry; split <;> rfl
@[simp] theorem State.offer_engine (i : Nat) : (s.offer code origin a0 a1 a2).engine i = s.engine i := by
  unfold State.offer State.offerEntry; split <;> rfl
@[simp] theorem State.offer_chan (i : Nat) : (s.offer code origin a0 a1 a2).chan i = s.chan i := by
  unfold State.offer State.offerEntry; split <;> rfl
@[simp] theorem State.offer_bank (i : Nat) : (s.offer code origin a0 a1 a2).bank i = s.bank i := by
  unfold State.offer State.offerEntry; split <;> rfl
@[simp] theorem State.offer_timer (i : Nat) : (s.offer code origin a0 a1 a2).timer i = s.timer i := by
  unfold State.offer State.offerEntry; split <;> rfl
@[simp] theorem State.offer_free : (s.offer code origin a0 a1 a2).free  = s.free := by
  unfold State.offer State.offerEntry; split <;> rfl
end offer

section offerAt
variable (s : State) (tb code : Nat) (origin a0 a1 a2 : Word)
/-- A Moraine offer writes the recorder alone. -/
theorem State.offerAt_eq : ∃ m, s.offerAt tb code origin a0 a1 a2 = { s with mor := m } := by
  unfold State.offerAt State.offerEntry; split
  · exact ⟨s.mor, rfl⟩
  · exact ⟨_, rfl⟩
@[simp] theorem State.offerAt_clk : (s.offerAt tb code origin a0 a1 a2).clk = s.clk := by
  unfold State.offerAt State.offerEntry; split <;> rfl
@[simp] theorem State.offerAt_regs : (s.offerAt tb code origin a0 a1 a2).regs = s.regs := by
  unfold State.offerAt State.offerEntry; split <;> rfl
@[simp] theorem State.offerAt_staged : (s.offerAt tb code origin a0 a1 a2).staged = s.staged := by
  unfold State.offerAt State.offerEntry; split <;> rfl
@[simp] theorem State.offerAt_dirty : (s.offerAt tb code origin a0 a1 a2).dirty = s.dirty := by
  unfold State.offerAt State.offerEntry; split <;> rfl
@[simp] theorem State.offerAt_regionLive : (s.offerAt tb code origin a0 a1 a2).regionLive = s.regionLive := by
  unfold State.offerAt State.offerEntry; split <;> rfl
@[simp] theorem State.offerAt_regionStaged : (s.offerAt tb code origin a0 a1 a2).regionStaged = s.regionStaged := by
  unfold State.offerAt State.offerEntry; split <;> rfl
@[simp] theorem State.offerAt_cores : (s.offerAt tb code origin a0 a1 a2).cores = s.cores := by
  unfold State.offerAt State.offerEntry; split <;> rfl
@[simp] theorem State.offerAt_threads : (s.offerAt tb code origin a0 a1 a2).threads = s.threads := by
  unfold State.offerAt State.offerEntry; split <;> rfl
@[simp] theorem State.offerAt_ports : (s.offerAt tb code origin a0 a1 a2).ports = s.ports := by
  unfold State.offerAt State.offerEntry; split <;> rfl
@[simp] theorem State.offerAt_ends : (s.offerAt tb code origin a0 a1 a2).ends = s.ends := by
  unfold State.offerAt State.offerEntry; split <;> rfl
@[simp] theorem State.offerAt_engines : (s.offerAt tb code origin a0 a1 a2).engines = s.engines := by
  unfold State.offerAt State.offerEntry; split <;> rfl
@[simp] theorem State.offerAt_chans : (s.offerAt tb code origin a0 a1 a2).chans = s.chans := by
  unfold State.offerAt State.offerEntry; split <;> rfl
@[simp] theorem State.offerAt_banks : (s.offerAt tb code origin a0 a1 a2).banks = s.banks := by
  unfold State.offerAt State.offerEntry; split <;> rfl
@[simp] theorem State.offerAt_sideband : (s.offerAt tb code origin a0 a1 a2).sideband = s.sideband := by
  unfold State.offerAt State.offerEntry; split <;> rfl
@[simp] theorem State.offerAt_timers : (s.offerAt tb code origin a0 a1 a2).timers = s.timers := by
  unfold State.offerAt State.offerEntry; split <;> rfl
@[simp] theorem State.offerAt_mem : (s.offerAt tb code origin a0 a1 a2).mem = s.mem := by
  unfold State.offerAt State.offerEntry; split <;> rfl
@[simp] theorem State.offerAt_flash : (s.offerAt tb code origin a0 a1 a2).flash = s.flash := by
  unfold State.offerAt State.offerEntry; split <;> rfl
@[simp] theorem State.offerAt_opt : (s.offerAt tb code origin a0 a1 a2).opt = s.opt := by
  unfold State.offerAt State.offerEntry; split <;> rfl
@[simp] theorem State.offerAt_fp : (s.offerAt tb code origin a0 a1 a2).fp = s.fp := by
  unfold State.offerAt State.offerEntry; split <;> rfl
@[simp] theorem State.offerAt_gd : (s.offerAt tb code origin a0 a1 a2).gd = s.gd := by
  unfold State.offerAt State.offerEntry; split <;> rfl
@[simp] theorem State.offerAt_meas : (s.offerAt tb code origin a0 a1 a2).meas = s.meas := by
  unfold State.offerAt State.offerEntry; split <;> rfl
@[simp] theorem State.offerAt_dbg : (s.offerAt tb code origin a0 a1 a2).dbg = s.dbg := by
  unfold State.offerAt State.offerEntry; split <;> rfl
@[simp] theorem State.offerAt_host : (s.offerAt tb code origin a0 a1 a2).host = s.host := by
  unfold State.offerAt State.offerEntry; split <;> rfl
@[simp] theorem State.offerAt_casc : (s.offerAt tb code origin a0 a1 a2).casc = s.casc := by
  unfold State.offerAt State.offerEntry; split <;> rfl
@[simp] theorem State.offerAt_alm : (s.offerAt tb code origin a0 a1 a2).alm = s.alm := by
  unfold State.offerAt State.offerEntry; split <;> rfl
@[simp] theorem State.offerAt_bk : (s.offerAt tb code origin a0 a1 a2).bk = s.bk := by
  unfold State.offerAt State.offerEntry; split <;> rfl
@[simp] theorem State.offerAt_optn : (s.offerAt tb code origin a0 a1 a2).optn = s.optn := by
  unfold State.offerAt State.offerEntry; split <;> rfl
@[simp] theorem State.offerAt_boot : (s.offerAt tb code origin a0 a1 a2).boot = s.boot := by
  unfold State.offerAt State.offerEntry; split <;> rfl
@[simp] theorem State.offerAt_upset : (s.offerAt tb code origin a0 a1 a2).upset = s.upset := by
  unfold State.offerAt State.offerEntry; split <;> rfl
@[simp] theorem State.offerAt_frz : (s.offerAt tb code origin a0 a1 a2).frz = s.frz := by
  unfold State.offerAt State.offerEntry; split <;> rfl
@[simp] theorem State.offerAt_src : (s.offerAt tb code origin a0 a1 a2).src = s.src := by
  unfold State.offerAt State.offerEntry; split <;> rfl
@[simp] theorem State.offerAt_spRdata : (s.offerAt tb code origin a0 a1 a2).spRdata = s.spRdata := by
  unfold State.offerAt State.offerEntry; split <;> rfl
@[simp] theorem State.offerAt_spErr : (s.offerAt tb code origin a0 a1 a2).spErr = s.spErr := by
  unfold State.offerAt State.offerEntry; split <;> rfl
@[simp] theorem State.offerAt_freeCtr : (s.offerAt tb code origin a0 a1 a2).freeCtr = s.freeCtr := by
  unfold State.offerAt State.offerEntry; split <;> rfl
@[simp] theorem State.offerAt_fab : (s.offerAt tb code origin a0 a1 a2).fab = s.fab := by
  unfold State.offerAt State.offerEntry; split <;> rfl
@[simp] theorem State.offerAt_pending : (s.offerAt tb code origin a0 a1 a2).pending = s.pending := by
  unfold State.offerAt State.offerEntry; split <;> rfl
@[simp] theorem State.offerAt_reg (o : Nat) : (s.offerAt tb code origin a0 a1 a2).reg o = s.reg o := by
  unfold State.offerAt State.offerEntry; split <;> rfl
@[simp] theorem State.offerAt_fld (o lo len : Nat) : (s.offerAt tb code origin a0 a1 a2).fld o lo len = s.fld o lo len := by
  unfold State.offerAt State.offerEntry; split <;> rfl
@[simp] theorem State.offerAt_bit (o i : Nat) : (s.offerAt tb code origin a0 a1 a2).bit o i = s.bit o i := by
  unfold State.offerAt State.offerEntry; split <;> rfl
@[simp] theorem State.offerAt_stg (o : Nat) : (s.offerAt tb code origin a0 a1 a2).stg o = s.stg o := by
  unfold State.offerAt State.offerEntry; split <;> rfl
@[simp] theorem State.offerAt_core (i : Nat) : (s.offerAt tb code origin a0 a1 a2).core i = s.core i := by
  unfold State.offerAt State.offerEntry; split <;> rfl
@[simp] theorem State.offerAt_thr (i : Nat) : (s.offerAt tb code origin a0 a1 a2).thr i = s.thr i := by
  unfold State.offerAt State.offerEntry; split <;> rfl
@[simp] theorem State.offerAt_port (i : Nat) : (s.offerAt tb code origin a0 a1 a2).port i = s.port i := by
  unfold State.offerAt State.offerEntry; split <;> rfl
@[simp] theorem State.offerAt_chEnd (i : Nat) : (s.offerAt tb code origin a0 a1 a2).chEnd i = s.chEnd i := by
  unfold State.offerAt State.offerEntry; split <;> rfl
@[simp] theorem State.offerAt_engine (i : Nat) : (s.offerAt tb code origin a0 a1 a2).engine i = s.engine i := by
  unfold State.offerAt State.offerEntry; split <;> rfl
@[simp] theorem State.offerAt_chan (i : Nat) : (s.offerAt tb code origin a0 a1 a2).chan i = s.chan i := by
  unfold State.offerAt State.offerEntry; split <;> rfl
@[simp] theorem State.offerAt_bank (i : Nat) : (s.offerAt tb code origin a0 a1 a2).bank i = s.bank i := by
  unfold State.offerAt State.offerEntry; split <;> rfl
@[simp] theorem State.offerAt_timer (i : Nat) : (s.offerAt tb code origin a0 a1 a2).timer i = s.timer i := by
  unfold State.offerAt State.offerEntry; split <;> rfl
@[simp] theorem State.offerAt_free : (s.offerAt tb code origin a0 a1 a2).free  = s.free := by
  unfold State.offerAt State.offerEntry; split <;> rfl
end offerAt

section refuse
variable (s : State) (sr : Src) (off code : Nat) (detail : Word)
@[simp] theorem State.refuse_clk : (s.refuse sr off code detail).clk = s.clk := by
  rw [State.refuse, State.offer_clk]
@[simp] theorem State.refuse_regs : (s.refuse sr off code detail).regs = s.regs := by
  rw [State.refuse, State.offer_regs]
@[simp] theorem State.refuse_staged : (s.refuse sr off code detail).staged = s.staged := by
  rw [State.refuse, State.offer_staged]
@[simp] theorem State.refuse_dirty : (s.refuse sr off code detail).dirty = s.dirty := by
  rw [State.refuse, State.offer_dirty]
@[simp] theorem State.refuse_regionLive : (s.refuse sr off code detail).regionLive = s.regionLive := by
  rw [State.refuse, State.offer_regionLive]
@[simp] theorem State.refuse_regionStaged : (s.refuse sr off code detail).regionStaged = s.regionStaged := by
  rw [State.refuse, State.offer_regionStaged]
@[simp] theorem State.refuse_cores : (s.refuse sr off code detail).cores = s.cores := by
  rw [State.refuse, State.offer_cores]
@[simp] theorem State.refuse_threads : (s.refuse sr off code detail).threads = s.threads := by
  rw [State.refuse, State.offer_threads]
@[simp] theorem State.refuse_ports : (s.refuse sr off code detail).ports = s.ports := by
  rw [State.refuse, State.offer_ports]
@[simp] theorem State.refuse_ends : (s.refuse sr off code detail).ends = s.ends := by
  rw [State.refuse, State.offer_ends]
@[simp] theorem State.refuse_engines : (s.refuse sr off code detail).engines = s.engines := by
  rw [State.refuse, State.offer_engines]
@[simp] theorem State.refuse_chans : (s.refuse sr off code detail).chans = s.chans := by
  rw [State.refuse, State.offer_chans]
@[simp] theorem State.refuse_banks : (s.refuse sr off code detail).banks = s.banks := by
  rw [State.refuse, State.offer_banks]
@[simp] theorem State.refuse_sideband : (s.refuse sr off code detail).sideband = s.sideband := by
  rw [State.refuse, State.offer_sideband]
@[simp] theorem State.refuse_timers : (s.refuse sr off code detail).timers = s.timers := by
  rw [State.refuse, State.offer_timers]
@[simp] theorem State.refuse_mem : (s.refuse sr off code detail).mem = s.mem := by
  rw [State.refuse, State.offer_mem]
@[simp] theorem State.refuse_flash : (s.refuse sr off code detail).flash = s.flash := by
  rw [State.refuse, State.offer_flash]
@[simp] theorem State.refuse_opt : (s.refuse sr off code detail).opt = s.opt := by
  rw [State.refuse, State.offer_opt]
@[simp] theorem State.refuse_fp : (s.refuse sr off code detail).fp = s.fp := by
  rw [State.refuse, State.offer_fp]
@[simp] theorem State.refuse_gd : (s.refuse sr off code detail).gd = s.gd := by
  rw [State.refuse, State.offer_gd]
@[simp] theorem State.refuse_meas : (s.refuse sr off code detail).meas = s.meas := by
  rw [State.refuse, State.offer_meas]
@[simp] theorem State.refuse_dbg : (s.refuse sr off code detail).dbg = s.dbg := by
  rw [State.refuse, State.offer_dbg]
@[simp] theorem State.refuse_host : (s.refuse sr off code detail).host = s.host := by
  rw [State.refuse, State.offer_host]
@[simp] theorem State.refuse_casc : (s.refuse sr off code detail).casc = s.casc := by
  rw [State.refuse, State.offer_casc]
@[simp] theorem State.refuse_alm : (s.refuse sr off code detail).alm = s.alm := by
  rw [State.refuse, State.offer_alm]
@[simp] theorem State.refuse_bk : (s.refuse sr off code detail).bk = s.bk := by
  rw [State.refuse, State.offer_bk]
@[simp] theorem State.refuse_optn : (s.refuse sr off code detail).optn = s.optn := by
  rw [State.refuse, State.offer_optn]
@[simp] theorem State.refuse_boot : (s.refuse sr off code detail).boot = s.boot := by
  rw [State.refuse, State.offer_boot]
@[simp] theorem State.refuse_upset : (s.refuse sr off code detail).upset = s.upset := by
  rw [State.refuse, State.offer_upset]
@[simp] theorem State.refuse_src : (s.refuse sr off code detail).src = s.src := by
  rw [State.refuse, State.offer_src]
@[simp] theorem State.refuse_spRdata : (s.refuse sr off code detail).spRdata = s.spRdata := by
  rw [State.refuse, State.offer_spRdata]
@[simp] theorem State.refuse_spErr : (s.refuse sr off code detail).spErr = s.spErr := by
  rw [State.refuse, State.offer_spErr]
@[simp] theorem State.refuse_freeCtr : (s.refuse sr off code detail).freeCtr = s.freeCtr := by
  rw [State.refuse, State.offer_freeCtr]
@[simp] theorem State.refuse_fab : (s.refuse sr off code detail).fab = s.fab := by
  rw [State.refuse, State.offer_fab]
@[simp] theorem State.refuse_pending : (s.refuse sr off code detail).pending = s.pending := by
  rw [State.refuse, State.offer_pending]
/-- R310: REASON and REASON_DETAIL after a refusal. -/
@[simp] theorem State.refuse_frz : (s.refuse sr off code detail).frz =
    { s.frz with reason := reasonWord sr s.frz.reason code, reasonDetail := detail } := by
  rw [State.refuse, State.offer_frz]
@[simp] theorem State.refuse_reg (o : Nat) : (s.refuse sr off code detail).reg o = s.reg o := by
  unfold State.reg; rw [State.refuse_regs]
@[simp] theorem State.refuse_fld (o lo len : Nat) : (s.refuse sr off code detail).fld o lo len = s.fld o lo len := by
  unfold State.fld State.reg; rw [State.refuse_regs]
@[simp] theorem State.refuse_bit (o i : Nat) : (s.refuse sr off code detail).bit o i = s.bit o i := by
  unfold State.bit State.reg; rw [State.refuse_regs]
@[simp] theorem State.refuse_stg (o : Nat) : (s.refuse sr off code detail).stg o = s.stg o := by
  unfold State.stg; rw [State.refuse_staged]
@[simp] theorem State.refuse_core (i : Nat) : (s.refuse sr off code detail).core i = s.core i := by
  unfold State.core; rw [State.refuse_cores]
@[simp] theorem State.refuse_thr (i : Nat) : (s.refuse sr off code detail).thr i = s.thr i := by
  unfold State.thr; rw [State.refuse_threads]
@[simp] theorem State.refuse_port (i : Nat) : (s.refuse sr off code detail).port i = s.port i := by
  unfold State.port; rw [State.refuse_ports]
@[simp] theorem State.refuse_chEnd (i : Nat) : (s.refuse sr off code detail).chEnd i = s.chEnd i := by
  unfold State.chEnd; rw [State.refuse_ends]
@[simp] theorem State.refuse_engine (i : Nat) : (s.refuse sr off code detail).engine i = s.engine i := by
  unfold State.engine; rw [State.refuse_engines]
@[simp] theorem State.refuse_chan (i : Nat) : (s.refuse sr off code detail).chan i = s.chan i := by
  unfold State.chan; rw [State.refuse_chans]
@[simp] theorem State.refuse_bank (i : Nat) : (s.refuse sr off code detail).bank i = s.bank i := by
  unfold State.bank; rw [State.refuse_banks]
@[simp] theorem State.refuse_timer (i : Nat) : (s.refuse sr off code detail).timer i = s.timer i := by
  unfold State.timer; rw [State.refuse_timers]
@[simp] theorem State.refuse_free : (s.refuse sr off code detail).free  = s.free := by
  unfold State.free; rw [State.refuse_freeCtr]
end refuse

end Sys2Proof.Machine
end

