-- ==== Sys2Proof/Laws/Issue.lean ====
section
/-! SUPPORT. Landing writes and the issue of an instruction: what a thread reads once its writes have landed, and what a Strand row does
in terms of the slot it takes. -/
namespace Sys2Proof.Machine

/-! ## Landing writes -/

theorem ite_land (p : Prop) [Decidable p] (x y : Thread) (l : List (Nat × LandW)) :
    (if p then { x with land := l } else { y with land := l }) = { (if p then x else y) with land := l } := by
  by_cases h : p
  · rw [if_pos h, if_pos h]
  · rw [if_neg h, if_neg h]

theorem srWrite_land (t : Thread) (l : List (Nat × LandW)) (k : Nat) (v : Word) :
    srWrite { t with land := l } k v = { srWrite t k v with land := l } := by
  unfold srWrite
  split <;> first
    | rfl
    | exact ite_land (t.st = .idle ∧ t.wakeable = true ∧ (t.pend.any fun p => (v.truncate 8).getLsbD (p.1 - 0x10)) = true)
        { t with even := v.truncate 8, st := t.prev, wakeable := false } { t with even := v.truncate 8 } l

theorem landOne_land (t : Thread) (l : List (Nat × LandW)) (w : LandW) :
    landOne { t with land := l } w = { landOne t w with land := l } := by
  cases w <;> first | rfl | exact srWrite_land t l _ _

theorem settleList_landIns (r : Nat) (w : LandW) (l : List (Nat × LandW)) :
    ∀ t, settleList r (landIns r w l) t = landOne (settleList r l t) w := by
  induction l with
  | nil => intro t; simp [landIns, settleList, landOne_land]
  | cons p l ih =>
    intro t
    obtain ⟨q, u⟩ := p
    by_cases h : r < q
    · simp [landIns, h, settleList, Nat.not_le.mpr h, landOne_land]
    · simp [landIns, h, settleList, Nat.le_of_not_lt h, ih]

theorem settleList_anyLand (r : Nat) (l : List (Nat × LandW)) :
    ∀ (L : List (Nat × LandW)) (t : Thread), settleList r l { t with land := L } = settleList r l t := by
  induction l with
  | nil => intro L t; rfl
  | cons p l ih =>
    intro L t
    obtain ⟨q, u⟩ := p
    unfold settleList
    split
    · rw [landOne_land, ih]
    · rfl

/-- R86: writes that land in round `r` have been made, in order and after the older ones, for whoever reads in round `r`. -/
theorem Thread.settle_lands (r : Nat) (ws : List LandW) : ∀ t : Thread, (t.lands r ws).settle r = ws.foldl landOne (t.settle r) := by
  induction ws with
  | nil => intro t; rfl
  | cons w ws ih =>
    intro t
    rw [Thread.lands, ih, List.foldl_cons]
    congr 1
    show settleList r (landIns r w t.land) _ = _
    rw [settleList_anyLand, settleList_landIns]
    rfl

theorem settleList_field {α : Type} (f : Thread → α) (g : α → LandW → α) (hg : ∀ t w, f (landOne t w) = g (f t) w)
    (hl : ∀ (t : Thread) l, f { t with land := l } = f t) (r : Nat) (l : List (Nat × LandW)) :
    ∀ t u : Thread, f t = f u → f (settleList r l t) = f (settleList r l u) := by
  induction l with
  | nil => intro t u h; simp only [settleList, hl, h]
  | cons p l ih =>
    intro t u h
    obtain ⟨q, w⟩ := p
    unfold settleList
    split
    · exact ih _ _ (by rw [hg, hg, h])
    · simp only [hl, h]

/-- The value of a register that its landing writes alone determine does not depend on the rest of the thread. -/
theorem Thread.settle_field {α : Type} (f : Thread → α) (g : α → LandW → α) (hg : ∀ t w, f (landOne t w) = g (f t) w)
    (hl : ∀ (t : Thread) l, f { t with land := l } = f t) {t u : Thread} (r : Nat) (h1 : t.land = u.land) (h : f t = f u) :
    f (t.settle r) = f (u.settle r) := by
  unfold Thread.settle
  rw [h1]
  exact settleList_field f g hg hl r _ _ _ h

theorem landOne_a (t : Thread) (w : LandW) : (landOne t w).a = match w with
    | .a v => v
    | _ => t.a := by
  cases w <;> first | rfl | (dsimp only [landOne]; unfold srWrite; split <;> first | rfl | (dsimp only; split <;> rfl))

theorem landOne_x (t : Thread) (w : LandW) : (landOne t w).x = match w with
    | .x v => v
    | _ => t.x := by
  cases w <;> first | rfl | (dsimp only [landOne]; unfold srWrite; split <;> first | rfl | (dsimp only; split <;> rfl))

theorem landOne_y (t : Thread) (w : LandW) : (landOne t w).y = match w with
    | .y v => v
    | _ => t.y := by
  cases w <;> first | rfl | (dsimp only [landOne]; unfold srWrite; split <;> first | rfl | (dsimp only; split <;> rfl))


theorem landOne_fl (t : Thread) (w : LandW) : (landOne t w).fl = match w with
    | .fl m v => (t.fl &&& ~~~m) ||| (v &&& m)
    | .sr 0 v => v.truncate 6
    | _ => t.fl := by
  cases w <;> first
    | rfl
    | (dsimp only [landOne]; unfold srWrite; split <;> first | rfl | (dsimp only; split <;> rfl) | (split <;> simp_all))

theorem landOne_wt (t : Thread) (w : LandW) : (landOne t w).wt = match w with
    | .wt v => v
    | .sr 5 v => setBits t.wt 0 32 v.toNat
    | .sr 6 v => setBits t.wt 32 32 v.toNat
    | _ => t.wt := by
  cases w <;> first
    | rfl
    | (dsimp only [landOne]; unfold srWrite; split <;> first | rfl | (dsimp only; split <;> rfl) | (split <;> simp_all))

theorem landOne_arm (t : Thread) (w : LandW) : (landOne t w).arm = match w with
    | .arm v => v
    | .sr 7 v => v.getLsbD 0
    | _ => t.arm := by
  cases w <;> first
    | rfl
    | (dsimp only [landOne]; unfold srWrite; split <;> first | rfl | (dsimp only; split <;> rfl) | (split <;> simp_all))


theorem Thread.settle_a {t u : Thread} (r : Nat) (h1 : t.land = u.land) (h : t.a = u.a) : (t.settle r).a = (u.settle r).a :=
  Thread.settle_field (fun t => t.a) (fun old w => match w with
    | .a v => v
    | _ => old) (fun t w => landOne_a t w) (fun _ _ => rfl) r h1 h

theorem Thread.settle_x {t u : Thread} (r : Nat) (h1 : t.land = u.land) (h : t.x = u.x) : (t.settle r).x = (u.settle r).x :=
  Thread.settle_field (fun t => t.x) (fun old w => match w with
    | .x v => v
    | _ => old) (fun t w => landOne_x t w) (fun _ _ => rfl) r h1 h

theorem Thread.settle_y {t u : Thread} (r : Nat) (h1 : t.land = u.land) (h : t.y = u.y) : (t.settle r).y = (u.settle r).y :=
  Thread.settle_field (fun t => t.y) (fun old w => match w with
    | .y v => v
    | _ => old) (fun t w => landOne_y t w) (fun _ _ => rfl) r h1 h

theorem Thread.settle_fl {t u : Thread} (r : Nat) (h1 : t.land = u.land) (h : t.fl = u.fl) : (t.settle r).fl = (u.settle r).fl :=
  Thread.settle_field (fun t => t.fl) (fun old w => match w with
    | .fl m v => (old &&& ~~~m) ||| (v &&& m)
    | .sr 0 v => v.truncate 6
    | _ => old) (fun t w => landOne_fl t w) (fun _ _ => rfl) r h1 h

theorem Thread.settle_wt {t u : Thread} (r : Nat) (h1 : t.land = u.land) (h : t.wt = u.wt) : (t.settle r).wt = (u.settle r).wt :=
  Thread.settle_field (fun t => t.wt) (fun old w => match w with
    | .wt v => v
    | .sr 5 v => setBits old 0 32 v.toNat
    | .sr 6 v => setBits old 32 32 v.toNat
    | _ => old) (fun t w => landOne_wt t w) (fun _ _ => rfl) r h1 h

theorem Thread.settle_arm {t u : Thread} (r : Nat) (h1 : t.land = u.land) (h : t.arm = u.arm) : (t.settle r).arm = (u.settle r).arm :=
  Thread.settle_field (fun t => t.arm) (fun old w => match w with
    | .arm v => v
    | .sr 7 v => v.getLsbD 0
    | _ => old) (fun t w => landOne_arm t w) (fun _ _ => rfl) r h1 h

theorem Thread.settle_land_eq {t u : Thread} (r : Nat) (h1 : t.land = u.land) : (t.settle r).land = (u.settle r).land := by
  have h : ∀ (l : List (Nat × LandW)) (t u : Thread), (settleList r l t).land = (settleList r l u).land := by
    intro l
    induction l with
    | nil => intro t u; rfl
    | cons p l ih =>
      intro t u
      obtain ⟨q, w⟩ := p
      unfold settleList
      split
      · exact ih _ _
      · rfl
  unfold Thread.settle
  rw [h1]
  exact h _ _ _

/-- Reading in a later round makes what has landed by then, whatever was read before. -/
theorem Thread.settle_settle {a b : Nat} (h : a ≤ b) (t : Thread) : (t.settle a).settle b = t.settle b := by
  have k : ∀ (l : List (Nat × LandW)) (t : Thread), settleList b (settleList a l t).land (settleList a l t) = settleList b l t := by
    intro l
    induction l with
    | nil => intro t; rfl
    | cons p l ih =>
      intro t
      obtain ⟨q, w⟩ := p
      by_cases hq : q ≤ a
      · simp only [settleList, hq, if_true, ih, Nat.le_trans hq h]
      · simp only [settleList, hq, if_false]
        split
        · rw [landOne_land]
          exact settleList_anyLand _ _ _ _
        · rfl
  exact k t.land t


/-! ## Threads that read alike -/

/-- Two threads whose registers will read alike in every round: they differ in neither the registers nor the landing writes. -/
structure Thread.Alike (t u : Thread) : Prop where
  land : t.land = u.land
  a : t.a = u.a
  x : t.x = u.x
  y : t.y = u.y
  fl : t.fl = u.fl
  wt : t.wt = u.wt
  arm : t.arm = u.arm

theorem Thread.Alike.refl (t : Thread) : t.Alike t := ⟨rfl, rfl, rfl, rfl, rfl, rfl, rfl⟩

theorem Thread.Alike.trans {t u v : Thread} (h : t.Alike u) (k : u.Alike v) : t.Alike v :=
  ⟨h.1.trans k.1, h.2.trans k.2, h.3.trans k.3, h.4.trans k.4, h.5.trans k.5, h.6.trans k.6, h.7.trans k.7⟩

theorem Thread.Alike.settle {t u : Thread} (h : t.Alike u) (r : Nat) : (t.settle r).Alike (u.settle r) :=
  ⟨Thread.settle_land_eq r h.1, Thread.settle_a r h.1 h.2, Thread.settle_x r h.1 h.3, Thread.settle_y r h.1 h.4,
    Thread.settle_fl r h.1 h.5, Thread.settle_wt r h.1 h.6, Thread.settle_arm r h.1 h.7⟩

/-- R117: what the end of a loop changes is the loop counts. -/
theorem loopNext_lc (pc : Word) : ∀ (k : Nat) (t : Thread), ∃ l, (loopNext pc k t).1 = { t with lc := l }
  | 0, t => ⟨t.lc, rfl⟩
  | k + 1, t => by
    unfold loopNext
    dsimp only
    split
    · exact loopNext_lc pc k t
    · split
      · obtain ⟨l, h⟩ := loopNext_lc pc k { t with lc := tabSet 0 t.lc k 0 }
        exact ⟨l, h⟩
      · exact ⟨_, rfl⟩

/-! ## What an instruction leaves alone -/

/-- An instruction that goes on in sequence writes its own thread alone: its registers as the landing writes say, its PC, its loop
counts and its fetch buffer. -/
theorem Ctx.fin_spec (c : Ctx) (ws : List LandW) (s : State) :
    ∃ th, c.fin ws s = s.setThr c.g th ∧ th.Alike ((s.thr c.g).lands (c.r + 6) ws) ∧ th.entry = ((s.thr c.g).lands (c.r + 6) ws).entry := by
  unfold Ctx.fin
  obtain ⟨l, h⟩ := loopNext_lc c.pc 3 ((s.thr c.g).lands (c.r + 6) ws)
  generalize hq : loopNext c.pc 3 ((s.thr c.g).lands (c.r + 6) ws) = q at h
  obtain ⟨th, nx⟩ := q
  dsimp only at h ⊢
  subst h
  simp only [hq]
  cases nx with
  | none => exact ⟨_, rfl, ⟨rfl, rfl, rfl, rfl, rfl, rfl, rfl⟩, rfl⟩
  | some b => exact ⟨_, rfl, ⟨rfl, rfl, rfl, rfl, rfl, rfl, rfl⟩, rfl⟩


@[simp] theorem State.dbgEnd_thr (s : State) (k i : Nat) : (s.dbgEnd k).thr i = s.thr i := by
  unfold State.dbgEnd
  split
  · rfl
  · rw [State.offer_thr]; rfl

@[simp] theorem State.dbgEnd_mem (s : State) (k : Nat) : (s.dbgEnd k).mem = s.mem := by
  unfold State.dbgEnd
  split
  · rfl
  · rw [State.offer_mem]

theorem State.thr_setThr (s : State) (g i : Nat) (t : Thread) : (s.setThr g t).thr i = if g = i then t else s.thr i :=
  tabGet_tabSet _ _ _ _ _

/-- R442: the end of a step leaves every register of every thread as it was. -/
theorem State.endStep_alike (s : State) (g i : Nat) : ((s.endStep g).thr i).Alike (s.thr i) := by
  unfold State.endStep
  split
  · rw [State.dbgEnd_thr, State.thr_setThr]
    split
    · subst_vars; exact ⟨rfl, rfl, rfl, rfl, rfl, rfl, rfl⟩
    · exact .refl _
  · exact .refl _

theorem State.stepDone_alike (s : State) (n t i : Nat) : ((s.stepDone n t).thr i).Alike (s.thr i) := by
  unfold State.stepDone
  dsimp only
  split
  · refine (State.endStep_alike _ _ _).trans ?_
    rw [State.thr_setThr]
    split
    · subst_vars; exact ⟨rfl, rfl, rfl, rfl, rfl, rfl, rfl⟩
    · exact .refl _
  · exact .refl _

theorem State.stepDone_off {s : State} {n t : Nat} (h : (s.thr (n * 16 + t)).stepping = false) : s.stepDone n t = s := by
  unfold State.stepDone
  simp [h]

@[simp] theorem State.endStep_mem (s : State) (g : Nat) : (s.endStep g).mem = s.mem := by
  unfold State.endStep
  split <;> simp

@[simp] theorem State.stepDone_mem (s : State) (n t : Nat) : (s.stepDone n t).mem = s.mem := by
  unfold State.stepDone
  dsimp only
  split <;> simp

/-! ## The slot an instruction takes -/

@[simp] theorem State.askAt_thr (s : State) (n t a i : Nat) : (s.askAt n t a).thr i = s.thr i := by
  unfold State.askAt
  split <;> simp

@[simp] theorem State.askAt_regs (s : State) (n t a : Nat) : (s.askAt n t a).regs = s.regs := by
  unfold State.askAt
  split <;> simp

@[simp] theorem State.ranFrom_thr (s : State) (n t i : Nat) : (s.ranFrom n t).thr i = s.thr i := by
  unfold State.ranFrom
  dsimp only
  repeat' split
  all_goals simp

@[simp] theorem State.ranFrom_regs (s : State) (n t : Nat) : (s.ranFrom n t).regs = s.regs := by
  unfold State.ranFrom
  dsimp only
  repeat' split
  all_goals simp

theorem Core.ask_before (c : Core) (t l tb : Nat) : (c.ask t l tb).before = c.before := by
  unfold Core.ask
  split <;> rfl

theorem Core.touch_before (c : Core) (l : Nat) : (c.touch l).before = c.before := by
  unfold Core.touch
  split <;> rfl

theorem State.setCore_before (s : State) (n m : Nat) (c : Core) (h : c.before = (s.core n).before) :
    ((s.setCore n c).core m).before = (s.core m).before := by
  by_cases e : n = m
  · subst e; rw [State.setCore_core_self, h]
  · rw [State.setCore_core_ne _ _ _ e]

theorem State.askAt_before (s : State) (n t a m : Nat) : ((s.askAt n t a).core m).before = (s.core m).before := by
  unfold State.askAt
  split
  · exact State.setCore_before _ _ _ _ (Core.ask_before _ _ _ _)
  · rfl

theorem State.ranFrom_before (s : State) (n t m : Nat) : ((s.ranFrom n t).core m).before = (s.core m).before := by
  unfold State.ranFrom
  dsimp only
  split
  · split
    · rw [State.askAt_before, State.setCore_before _ _ _ _ (Core.touch_before _ _)]
    · exact State.setCore_before _ _ _ _ (Core.touch_before _ _)
  · rfl

/-- R101: taking a slot does not change what its round is judged by. -/
theorem State.entered_view (s : State) (n t r lane q : Nat) (use : PortUse) :
    (((s.enterSlot n t r lane use).ranFrom n t).roundView n q).regs = (s.roundView n q).regs := by
  show viewRegs _ _ _ = viewRegs _ _ _
  rw [State.ranFrom_regs, State.ranFrom_before]
  congr 1
  exact State.setCore_before s n n _ rfl

theorem State.slot_ctx {s : State} {n t : Nat} {c : Ctx} {u : State} (h : s.slot n t = some (c, u)) :
    c.n = n ∧ c.t = t ∧ c.th = u.thr (n * 16 + t) ∧ c.pc = (u.thr (n * 16 + t)).pc := by
  unfold State.slot at h
  split at h
  · split at h
    · simp only [Option.some.injEq, Prod.mk.injEq] at h
      obtain ⟨rfl, rfl⟩ := h
      exact ⟨rfl, rfl, rfl, rfl⟩
    · exact absurd h (by simp)
  · exact absurd h (by simp)

/-- R101: the decode checks of a round go by the registers alone. -/
theorem State.decIll_regs {s u : State} (d : SDec) (th : Thread) (h : s.regs = u.regs) : s.decIll d th = u.decIll d th := by
  unfold State.decIll State.uop State.reg
  rw [h]

theorem State.entered_fl (s : State) (n t r lane : Nat) (d : SDec) (use : PortUse) :
    (((s.enterSlot n t r lane use).ranFrom n t).ctx n t r lane d).th.fl = ((s.thr (n * 16 + t)).settle (r + 2)).fl := by
  show (((s.enterSlot n t r lane use).ranFrom n t).thr (n * 16 + t)).fl = _
  rw [State.ranFrom_thr]
  unfold State.enterSlot
  dsimp only
  rw [State.setThr_thr_self]
  rfl

theorem State.entered_decIll (s : State) (n t r lane : Nat) (d : SDec) (use : PortUse) :
    let u := (s.enterSlot n t r lane use).ranFrom n t
    ((u.ctx n t r lane d).view u).decIll d (u.ctx n t r lane d).th = (s.roundView n r).decIll d ((s.thr (n * 16 + t)).settle (r + 2)) := by
  dsimp only
  refine (State.decIll_regs d _ (State.entered_view s n t r lane r use)).trans ?_
  show State.decIll _ d (((s.enterSlot n t r lane use).ranFrom n t).thr (n * 16 + t)) = _
  rw [State.ranFrom_thr]
  unfold State.enterSlot
  dsimp only
  rw [State.setThr_thr_self]
  rfl

/-- An instruction that is past the checks every instruction shares has the effect of its own body. -/
theorem strandBy_runs {s : State} {n t : Nat} {c : Ctx} {u : State} {mn : Mn} (body : Ctx → State → State) (beat : Ctx → Beats → State → State)
    (h : s.slot n t = some (c, u)) (hr : c.runs u mn) : strandBy mn body beat n t s = (body c u).stepDone n t := by
  obtain ⟨h1, h2, h3⟩ := hr
  unfold State.slot at h
  unfold strandBy
  split at h
  case isFalse => exact absurd h (by simp)
  case isTrue hc =>
  simp only [Bool.and_eq_true] at hc
  rw [if_neg (by simp [hc.1, hc.2])]
  split at h
  case h_2 => exact absurd h (by simp)
  case h_1 r lane h0 h1' s1 hf =>
  simp only [Option.some.injEq, Prod.mk.injEq] at h
  obtain ⟨rfl, rfl⟩ := h
  simp only [hf]
  generalize hd : strandDecode h0 h1' = d at *
  have e1 : (s1.roundView n r).decIll d ((s1.thr (n * 16 + t)).settle (r + 2)) = false :=
    (State.entered_decIll s1 n t r lane d _).symm.trans h2
  have e2 : condTrue d.cond ((s1.thr (n * 16 + t)).settle (r + 2)).fl = true := (State.entered_fl s1 n t r lane d _ ▸ h3 :)
  have hd1 : d.mn = mn := h1
  simp only [hd1, ne_eq, not_true, if_false, e1, e2, Bool.false_eq_true, Bool.not_false, Bool.true_and, if_true]

theorem strand_runs {s : State} {n t : Nat} {c : Ctx} {u : State} {mn : Mn} (body : Ctx → State → State)
    (h : s.slot n t = some (c, u)) (hr : c.runs u mn) : strand mn body n t s = (body c u).stepDone n t :=
  strandBy_runs body _ h hr

/-- A later beat of an instruction has its own effect. -/
theorem strandBy_beat {s : State} {n t : Nat} {c : Ctx} {u : State} {b : Beats} (body : Ctx → State → State)
    (beat : Ctx → Beats → State → State) (h : s.beatSlot n t = some (c, b, u)) :
    strandBy c.d.mn body beat n t s = (beat c b u).stepDone n t := by
  unfold State.beatSlot at h
  unfold strandBy
  split at h
  case isFalse => exact absurd h (by simp)
  case isTrue hc =>
  simp only [Bool.and_eq_true] at hc
  rw [if_neg (by simp [hc.1, hc.2])]
  split at h
  case h_2 => exact absurd h (by simp)
  case h_1 r lane m s1 hf =>
  simp only [Option.some.injEq, Prod.mk.injEq] at h
  obtain ⟨rfl, rfl, rfl⟩ := h
  simp only [hf]
  rw [if_neg (by simp [State.ctx])]

/-! ## Landing writes that do not touch a register -/

theorem settleList_landIns_skip {α : Type} (f : Thread → α) (g : α → LandW → α) (hg : ∀ t w, f (landOne t w) = g (f t) w)
    (hl : ∀ (t : Thread) l, f { t with land := l } = f t) (r R : Nat) (w : LandW) (hw : ∀ x, g x w = x) (l : List (Nat × LandW)) :
    ∀ t, f (settleList R (landIns r w l) t) = f (settleList R l t) := by
  induction l with
  | nil =>
    intro t
    simp only [landIns, settleList]
    split
    · rw [hl, hg, hw]; exact (hl _ _).symm
    · rw [hl]; exact (hl _ _).symm
  | cons p l ih =>
    intro t
    obtain ⟨q, v⟩ := p
    simp only [landIns]
    split
    · unfold settleList
      split
      · rw [settleList_field f g hg hl R ((q, v) :: l) (landOne t w) t (by rw [hg, hw])]
        rw [settleList]
      · rw [hl]
        split
        · omega
        · exact (hl _ _).symm
    · unfold settleList
      split
      · exact ih _
      · rw [hl]; exact (hl _ _).symm

theorem Thread.settle_lands_skip {α : Type} (f : Thread → α) (g : α → LandW → α) (hg : ∀ t w, f (landOne t w) = g (f t) w)
    (hl : ∀ (t : Thread) l, f { t with land := l } = f t) (r R : Nat) (ws : List LandW) (hw : ∀ w ∈ ws, ∀ x, g x w = x) :
    ∀ t : Thread, f ((t.lands r ws).settle R) = f (t.settle R) := by
  induction ws with
  | nil => intro t; rfl
  | cons w ws ih =>
    intro t
    rw [Thread.lands, ih (fun v hv => hw v (by simp [hv]))]
    show f (settleList R (landIns r w t.land) _) = f (settleList R t.land t)
    rw [settleList_anyLand]
    exact settleList_landIns_skip f g hg hl r R w (hw w (by simp)) _ _


theorem Thread.settle_lands_a (r R : Nat) (ws : List LandW) (hw : ∀ v, LandW.a v ∉ ws) (t : Thread) :
    ((t.lands r ws).settle R).a = (t.settle R).a :=
  Thread.settle_lands_skip (fun t => t.a) (fun old w => match w with
    | .a v => v
    | _ => old) (fun t w => landOne_a t w) (fun _ _ => rfl) r R ws (fun w h x => by
      cases w <;> first | rfl | exact absurd h (hw _)) t

theorem Thread.settle_lands_x (r R : Nat) (ws : List LandW) (hw : ∀ v, LandW.x v ∉ ws) (t : Thread) :
    ((t.lands r ws).settle R).x = (t.settle R).x :=
  Thread.settle_lands_skip (fun t => t.x) (fun old w => match w with
    | .x v => v
    | _ => old) (fun t w => landOne_x t w) (fun _ _ => rfl) r R ws (fun w h x => by
      cases w <;> first | rfl | exact absurd h (hw _)) t

theorem Thread.settle_lands_y (r R : Nat) (ws : List LandW) (hw : ∀ v, LandW.y v ∉ ws) (t : Thread) :
    ((t.lands r ws).settle R).y = (t.settle R).y :=
  Thread.settle_lands_skip (fun t => t.y) (fun old w => match w with
    | .y v => v
    | _ => old) (fun t w => landOne_y t w) (fun _ _ => rfl) r R ws (fun w h x => by
      cases w <;> first | rfl | exact absurd h (hw _)) t

theorem Thread.settle_lands_fl (r R : Nat) (ws : List LandW) (hw : ∀ m v, LandW.fl m v ∉ ws) (hs : ∀ v, LandW.sr 0 v ∉ ws)
    (t : Thread) : ((t.lands r ws).settle R).fl = (t.settle R).fl :=
  Thread.settle_lands_skip (fun t => t.fl) (fun old w => match w with
    | .fl m v => (old &&& ~~~m) ||| (v &&& m)
    | .sr 0 v => v.truncate 6
    | _ => old) (fun t w => landOne_fl t w) (fun _ _ => rfl) r R ws (fun w h x => by
      cases w with
      | fl m v => exact absurd h (hw _ _)
      | sr k v => by_cases hk : k = 0
                  · subst hk; exact absurd h (hs _)
                  · simp [hk]
      | _ => rfl) t

end Sys2Proof.Machine
end

