-- ==== Sys2Proof/Laws/Alu.lean ====
section
/-! SUPPORT. What a memory-format instruction does to its thread, said once for all of them. -/
namespace Sys2Proof.Machine

@[simp] theorem State.eccNote_thr (s : State) (ue : Bool) (id span addr i : Nat) : (s.eccNote ue id span addr).thr i = s.thr i := by
  unfold State.eccNote
  dsimp only
  rw [State.offer_thr]
  split <;> simp

@[simp] theorem State.readGran_thr (s : State) (id g span addr i : Nat) : (s.readGran id g span addr).2.thr i = s.thr i := by
  unfold State.readGran
  split
  · rfl
  · dsimp only; rw [State.eccNote_thr]; rfl
  · dsimp only; rw [State.eccNote_thr]

@[simp] theorem State.readGrans_thr (s : State) (n a k i : Nat) : (s.readGrans n a k).2.thr i = s.thr i := by
  unfold State.readGrans
  dsimp only
  split <;> simp

/-- R86, R125: the operand has been read in time: the result is on its way, and nothing else of the thread's registers changes. -/
theorem Ctx.operandDone_spec (c : Ctx) (v : Nat) (s : State) (hm : c.d.mn ≠ .mul) :
    (c.operandDone (c.r + 4) v s).thr c.g = c.landed (c.r + 4) (operandRes c.d c.th v) (s.thr c.g) := by
  unfold Ctx.operandDone
  simp only [if_neg hm]
  exact State.setThr_thr_self _ _ _

theorem Thread.lands_alike {t u : Thread} (h : t.Alike u) (r : Nat) (ws : List LandW) : (t.lands r ws).Alike (u.lands r ws) := by
  induction ws generalizing t u with
  | nil => exact h
  | cons w ws ih => exact ih ⟨by simp [h.land], h.a, h.x, h.y, h.fl, h.wt, h.arm⟩

theorem Ctx.landed_alike {t u : Thread} (h : t.Alike u) (c : Ctx) (q : Nat) (ws : List LandW) : (c.landed q ws t).Alike (c.landed q ws u) := by
  unfold Ctx.landed
  dsimp only
  split
  · exact Thread.lands_alike (Thread.lands_alike h _ _) _ _
  · exact Thread.lands_alike h _ _

theorem Ctx.landed_inTime (c : Ctx) (ws : List LandW) (t : Thread) : c.landed (c.r + 4) ws t =
    if isLoad c.d.mn then (t.lands (c.r + 8) (ws.filter fun w => !w.isFlags)).lands (c.r + 6) (ws.filter LandW.isFlags)
    else t.lands (c.r + 6) ws := by
  unfold Ctx.landed
  rw [show max (c.r + 8) (c.r + 4 + 1) = c.r + 8 by omega, show max (c.r + 6) (c.r + 4 + 2) = c.r + 6 by omega]

theorem State.memByte_congr {s u : State} (n : Nat) (hm : s.mem = u.mem) (hb : (s.core n).sb = (u.core n).sb) :
    s.memByte n = u.memByte n := by
  funext a
  unfold State.memByte
  rw [hm, hb]

theorem State.memRead_congr {s u : State} (n : Nat) (hm : s.mem = u.mem) (hb : (s.core n).sb = (u.core n).sb) (a k : Nat) :
    s.memRead n a k = u.memRead n a k := by
  unfold State.memRead
  rw [State.memByte_congr n hm hb]

theorem postMod_direct {d : SDec} (h : d.usesMem = false) (x y : Word) : postMod d x y = [] := by
  unfold SDec.usesMem at h
  unfold postMod
  split <;> simp_all

/-- What a memory-format instruction other than MUL does to its thread once it has its operand (R87, R109, R125). -/
theorem Ctx.memForm_spec (c : Ctx) (u : State) (v : Nat) (h : c.reads u v) (hm : c.d.mn ≠ .mul) :
    ((c.memForm u).thr c.g).Alike
      (if c.d.usesMem then c.landed (c.r + 4) (operandRes c.d c.th v) ((u.thr c.g).lands (c.r + 6) (postMod c.d c.th.x c.th.y))
        else (u.thr c.g).lands (c.r + 6) (operandRes c.d c.th v)) := by
  have fin : ∀ ws, ((c.fin ws u).thr c.g).Alike ((u.thr c.g).lands (c.r + 6) ws) := by
    intro ws
    obtain ⟨th, e, a, _⟩ := c.fin_spec ws u
    rw [e, State.setThr_thr_self]
    exact a
  have dir : ∀ w : Word, c.d.usesMem = false → ((c.direct w u).thr c.g).Alike
      (if c.d.usesMem then c.landed (c.r + 4) (operandRes c.d c.th w.toNat) ((u.thr c.g).lands (c.r + 6) (postMod c.d c.th.x c.th.y))
        else (u.thr c.g).lands (c.r + 6) (operandRes c.d c.th w.toNat)) := by
    intro w hu
    unfold Ctx.direct
    rw [if_neg hm, if_neg (by simp [hu])]
    exact fin _
  unfold Ctx.reads at h
  unfold Ctx.memForm
  split at h
  · rename_i e; rw [e]; subst h; exact dir _ (by simp [SDec.usesMem, e])
  · rename_i e; rw [e]; subst h; exact dir _ (by simp [SDec.usesMem, e])
  · rename_i e; rw [e]; subst h; exact dir _ (by simp [SDec.usesMem, e])
  · rename_i e1 e2 e3
    have hu : c.d.usesMem = true := by
      unfold SDec.usesMem
      cases hq : c.d.mode <;> simp_all
    obtain ⟨a, ha, ht, hv⟩ := h
    rw [if_pos hu]
    have on : c.onward u = c.fin (postMod c.d c.th.x c.th.y) u := if_neg hm
    have go : ((c.readAt a c.d.size (c.fin (postMod c.d c.th.x c.th.y) u)).thr c.g).Alike
        (c.landed (c.r + 4) (operandRes c.d c.th v) ((u.thr c.g).lands (c.r + 6) (postMod c.d c.th.x c.th.y))) := by
      obtain ⟨th, e, al, _⟩ := c.fin_spec (postMod c.d c.th.x c.th.y) u
      rw [e]
      unfold Ctx.readAt
      rcases hv with ⟨harea, hbad, hport, hv⟩ | ⟨harea, hline, hv⟩
      · rw [harea]
        dsimp only
        have hp : (u.setThr c.g th).phaseA c.n c.t c.r a c.d.size = u.phaseA c.n c.t c.r a c.d.size := rfl
        rw [hp, State.setThr_core]
        have mem : ∀ s : State, s.thr c.g = th → s.memRead c.n a c.d.size = v →
            ((c.loaded (c.r + 4) a c.d.size s).thr c.g).Alike
              (c.landed (c.r + 4) (operandRes c.d c.th v) ((u.thr c.g).lands (c.r + 6) (postMod c.d c.th.x c.th.y))) := by
          intro s hs hmem
          unfold Ctx.loaded
          rw [c.operandDone_spec _ _ hm, State.readGrans_thr, hs, hmem]
          exact Ctx.landed_alike al _ _ _
        have hmem : (u.setThr c.g th).memRead c.n a c.d.size = v := by
          rw [hv]; exact State.memRead_congr _ (by simp) (by simp) _ _
        split
        · exact mem _ (by simp) hmem
        · rename_i hA
          have hb : (u.core c.n).busy (bankOf a) (c.r + 4) = false := by simpa [hA] using hport
          simp only [hb, if_false, Bool.false_eq_true]
          refine mem _ (by simp) ?_
          rw [hv]
          exact State.memRead_congr _ (by simp) (by rw [State.setCore_core_self]; rfl) _ _
      · have hb : ∀ X : State, (∀ b, X.memByte c.n b = u.memByte c.n b) → X.flash = u.flash → X.codeByte c.n = u.codeByte c.n := by
          intro X h1 h2
          funext b
          simp only [State.codeByte, h1, State.flashByte, h2]
        have hv' : readNat ((u.setThr c.g th).codeByte c.n) c.d.size a = v := by
          rw [hb (u.setThr c.g th) (fun b => congrFun (State.memByte_congr _ (by simp) (by simp)) b) (by simp), hv]
        rcases harea with harea | harea <;>
        · rw [harea]
          dsimp only
          rw [hv', c.operandDone_spec _ _ hm, State.setCore_thr, State.setThr_thr_self]
          exact Ctx.landed_alike al _ _ _
    split
    · simp_all
    · simp_all
    · simp_all
    · rw [ha]
      dsimp only
      rw [ht]
      dsimp only
      have h1 : u.lineAbsent c.n a = false := by
        rcases hv with ⟨harea, _⟩ | ⟨_, h, _⟩
        · simp [State.lineAbsent, harea]
        · exact h
      have h2 : ¬ (areaOf a = .span ∧ u.badGrans c.n a c.d.size = true) := by
        rcases hv with ⟨_, h, _⟩ | ⟨h, _⟩
        · simp [h]
        · rcases h with h | h <;> simp [h]
      rw [h1, if_neg h2, on]
      exact go

/-- What a memory-format row does to its thread, to be read in any round. -/
theorem memForm_thr {s u : State} {n t : Fin 16} {c : Ctx} {mn : Mn} {v : Nat} (hs : s.slot n t = some (c, u)) (hr : c.runs u mn)
    (hv : c.reads u v) (hm : mn ≠ .mul) :
    ((strand mn Ctx.memForm n t s).thr (gthr n t)).Alike
      (if c.d.usesMem then
        c.landed (c.r + 4) (operandRes c.d c.th v) ((u.thr (gthr n t)).lands (c.r + 6) (postMod c.d c.th.x c.th.y))
        else (u.thr (gthr n t)).lands (c.r + 6) (operandRes c.d c.th v)) := by
  rw [strand_runs _ hs hr]
  obtain ⟨h1, h2, h3, _⟩ := State.slot_ctx hs
  have hg : c.g = gthr n t := by simp [Ctx.g, gthr, h1, h2]
  refine (State.stepDone_alike _ _ _ _).trans ?_
  have := c.memForm_spec u v hv (by rw [hr.1]; exact hm)
  rw [hg] at this
  exact this

/-- What a memory-format row other than a load does to the registers of its thread, read in WBK. -/
theorem memForm_at {s u : State} {n t : Fin 16} {c : Ctx} {mn : Mn} {v : Nat} (hs : s.slot n t = some (c, u)) (hr : c.runs u mn)
    (hv : c.reads u v) (hm : mn ≠ .mul) (hl : isLoad mn = false) :
    ((strand mn Ctx.memForm n t s).at (gthr n t) (c.r + 6)).Alike
      ((operandRes c.d c.th v).foldl landOne (((u.thr (gthr n t)).lands (c.r + 6) (postMod c.d c.th.x c.th.y)).settle (c.r + 6))) := by
  rw [← Thread.settle_lands]
  refine Thread.Alike.settle ((memForm_thr hs hr hv hm).trans ?_) _
  split
  · rw [Ctx.landed_inTime, hr.1, if_neg (by simp [hl])]; exact .refl _
  · rename_i hu
    rw [postMod_direct (by simpa using hu)]
    exact .refl _

theorem postMod_fl (d : SDec) (x y : Word) : (∀ m v, LandW.fl m v ∉ postMod d x y) ∧ (∀ v, LandW.sr 0 v ∉ postMod d x y)
    ∧ (∀ v, LandW.a v ∉ postMod d x y) := by
  unfold postMod
  split <;> simp

theorem postMod_x (d : SDec) (x y : Word) (h : d.mode ≠ .xp) : (∀ v, LandW.x v ∉ postMod d x y) := by
  unfold postMod
  split <;> simp_all

end Sys2Proof.Machine
end

