-- ==== Sys2Proof/Laws/Keep.lean ====
section
/-! SUPPORT. What every operation keeps: the queue of waiting commands, and the invariant of the block. `Keeps s₀ s` says that `s`
was made from `s₀` that way; each operation over states has one lemma, named after it, that adds it to such a chain. -/
namespace Sys2Proof.Machine

/-- `s` has the queue of `s₀`, and the invariant if `s₀` has it. -/
def Keeps (s₀ s : State) : Prop := s.pending = s₀.pending ∧ (s₀.Inv → s.Inv)

theorem Keeps.refl (s : State) : Keeps s s := ⟨rfl, id⟩

theorem Keeps.step {s₀ s t : State} (h : Keeps s₀ s) (hp : t.pending = s.pending) (hi : s.Inv → t.Inv) : Keeps s₀ t :=
  ⟨hp.trans h.1, fun i => hi (h.2 i)⟩

theorem Keeps.ite {s₀ a b : State} {c : Prop} [Decidable c] (ha : Keeps s₀ a) (hb : Keeps s₀ b) : Keeps s₀ (if c then a else b) := by
  split <;> assumption

theorem Keeps.cond {s₀ a b : State} {c : Bool} (ha : Keeps s₀ a) (hb : Keeps s₀ b) : Keeps s₀ (bif c then a else b) := by
  cases c <;> assumption

theorem iter_ok {s₀ s : State} {f : Nat → State → State} {k : Nat} (hf : ∀ i t, Keeps s₀ t → Keeps s₀ (f i t)) (h : Keeps s₀ s) :
    Keeps s₀ (iter f k s) := by
  induction k with
  | zero => exact h
  | succ k ih => exact hf k _ ih

theorem iter_keeps {σ : Type} {P : σ → Prop} {f : Nat → σ → σ} {k : Nat} {x : σ} (hf : ∀ i t, P t → P (f i t)) (h : P x) :
    P (iter f k x) := by
  induction k with
  | zero => exact h
  | succ k ih => exact hf k _ ih

theorem foldl_ok {β : Type} {s₀ s : State} {f : State → β → State} {l : List β} (hf : ∀ t b, Keeps s₀ t → Keeps s₀ (f t b))
    (h : Keeps s₀ s) : Keeps s₀ (l.foldl f s) := by
  induction l generalizing s with
  | nil => exact h
  | cons b l ih => exact ih (hf s b h)

/-- A result `next` of a meaning written `.next t` is `t`. -/
theorem next_inj {s t : State} (h : (Host.Outcome.next s : Host.Outcome State Fault Refusal) = .next t) : s = t := by
  cases h; rfl

end Sys2Proof.Machine
end

