-- ==== Sys2Proof/Laws/KeepOps.lean ====
section
/-! SUPPORT. The operations of Machine/Ops.lean keep the queue and the invariant: one lemma each, for chains of `Keeps`. -/
namespace Sys2Proof.Machine

/-- Fields that no invariant names may change freely. -/

theorem Keeps.free {s₀ s : State} {dirty fp gd meas dbg host casc alm bk optn boot frz src spRdata spErr freeCtr fab}
    (h : Keeps s₀ s) : Keeps s₀ { s with
      dirty := dirty, fp := fp, gd := gd, meas := meas, dbg := dbg, host := host, casc := casc, alm := alm, bk := bk, optn := optn
      boot := boot, frz := frz, src := src, spRdata := spRdata, spErr := spErr, freeCtr := freeCtr, fab := fab } :=
  h.step rfl id

/-- The memories and tables may change to canonical ones. -/

theorem Keeps.tabs {s₀ s t : State} (h : Keeps s₀ s) (hp : t.pending = s.pending) (hm : s.memWf → t.memWf) (ht : s.tabsWf → t.tabsWf)
    (hw : s.widths → t.widths) : Keeps s₀ t := h.step hp fun i => ⟨hm i.1, ht i.2.1, hw i.2.2⟩

theorem Keeps.regs {s₀ s : State} {v} (h : Keeps s₀ s) (hv : tabWf 0 s.regs = true → tabWf 0 v = true) :
    Keeps s₀ { s with regs := v } :=
  h.tabs rfl id (fun ⟨h0, h1, h2, h3, h4, h5, h6, h7, h8, h9, h10, h11, h12, h13⟩ => ⟨hv h0, h1, h2, h3, h4, h5, h6, h7, h8, h9, h10, h11, h12, h13⟩) id

theorem Keeps.staged {s₀ s : State} {v} (h : Keeps s₀ s) (hv : tabWf 0 s.staged = true → tabWf 0 v = true) :
    Keeps s₀ { s with staged := v } :=
  h.tabs rfl id (fun ⟨h0, h1, h2, h3, h4, h5, h6, h7, h8, h9, h10, h11, h12, h13⟩ => ⟨h0, hv h1, h2, h3, h4, h5, h6, h7, h8, h9, h10, h11, h12, h13⟩) id

theorem Keeps.regionLive {s₀ s : State} {v} (h : Keeps s₀ s) (hv : tabWf 0 s.regionLive = true → tabWf 0 v = true) :
    Keeps s₀ { s with regionLive := v } :=
  h.tabs rfl id (fun ⟨h0, h1, h2, h3, h4, h5, h6, h7, h8, h9, h10, h11, h12, h13⟩ => ⟨h0, h1, hv h2, h3, h4, h5, h6, h7, h8, h9, h10, h11, h12, h13⟩) id

theorem Keeps.regionStaged {s₀ s : State} {v} (h : Keeps s₀ s) (hv : tabWf 0 s.regionStaged = true → tabWf 0 v = true) :
    Keeps s₀ { s with regionStaged := v } :=
  h.tabs rfl id (fun ⟨h0, h1, h2, h3, h4, h5, h6, h7, h8, h9, h10, h11, h12, h13⟩ => ⟨h0, h1, h2, hv h3, h4, h5, h6, h7, h8, h9, h10, h11, h12, h13⟩) id

theorem Keeps.cores {s₀ s : State} {v} (h : Keeps s₀ s) (hv : tabWf {} s.cores = true → tabWf {} v = true) :
    Keeps s₀ { s with cores := v } :=
  h.tabs rfl id (fun ⟨h0, h1, h2, h3, h4, h5, h6, h7, h8, h9, h10, h11, h12, h13⟩ => ⟨h0, h1, h2, h3, hv h4, h5, h6, h7, h8, h9, h10, h11, h12, h13⟩) id

theorem Keeps.threads {s₀ s : State} {v} (h : Keeps s₀ s) (hv : tabWf {} s.threads = true → tabWf {} v = true) :
    Keeps s₀ { s with threads := v } :=
  h.tabs rfl id (fun ⟨h0, h1, h2, h3, h4, h5, h6, h7, h8, h9, h10, h11, h12, h13⟩ => ⟨h0, h1, h2, h3, h4, hv h5, h6, h7, h8, h9, h10, h11, h12, h13⟩) id

theorem Keeps.ports {s₀ s : State} {v} (h : Keeps s₀ s) (hv : tabWf {} s.ports = true → tabWf {} v = true) :
    Keeps s₀ { s with ports := v } :=
  h.tabs rfl id (fun ⟨h0, h1, h2, h3, h4, h5, h6, h7, h8, h9, h10, h11, h12, h13⟩ => ⟨h0, h1, h2, h3, h4, h5, hv h6, h7, h8, h9, h10, h11, h12, h13⟩) id

theorem Keeps.ends {s₀ s : State} {v} (h : Keeps s₀ s) (hv : tabWf {} s.ends = true → tabWf {} v = true) :
    Keeps s₀ { s with ends := v } :=
  h.tabs rfl id (fun ⟨h0, h1, h2, h3, h4, h5, h6, h7, h8, h9, h10, h11, h12, h13⟩ => ⟨h0, h1, h2, h3, h4, h5, h6, hv h7, h8, h9, h10, h11, h12, h13⟩) id

theorem Keeps.engines {s₀ s : State} {v} (h : Keeps s₀ s) (hv : tabWf {} s.engines = true → tabWf {} v = true) :
    Keeps s₀ { s with engines := v } :=
  h.tabs rfl id (fun ⟨h0, h1, h2, h3, h4, h5, h6, h7, h8, h9, h10, h11, h12, h13⟩ => ⟨h0, h1, h2, h3, h4, h5, h6, h7, hv h8, h9, h10, h11, h12, h13⟩) id

theorem Keeps.chans {s₀ s : State} {v} (h : Keeps s₀ s) (hv : tabWf {} s.chans = true → tabWf {} v = true) :
    Keeps s₀ { s with chans := v } :=
  h.tabs rfl id (fun ⟨h0, h1, h2, h3, h4, h5, h6, h7, h8, h9, h10, h11, h12, h13⟩ => ⟨h0, h1, h2, h3, h4, h5, h6, h7, h8, hv h9, h10, h11, h12, h13⟩) id

theorem Keeps.banks {s₀ s : State} {v} (h : Keeps s₀ s) (hv : tabWf {} s.banks = true → tabWf {} v = true) :
    Keeps s₀ { s with banks := v } :=
  h.tabs rfl id (fun ⟨h0, h1, h2, h3, h4, h5, h6, h7, h8, h9, h10, h11, h12, h13⟩ => ⟨h0, h1, h2, h3, h4, h5, h6, h7, h8, h9, hv h10, h11, h12, h13⟩) id

theorem Keeps.timers {s₀ s : State} {v} (h : Keeps s₀ s) (hv : tabWf {} s.timers = true → tabWf {} v = true) :
    Keeps s₀ { s with timers := v } :=
  h.tabs rfl id (fun ⟨h0, h1, h2, h3, h4, h5, h6, h7, h8, h9, h10, h11, h12, h13⟩ => ⟨h0, h1, h2, h3, h4, h5, h6, h7, h8, h9, h10, hv h11, h12, h13⟩) id

theorem Keeps.sideband {s₀ s : State} {v} (h : Keeps s₀ s) (hv : tabWf 0 s.sideband = true → tabWf 0 v = true) :
    Keeps s₀ { s with sideband := v } :=
  h.tabs rfl id (fun ⟨h0, h1, h2, h3, h4, h5, h6, h7, h8, h9, h10, h11, h12, h13⟩ => ⟨h0, h1, h2, h3, h4, h5, h6, h7, h8, h9, h10, h11, hv h12, h13⟩) id

theorem Keeps.upset {s₀ s : State} {v} (h : Keeps s₀ s) (hv : tabWf 0 s.upset = true → tabWf 0 v = true) :
    Keeps s₀ { s with upset := v } :=
  h.tabs rfl id (fun ⟨h0, h1, h2, h3, h4, h5, h6, h7, h8, h9, h10, h11, h12, h13⟩ => ⟨h0, h1, h2, h3, h4, h5, h6, h7, h8, h9, h10, h11, h12, hv h13⟩) id

theorem Keeps.mem {s₀ s : State} {v} (h : Keeps s₀ s) (hv : Memory.wf 0 s.mem = true → Memory.wf 0 v = true) :
    Keeps s₀ { s with mem := v } :=
  h.tabs rfl (fun ⟨a, b, c⟩ => ⟨hv a, b, c⟩) id id

theorem Keeps.flash {s₀ s : State} {v} (h : Keeps s₀ s) (hv : Memory.wf 0xFF s.flash = true → Memory.wf 0xFF v = true) :
    Keeps s₀ { s with flash := v } :=
  h.tabs rfl (fun ⟨a, b, c⟩ => ⟨a, hv b, c⟩) id id

theorem Keeps.opt {s₀ s : State} {v} (h : Keeps s₀ s) (hv : Memory.wf 0xFF s.opt = true → Memory.wf 0xFF v = true) :
    Keeps s₀ { s with opt := v } :=
  h.tabs rfl (fun ⟨a, b, c⟩ => ⟨a, b, hv c⟩) id id

theorem Keeps.clk {s₀ s : State} {c} (h : Keeps s₀ s)
    (hc : s.clk.tb < 2 ^ 64 ∧ s.clk.lf < 2 ^ 48 ∧ s.clk.acc < 64 → c.tb < 2 ^ 64 ∧ c.lf < 2 ^ 48 ∧ c.acc < 64) :
    Keeps s₀ { s with clk := c } :=
  h.tabs rfl id id fun ⟨a, b, c, d⟩ => let ⟨x, y, z⟩ := hc ⟨a, b, c⟩; ⟨x, y, z, d⟩

theorem Keeps.mor {s₀ s : State} {m} (h : Keeps s₀ s) (hm : s.mor.queue.length ≤ 32 → m.queue.length ≤ 32) :
    Keeps s₀ { s with mor := m } :=
  h.tabs rfl id id fun ⟨a, b, c, d⟩ => ⟨a, b, c, hm d⟩

/-! ## Ops -/

theorem State.setReg_ok {s₀ s : State} (off : Nat) (v : Word) (h : Keeps s₀ s) : Keeps s₀ (s.setReg off v) := h.regs (tabSet_wf _ _ _ _)

theorem State.setStg_ok {s₀ s : State} (off : Nat) (v : Word) (h : Keeps s₀ s) : Keeps s₀ (s.setStg off v) := h.staged (tabSet_wf _ _ _ _)

theorem State.setCore_ok {s₀ s : State} (n : Nat) (c : Core) (h : Keeps s₀ s) : Keeps s₀ (s.setCore n c) := h.cores (tabSet_wf _ _ _ _)

theorem State.setThr_ok {s₀ s : State} (g : Nat) (t : Thread) (h : Keeps s₀ s) : Keeps s₀ (s.setThr g t) := h.threads (tabSet_wf _ _ _ _)

theorem State.setPort_ok {s₀ s : State} (k : Nat) (p : TPort) (h : Keeps s₀ s) : Keeps s₀ (s.setPort k p) := h.ports (tabSet_wf _ _ _ _)

theorem State.setEnd_ok {s₀ s : State} (k : Nat) (e : End) (h : Keeps s₀ s) : Keeps s₀ (s.setEnd k e) := h.ends (tabSet_wf _ _ _ _)

theorem State.setEngine_ok {s₀ s : State} (k : Nat) (e : Engine) (h : Keeps s₀ s) : Keeps s₀ (s.setEngine k e) := h.engines (tabSet_wf _ _ _ _)

theorem State.setChan_ok {s₀ s : State} (k : Nat) (c : Chan) (h : Keeps s₀ s) : Keeps s₀ (s.setChan k c) := h.chans (tabSet_wf _ _ _ _)

theorem State.setBank_ok {s₀ s : State} (n : Nat) (b : Bank) (h : Keeps s₀ s) : Keeps s₀ (s.setBank n b) := h.banks (tabSet_wf _ _ _ _)

theorem State.setTimer_ok {s₀ s : State} (k : Nat) (t : Timer) (h : Keeps s₀ s) : Keeps s₀ (s.setTimer k t) := h.timers (tabSet_wf _ _ _ _)

theorem State.drawn_ok {s₀ s : State} (h : Keeps s₀ s) : Keeps s₀ s.drawn := h.free

/-- Clock fields that no invariant names may change freely. -/

theorem Keeps.clkFree {s₀ s : State} {lfMode lfDebug lfEntries sleeping sleepDeny sleepAck mainRst backupRst backupEdges pok rstPin vHeld
    cause clks tbSnap lfSnap sensed bootExc tbEdge awaits} (h : Keeps s₀ s) : Keeps s₀ { s with clk := { s.clk with
      lfMode := lfMode, lfDebug := lfDebug, lfEntries := lfEntries, sleeping := sleeping, sleepDeny := sleepDeny, sleepAck := sleepAck
      mainRst := mainRst, backupRst := backupRst, backupEdges := backupEdges, pok := pok, rstPin := rstPin, vHeld := vHeld
      cause := cause, clks := clks, tbSnap := tbSnap, lfSnap := lfSnap, sensed := sensed, bootExc := bootExc, tbEdge := tbEdge, awaits := awaits } } :=
  h.clk id

theorem writeNat_wf (d : Byte) : ∀ (k a v : Nat) (m : List Host.Cell), Memory.wf d m = true → Memory.wf d (writeNat d k a v m) = true
  | 0, _, _, _, h => h
  | k + 1, a, v, _, h => writeNat_wf d k (a + 1) (v / 256) _ (tabSet_wf _ _ _ _ h)

theorem State.seeTb_ok {s₀ s : State} (n : Nat) (hK : Keeps s₀ s) : Keeps s₀ (State.seeTb s n).2 := by
  unfold State.seeTb
  dsimp only
  repeat' first
    | with_reducible assumption
    | with_reducible apply State.setCore_ok
    | with_reducible apply State.drawn_ok

theorem State.seeTb_eq {s₀ s s' : State} {n : Nat} {v} (e : State.seeTb s n = (v, s')) (hK : Keeps s₀ s) : Keeps s₀ s' := by
  have := State.seeTb_ok (s₀ := s₀) n hK
  rw [e] at this
  exact this

theorem State.via_ok {s₀ s : State} (src : Src) (k : State → State) (hk : ∀ x, Keeps s₀ x → Keeps s₀ (k x)) (hK : Keeps s₀ s) : Keeps s₀ (State.via s src k) := by
  unfold State.via
  repeat' first
    | with_reducible assumption
    | with_reducible apply hk
    | with_reducible apply Keeps.ite
  all_goals try with_reducible apply Keeps.free
  repeat' first
    | with_reducible assumption

theorem State.gate_ok {s₀ s : State} (n : Nat) (k : State → State) (hk : ∀ x, Keeps s₀ x → Keeps s₀ (k x)) (hK : Keeps s₀ s) : Keeps s₀ (State.gate s n k) := by
  unfold State.gate
  repeat' first
    | with_reducible assumption
    | with_reducible apply hk
    | with_reducible apply Keeps.ite
  all_goals try with_reducible apply Keeps.free
  repeat' first
    | with_reducible assumption

theorem morCount_queue (m : Mor) (k : Nat) : (morCount m k).queue = m.queue := rfl

theorem morAdmit_queue (m : Mor) (trg : Word) (tb : Nat) (e : MorEntry) (h : m.queue.length ≤ 32) :
    (morAdmit m trg tb e).queue.length ≤ 32 := by
  unfold morAdmit
  split
  · unfold morFull
    split
    · exact h
    · exact h
  · split
    · simp only [List.length_append, List.length_cons, List.length_nil]; omega
    · dsimp only
      split
      · exact h
      · simp only [List.length_append, List.length_cons, List.length_nil]; omega

theorem State.offerEntry_ok {s₀ s : State} (e : MorEntry) (h : Keeps s₀ s) : Keeps s₀ (s.offerEntry e) := by
  unfold State.offerEntry
  split
  · exact h
  · exact h.mor (morAdmit_queue _ _ _ _)

theorem State.offer_ok {s₀ s : State} (code : Nat) (origin : Word) (a0 : Word) (a1 : Word) (a2 : Word) (hK : Keeps s₀ s) : Keeps s₀ (State.offer s code origin a0 a1 a2) := by
  unfold State.offer
  repeat' first
    | with_reducible assumption
    | with_reducible apply State.offerEntry_ok

theorem State.offerAt_ok {s₀ s : State} (tb : Nat) (code : Nat) (origin : Word) (a0 : Word) (a1 : Word) (a2 : Word) (hK : Keeps s₀ s) : Keeps s₀ (State.offerAt s tb code origin a0 a1 a2) := by
  unfold State.offerAt
  repeat' first
    | with_reducible assumption
    | with_reducible apply State.offerEntry_ok

theorem State.dbgEnd_ok {s₀ s : State} (result : Nat) (hK : Keeps s₀ s) : Keeps s₀ (State.dbgEnd s result) := by
  unfold State.dbgEnd
  dsimp only
  repeat' first
    | with_reducible assumption
    | with_reducible apply State.offer_ok
    | split
  all_goals try with_reducible apply Keeps.free
  repeat' first
    | with_reducible assumption

theorem State.endStep_ok {s₀ s : State} (g : Nat) (hK : Keeps s₀ s) : Keeps s₀ (State.endStep s g) := by
  unfold State.endStep
  dsimp only
  repeat' first
    | with_reducible assumption
    | with_reducible apply State.setThr_ok
    | with_reducible apply State.dbgEnd_ok
    | with_reducible apply Keeps.ite

theorem State.refuse_ok {s₀ s : State} (src : Src) (off : Nat) (code : Nat) (detail : Word) (hK : Keeps s₀ s) : Keeps s₀ (State.refuse s src off code detail) := by
  unfold State.refuse
  dsimp only
  repeat' first
    | with_reducible apply State.offer_ok
  all_goals try with_reducible apply Keeps.free
  repeat' first
    | with_reducible assumption

theorem State.memWriteBytes_ok {s₀ : State} (n : Nat) : ∀ (k : Nat) {s : State} (a v : Nat), Keeps s₀ s →
    Keeps s₀ (s.memWriteBytes n k a v)
  | 0, _, _, _, h => h
  | k + 1, _, a, v, h => State.memWriteBytes_ok n k (a + 1) (v / 256) (State.setCore_ok _ _ (h.mem (tabSet_wf _ _ _ _)))

theorem State.eccNote_ok {s₀ s : State} (ue : Bool) (id : Nat) (span : Nat) (addr : Nat) (hK : Keeps s₀ s) : Keeps s₀ (State.eccNote s ue id span addr) := by
  unfold State.eccNote
  dsimp only
  repeat' first
    | with_reducible assumption
    | with_reducible apply State.setReg_ok
    | with_reducible apply State.drawn_ok
    | with_reducible apply State.offer_ok
    | with_reducible apply Keeps.ite

theorem State.readGran_ok {s₀ s : State} (id g span addr : Nat) (h : Keeps s₀ s) : Keeps s₀ (s.readGran id g span addr).2 := by
  unfold State.readGran
  split
  · exact h
  · exact State.eccNote_ok _ _ _ _ (h.upset (tabSet_wf _ _ _ _))
  · exact State.eccNote_ok _ _ _ _ h

theorem State.readGran_eq {s₀ s s' : State} {id g span addr : Nat} {v} (e : s.readGran id g span addr = (v, s')) (h : Keeps s₀ s) :
    Keeps s₀ s' := by
  have := State.readGran_ok id g span addr h
  rw [e] at this
  exact this

theorem State.readGrans_ok {s₀ s : State} (n : Nat) (a : Nat) (k : Nat) (hK : Keeps s₀ s) : Keeps s₀ (State.readGrans s n a k).2 := by
  unfold State.readGrans
  dsimp only
  repeat' first
    | with_reducible assumption
    | with_reducible apply State.readGran_ok
    | split

theorem State.readGrans_eq {s₀ s s' : State} {n : Nat} {a : Nat} {k : Nat} {v} (e : State.readGrans s n a k = (v, s')) (hK : Keeps s₀ s) : Keeps s₀ s' := by
  have := State.readGrans_ok (s₀ := s₀) n a k hK
  rw [e] at this
  exact this

theorem State.wroteGran_ok {s₀ s : State} (n a k : Nat) (h : Keeps s₀ s) : Keeps s₀ (s.wroteGran n a k) := by
  unfold State.wroteGran
  split
  · exact h.upset (tabSet_wf _ _ _ _)
  · exact State.readGran_ok _ _ _ _ h

theorem State.freshGrans_ok {s₀ s : State} (id : Nat) (p : Nat → Bool) (h : Keeps s₀ s) : Keeps s₀ (s.freshGrans id p) :=
  h.upset (tabDrop_wf _ _ _)

theorem State.memWrite_ok {s₀ s : State} (n : Nat) (k : Nat) (a : Nat) (v : Nat) (hK : Keeps s₀ s) : Keeps s₀ (State.memWrite s n k a v) := by
  unfold State.memWrite
  dsimp only
  repeat' first
    | with_reducible assumption
    | with_reducible apply State.memWriteBytes_ok
    | with_reducible apply State.wroteGran_ok
    | with_reducible apply Keeps.ite

theorem State.raiseEv_ok {s₀ s : State} (g : Nat) (v : Nat) (d : Nat) (hK : Keeps s₀ s) : Keeps s₀ (State.raiseEv s g v d) := by
  unfold State.raiseEv
  repeat' first
    | with_reducible assumption
    | with_reducible apply State.setThr_ok

end Sys2Proof.Machine
end

