-- ==== Sys2Proof/Laws/KeepFirn.lean ====
section
/-! SUPPORT. The operations of Machine/Firn.lean keep the queue and the invariant: one lemma each, for chains of `Keeps`. -/
namespace Sys2Proof.Machine

theorem State.unstage_ok {s₀ s : State} (off : Nat) (hK : Keeps s₀ s) : Keeps s₀ (State.unstage s off) := by
  unfold State.unstage
  dsimp only
  all_goals try with_reducible apply Keeps.free
  repeat' first
    | with_reducible assumption
    | with_reducible apply State.setStg_ok

theorem State.readFirnGran_ok {s₀ s : State} (g : Nat) (hK : Keeps s₀ s) : Keeps s₀ (State.readFirnGran s g) := by
  unfold State.readFirnGran
  dsimp only
  repeat' first
    | with_reducible assumption
    | with_reducible apply State.readGran_ok
    | with_reducible apply State.freshGrans_ok
    | with_reducible apply State.unstage_ok
    | with_reducible apply Keeps.ite

theorem State.readFirn_ok {s₀ s : State} (hK : Keeps s₀ s) : Keeps s₀ (State.readFirn s) := by
  unfold State.readFirn
  repeat' first
    | intro _
    | with_reducible assumption
    | with_reducible apply State.readFirnGran_ok
    | with_reducible apply foldl_ok

theorem State.stage_ok {s₀ s : State} (off : Nat) (v : Word) (hK : Keeps s₀ s) : Keeps s₀ (State.stage s off v) := by
  unfold State.stage
  dsimp only
  all_goals try with_reducible apply Keeps.free
  repeat' first
    | with_reducible assumption
    | with_reducible apply State.setStg_ok

theorem stageField_ok {s₀ s : State} (off : Nat) (v : Word) (f : Fld) (hK : Keeps s₀ s) : Keeps s₀ (stageField off v f s) := by
  unfold stageField
  dsimp only
  repeat' first
    | with_reducible assumption
    | with_reducible apply State.stage_ok
    | with_reducible apply Keeps.ite

theorem stageFields_ok {s₀ s : State} (src : Src) (off : Nat) (v : Word) (fs : List Fld) (hK : Keeps s₀ s) : Keeps s₀ (stageFields src off v fs s) := by
  unfold stageFields
  dsimp only
  repeat' first
    | intro _
    | with_reducible assumption
    | with_reducible apply State.refuse_ok
    | with_reducible apply stageField_ok
    | with_reducible apply foldl_ok
    | with_reducible apply Keeps.ite
    | split

theorem State.writeFields_ok {s₀ s : State} (src : Src) (off : Nat) (fs : List Fld) (v : Word) (hK : Keeps s₀ s) : Keeps s₀ (State.writeFields s src off fs v) := by
  unfold State.writeFields
  dsimp only
  repeat' first
    | with_reducible assumption
    | with_reducible apply State.setReg_ok
    | with_reducible apply stageFields_ok

theorem State.plainWrite_ok {s₀ s : State} (src : Src) (off : Nat) (v : Word) (hK : Keeps s₀ s) : Keeps s₀ (State.plainWrite s src off v) := by
  unfold State.plainWrite
  repeat' first
    | with_reducible assumption
    | with_reducible apply State.writeFields_ok

theorem State.applied_ok {s₀ s : State} (h : Keeps s₀ s) : Keeps s₀ s.applied := by
  have hr : Keeps s₀ (s.dirtyWords.foldl (fun r o => r.setReg o (s.after o)) s) :=
    foldl_ok (fun t b ht => State.setReg_ok _ _ ht) h
  refine ⟨hr.1, fun i => ?_⟩
  obtain ⟨a, ⟨b0, b1, b2, b3, b4⟩, c⟩ := hr.2 i
  obtain ⟨_, ⟨_, _, d2, d3, _⟩, _⟩ := h.2 i
  unfold State.applied
  refine ⟨a, ⟨b0, b1, ?_, b3, b4⟩, c⟩
  dsimp only
  split <;> assumption

end Sys2Proof.Machine
end

