-- ==== Sys2Proof/Laws/KeepChanBase.lean ====
section
/-! SUPPORT. The operations of Machine/ChanBase.lean keep the queue and the invariant: one lemma each, for chains of `Keeps`. -/
namespace Sys2Proof.Machine

theorem State.chanEvent_ok {s₀ s : State} (n : Nat) (e : Nat) (hK : Keeps s₀ s) : Keeps s₀ (State.chanEvent s n e) := by
  unfold State.chanEvent
  dsimp only
  repeat' first
    | with_reducible assumption
    | with_reducible apply State.raiseEv_ok
    | with_reducible apply Keeps.ite

theorem State.readyEvent_ok {s₀ s : State} (n : Nat) (e : Nat) (hK : Keeps s₀ s) : Keeps s₀ (State.readyEvent s n e) := by
  unfold State.readyEvent
  repeat' first
    | with_reducible assumption
    | with_reducible apply State.chanEvent_ok
    | with_reducible apply Keeps.ite

theorem State.endDue_ok {s₀ s : State} (r : Nat) (k : Nat) (hK : Keeps s₀ s) : Keeps s₀ (State.endDue s r k) := by
  unfold State.endDue
  dsimp only
  repeat' first
    | with_reducible assumption
    | with_reducible apply State.setEnd_ok
    | with_reducible apply State.readyEvent_ok
    | with_reducible apply Keeps.ite

theorem State.chanDue_ok {s₀ s : State} (n : Nat) (r : Nat) (hK : Keeps s₀ s) : Keeps s₀ (State.chanDue s n r) := by
  unfold State.chanDue
  repeat' first
    | intro _
    | with_reducible assumption
    | with_reducible apply State.endDue_ok
    | with_reducible apply foldl_ok
    | with_reducible apply Keeps.ite

theorem State.bufPut_ok {s₀ s : State} (n : Nat) (e : Nat) (w : Word) (last : Bool) (r : Nat) (hK : Keeps s₀ s) : Keeps s₀ (State.bufPut s n e w last r) := by
  unfold State.bufPut
  dsimp only
  repeat' first
    | with_reducible assumption
    | with_reducible apply State.setEnd_ok
    | with_reducible apply State.endDue_ok

theorem State.addDrops_ok {s₀ s : State} (k : Nat) (w : Nat) (hK : Keeps s₀ s) : Keeps s₀ (State.addDrops s k w) := by
  unfold State.addDrops
  dsimp only
  repeat' first
    | with_reducible assumption
    | with_reducible apply State.setEnd_ok

theorem State.peerLost_ok {s₀ s : State} (n : Nat) (e : Nat) (w : Nat) (hK : Keeps s₀ s) : Keeps s₀ (State.peerLost s n e w) := by
  unfold State.peerLost
  dsimp only
  repeat' first
    | with_reducible assumption
    | with_reducible apply State.setEnd_ok
    | with_reducible apply State.chanEvent_ok

theorem State.popStore_ok {s₀ s : State} (n : Nat) (e : Nat) (hK : Keeps s₀ s) : Keeps s₀ (State.popStore s n e) := by
  unfold State.popStore
  dsimp only
  repeat' first
    | with_reducible assumption
    | with_reducible apply State.setEnd_ok

theorem State.moveOne_ok {s₀ s s' : State} {n e : Nat} (he : s.moveOne n e = some s') (h : Keeps s₀ s) : Keeps s₀ s' := by
  unfold State.moveOne at he
  dsimp only at he
  repeat' first
    | (cases he; done)
    | split at he
  all_goals (cases he; first
    | exact State.peerLost_ok _ _ _ (State.popStore_ok _ _ h)
    | exact State.bufPut_ok _ _ _ _ _ (State.popStore_ok _ _ h))

theorem moveWords_ok {s₀ : State} (n e : Nat) : ∀ (f : Nat) {s : State}, Keeps s₀ s → Keeps s₀ (moveWords n e f s)
  | 0, _, h => h
  | f + 1, s, h => by
    unfold moveWords
    refine Keeps.ite h ?_
    split
    · exact moveWords_ok n e f (State.moveOne_ok (by assumption) h)
    · exact h

theorem moveFabric_ok {s₀ : State} (n : Nat) (e : Nat) (m : Nat) : ∀ (z0 : Nat)  {s : State}, Keeps s₀ s → Keeps s₀ (moveFabric n e m z0 s)
  | 0, s, hK => by
    unfold moveFabric
    repeat' first
      | with_reducible assumption
  | z0 + 1, s, hK => by
    unfold moveFabric
    repeat' first
      | with_reducible apply moveFabric_ok
      | with_reducible assumption
      | with_reducible apply State.moveOne_ok (by with_reducible assumption)
      | with_reducible apply Keeps.ite
      | split

theorem fabricMove_ok {s₀ s : State} (n : Nat) (e : Nat) (hK : Keeps s₀ s) : Keeps s₀ (fabricMove n e s) := by
  unfold fabricMove
  repeat' first
    | with_reducible assumption
    | with_reducible apply moveFabric_ok
    | with_reducible apply Keeps.ite
    | split
  all_goals try with_reducible apply Keeps.free
  repeat' first
    | with_reducible assumption

theorem State.release_ok {s₀ s : State} (n : Nat) (e : Nat) (r : Nat) (hK : Keeps s₀ s) : Keeps s₀ (State.release s n e r) := by
  unfold State.release
  dsimp only
  repeat' first
    | with_reducible assumption
    | with_reducible apply State.setEnd_ok

theorem State.postCompl_ok {s₀ s : State} (n : Nat) (e : Nat) (w : Word) (hK : Keeps s₀ s) : Keeps s₀ (State.postCompl s n e w) := by
  unfold State.postCompl
  dsimp only
  repeat' first
    | with_reducible assumption
    | with_reducible apply State.setEnd_ok

theorem State.fillEnd_ok {s₀ s : State} (n : Nat) (e : Nat) (hK : Keeps s₀ s) : Keeps s₀ (State.fillEnd s n e) := by
  unfold State.fillEnd
  dsimp only
  repeat' first
    | with_reducible assumption
    | with_reducible apply moveWords_ok
    | with_reducible apply Keeps.ite

end Sys2Proof.Machine
end

