-- ==== Sys2Proof/Laws/KeepIssue.lean ====
section
/-! SUPPORT. The operations of Machine/Issue.lean keep the queue and the invariant: one lemma each, for chains of `Keeps`. -/
namespace Sys2Proof.Machine

theorem State.noteBytes_ok {s₀ s : State} (n : Nat) (key : Nat) (a : Nat) (len : Nat) (hK : Keeps s₀ s) : Keeps s₀ (State.noteBytes s n key a len) := by
  unfold State.noteBytes
  dsimp only
  repeat' first
    | with_reducible assumption
    | with_reducible apply State.setCore_ok

theorem State.storeBank_ok {s₀ s : State} (n : Nat) (q : Nat) (phaseB : Bool) (a : Nat) (len : Nat) (v : Nat) (hK : Keeps s₀ s) : Keeps s₀ (State.storeBank s n q phaseB a len v) := by
  unfold State.storeBank
  repeat' first
    | with_reducible assumption
    | with_reducible apply State.noteBytes_ok
    | with_reducible apply State.memWrite_ok

theorem State.fabricTurn_ok {s₀ s : State} (n : Nat) (a : Nat) (hK : Keeps s₀ s) : Keeps s₀ (State.fabricTurn s n a) := by
  unfold State.fabricTurn
  dsimp only
  repeat' first
    | with_reducible assumption
    | with_reducible apply State.setCore_ok
    | with_reducible apply Keeps.ite

theorem State.fabricWrite_ok {s₀ s : State} (n : Nat) (len : Nat) (a : Nat) (v : Nat) (hK : Keeps s₀ s) : Keeps s₀ (State.fabricWrite s n len a v) := by
  unfold State.fabricWrite
  dsimp only
  repeat' first
    | with_reducible assumption
    | with_reducible apply State.fabricTurn_ok
    | with_reducible apply State.storeBank_ok
    | with_reducible apply State.memWrite_ok
    | with_reducible apply Keeps.ite

theorem State.storeTo_ok {s₀ s s' : State} {n t lane q a len v : Nat} (e : s.storeTo n t lane q a len v = some s') (h : Keeps s₀ s) :
    Keeps s₀ s' := by
  unfold State.storeTo at e
  repeat' first
    | (cases e; done)
    | split at e
    | dsimp only at e
  all_goals (cases e; first
    | exact State.storeBank_ok _ _ _ _ _ _ (State.setCore_ok _ _ h)
    | exact State.storeBank_ok _ _ _ _ _ _ h
    | exact State.setCore_ok _ _ (State.noteBytes_ok _ _ _ _ h))

theorem State.askAt_ok {s₀ s : State} (n : Nat) (t : Nat) (a : Nat) (hK : Keeps s₀ s) : Keeps s₀ (State.askAt s n t a) := by
  unfold State.askAt
  repeat' first
    | with_reducible assumption
    | with_reducible apply State.setCore_ok
    | with_reducible apply Keeps.ite

theorem State.parkOn_ok {s₀ s : State} (n : Nat) (t : Nat) (l : Nat) (ld : Option Pend) (hK : Keeps s₀ s) : Keeps s₀ (State.parkOn s n t l ld) := by
  unfold State.parkOn
  dsimp only
  repeat' first
    | with_reducible assumption
    | with_reducible apply State.setCore_ok
    | with_reducible apply State.setThr_ok
    | with_reducible apply State.offer_ok
    | with_reducible apply Keeps.ite

theorem State.fetched_ok {s₀ s : State} (n : Nat) (t : Nat) (q : Nat) (phaseB : Bool) (a : Nat) (k : Nat) (hK : Keeps s₀ s) : Keeps s₀ (State.fetched s n t q phaseB a k) := by
  unfold State.fetched
  dsimp only
  repeat' first
    | with_reducible assumption
    | with_reducible apply State.setThr_ok

theorem State.fetchLost_ok {s₀ s : State} (n : Nat) (t : Nat) (lane : Nat) (q : Nat) (a : Nat) (hK : Keeps s₀ s) : Keeps s₀ (State.fetchLost s n t lane q a) := by
  unfold State.fetchLost
  dsimp only
  repeat' first
    | with_reducible assumption
    | with_reducible apply State.setCore_ok
    | with_reducible apply Keeps.ite

theorem State.fetchAt_ok {s₀ s : State} (n : Nat) (t : Nat) (lane : Nat) (q : Nat) (a : Nat) (k : Nat) (hK : Keeps s₀ s) : Keeps s₀ (State.fetchAt s n t lane q a k) := by
  unfold State.fetchAt
  dsimp only
  repeat' first
    | with_reducible assumption
    | with_reducible apply State.setCore_ok
    | with_reducible apply State.fetched_ok
    | with_reducible apply State.fetchLost_ok
    | with_reducible apply Keeps.ite

theorem State.servePort_ok {s₀ s : State} (n : Nat) (k : Slot) (hK : Keeps s₀ s) : Keeps s₀ (State.servePort s n k) := by
  unfold State.servePort
  dsimp only
  repeat' first
    | with_reducible assumption
    | with_reducible apply State.fetchAt_ok
    | with_reducible apply State.fetched_ok
    | with_reducible apply State.setCore_ok
    | with_reducible apply Keeps.ite
    | split

theorem State.servePorts_ok {s₀ s : State} (n q : Nat) (h : Keeps s₀ s) : Keeps s₀ (s.servePorts n q) :=
  foldl_ok (fun _ _ ht => State.servePort_ok _ _ ht) (State.setCore_ok _ _ h)

theorem State.waitFill_ok {s₀ s : State} (n : Nat) (t : Nat) (hK : Keeps s₀ s) : Keeps s₀ (State.waitFill s n t) := by
  unfold State.waitFill
  dsimp only
  repeat' first
    | with_reducible assumption
    | with_reducible apply State.fillEnd_ok
    | with_reducible apply Keeps.ite

theorem passLane_ok {s₀ s : State} (n : Nat) (r : Nat) (l : Nat) (hK : Keeps s₀ s) : Keeps s₀ (passLane n r l s) := by
  unfold passLane
  dsimp only
  repeat' first
    | with_reducible assumption
    | with_reducible apply State.setCore_ok
    | with_reducible apply State.parkOn_ok
    | with_reducible apply Keeps.ite
    | split

theorem State.passRound_ok {s₀ s : State} (n : Nat) (hK : Keeps s₀ s) : Keeps s₀ (State.passRound s n) := by
  unfold State.passRound
  dsimp only
  repeat' first
    | intro _
    | with_reducible assumption
    | with_reducible apply passLane_ok
    | with_reducible apply State.setCore_ok
    | with_reducible apply iter_ok

theorem State.seek_ok {s₀ : State} (n : Nat) (live : State → Bool) : ∀ (f : Nat) {s : State}, Keeps s₀ s → Keeps s₀ (s.seek n live f).2
  | 0, _, h => h
  | f + 1, s, h => by
    have h1 := State.servePorts_ok n (s.core n).round (State.chanDue_ok n (s.core n).round h)
    unfold State.seek
    dsimp only
    split
    · exact h1
    · split
      · exact State.seek_ok n live f (State.passRound_ok n h1)
      · exact h1

theorem State.seek_eq {s₀ s s' : State} {n : Nat} {live : State → Bool} {f : Nat} {a : Act} (e : s.seek n live f = (a, s')) (h : Keeps s₀ s) :
    Keeps s₀ s' := by
  have := State.seek_ok (s₀ := s₀) n live f h
  rw [e] at this
  exact this

theorem State.findIssue_ok {s₀ s s' : State} {n t a b : Nat} {c : Next} (e : s.findIssue n t = some (a, b, c, s')) (h : Keeps s₀ s) :
    Keeps s₀ s' := by
  unfold State.findIssue at e
  split at e
  · next hs =>
    split at e
    · cases e; exact State.seek_eq hs h
    · cases e
  · cases e

theorem State.haltThr_ok {s₀ s : State} (n : Nat) (t : Nat) (cause : Nat) (ecause : Word) (hK : Keeps s₀ s) : Keeps s₀ (State.haltThr s n t cause ecause) := by
  unfold State.haltThr
  dsimp only
  repeat' first
    | with_reducible assumption
    | with_reducible apply State.setThr_ok
    | with_reducible apply State.offer_ok
    | with_reducible apply State.endStep_ok

theorem State.stepDone_ok {s₀ s : State} (n : Nat) (t : Nat) (hK : Keeps s₀ s) : Keeps s₀ (State.stepDone s n t) := by
  unfold State.stepDone
  dsimp only
  repeat' first
    | with_reducible assumption
    | with_reducible apply State.setThr_ok
    | with_reducible apply State.endStep_ok
    | with_reducible apply Keeps.ite

theorem State.latch_ok {s₀ s : State} (n : Nat) (t : Nat) (l : Nat) (epc : Word) (cause : Word) (hK : Keeps s₀ s) : Keeps s₀ (State.latch s n t l epc cause) := by
  unfold State.latch
  dsimp only
  repeat' first
    | with_reducible assumption
    | with_reducible apply State.setThr_ok
    | with_reducible apply State.haltThr_ok
    | with_reducible apply Keeps.ite

theorem State.trapAt_ok {s₀ s : State} (n : Nat) (t : Nat) (pc : Word) (r : Nat) (stage : Nat) (v : Trap) (hK : Keeps s₀ s) : Keeps s₀ (State.trapAt s n t pc r stage v) := by
  unfold State.trapAt
  dsimp only
  repeat' first
    | with_reducible assumption
    | with_reducible apply State.setThr_ok
    | with_reducible apply State.haltThr_ok
    | with_reducible apply State.latch_ok
    | with_reducible apply Keeps.ite

theorem Ctx.trap_ok {s₀ s : State} (c : Ctx) (stage : Nat) (v : Trap) (hK : Keeps s₀ s) : Keeps s₀ (Ctx.trap c stage v s) := by
  unfold Ctx.trap
  repeat' first
    | with_reducible assumption
    | with_reducible apply State.trapAt_ok

theorem Ctx.fin_ok {s₀ s : State} (c : Ctx) (ws : List LandW) (hK : Keeps s₀ s) : Keeps s₀ (Ctx.fin c ws s) := by
  unfold Ctx.fin
  dsimp only
  repeat' first
    | with_reducible assumption
    | with_reducible apply State.setThr_ok
    | split

theorem Ctx.finLoad_ok {s₀ s : State} (c : Ctx) (served : Nat) (ws : List LandW) (hK : Keeps s₀ s) : Keeps s₀ (Ctx.finLoad c served ws s) := by
  unfold Ctx.finLoad
  dsimp only
  repeat' first
    | with_reducible assumption
    | with_reducible apply State.setThr_ok

theorem Ctx.more_ok {s₀ s : State} (c : Ctx) (b : Beats) (hK : Keeps s₀ s) : Keeps s₀ (Ctx.more c b s) := by
  unfold Ctx.more
  dsimp only
  repeat' first
    | with_reducible assumption
    | with_reducible apply State.setThr_ok

theorem Ctx.resolved_ok {s₀ s : State} (c : Ctx) (target : Option Word) (hK : Keeps s₀ s) : Keeps s₀ (Ctx.resolved c target s).2 := by
  unfold Ctx.resolved
  dsimp only
  repeat' first
    | with_reducible assumption
    | with_reducible apply State.askAt_ok
    | with_reducible apply State.setCore_ok
    | split

theorem Ctx.resolved_eq {s₀ s s' : State} {c : Ctx} {target : Option Word} {v} (e : Ctx.resolved c target s = (v, s')) (hK : Keeps s₀ s) : Keeps s₀ s' := by
  have := Ctx.resolved_ok (s₀ := s₀) c target hK
  rw [e] at this
  exact this

theorem Ctx.jump_ok {s₀ s : State} (c : Ctx) (target : Word) (q : Nat) (hK : Keeps s₀ s) : Keeps s₀ (Ctx.jump c target q s) := by
  unfold Ctx.jump
  dsimp only
  repeat' first
    | with_reducible assumption
    | with_reducible apply State.setCore_ok
    | with_reducible apply State.setThr_ok

theorem Ctx.go_ok {s₀ s : State} (c : Ctx) (target : Word) (ws : List LandW) (hK : Keeps s₀ s) : Keeps s₀ (Ctx.go c target ws s) := by
  unfold Ctx.go
  dsimp only
  repeat' first
    | with_reducible assumption
    | with_reducible apply State.setThr_ok
    | with_reducible apply Ctx.jump_ok
    | with_reducible apply Ctx.resolved_ok
    | with_reducible apply Keeps.ite

theorem Ctx.stay_ok {s₀ s : State} (c : Ctx) (ws : List LandW) (hK : Keeps s₀ s) : Keeps s₀ (Ctx.stay c ws s) := by
  unfold Ctx.stay
  dsimp only
  repeat' first
    | with_reducible assumption
    | with_reducible apply Ctx.fin_ok
    | with_reducible apply Ctx.resolved_ok
    | with_reducible apply State.setThr_ok
    | with_reducible apply Keeps.ite

theorem Ctx.wait_ok {s₀ s : State} (c : Ctx) (kind : Nat) (opnd : Nat) (tick : Nat) (hK : Keeps s₀ s) : Keeps s₀ (Ctx.wait c kind opnd tick s) := by
  unfold Ctx.wait
  dsimp only
  repeat' first
    | with_reducible assumption
    | with_reducible apply State.setThr_ok

theorem Ctx.hold_ok {s₀ s : State} (c : Ctx) (hK : Keeps s₀ s) : Keeps s₀ (Ctx.hold c s) := by
  unfold Ctx.hold
  dsimp only
  repeat' first
    | with_reducible assumption
    | with_reducible apply State.setThr_ok

theorem State.enterSlot_ok {s₀ s : State} (n : Nat) (t : Nat) (r : Nat) (lane : Nat) (use : PortUse) (hK : Keeps s₀ s) : Keeps s₀ (State.enterSlot s n t r lane use) := by
  unfold State.enterSlot
  dsimp only
  repeat' first
    | with_reducible assumption
    | with_reducible apply State.setCore_ok
    | with_reducible apply State.setThr_ok

theorem State.ranFrom_ok {s₀ s : State} (n : Nat) (t : Nat) (hK : Keeps s₀ s) : Keeps s₀ (State.ranFrom s n t) := by
  unfold State.ranFrom
  dsimp only
  repeat' first
    | with_reducible assumption
    | with_reducible apply State.setCore_ok
    | with_reducible apply State.askAt_ok
    | with_reducible apply Keeps.ite

theorem Ctx.noOp_ok {s₀ s : State} (c : Ctx) (hK : Keeps s₀ s) : Keeps s₀ (Ctx.noOp c s) := by
  unfold Ctx.noOp
  repeat' first
    | with_reducible assumption
    | with_reducible apply Ctx.fin_ok
    | with_reducible apply Ctx.more_ok
    | split

theorem Ctx.plainBeat_ok {s₀ s : State} (c : Ctx) (b : Beats) (hK : Keeps s₀ s) : Keeps s₀ (Ctx.plainBeat c b s) := by
  unfold Ctx.plainBeat
  repeat' first
    | with_reducible assumption
    | with_reducible apply Ctx.more_ok
    | with_reducible apply Ctx.fin_ok
    | split

theorem strandBy_ok {s₀ s : State} (mn : Mn) (body : Ctx → State → State) (beat : Ctx → Beats → State → State) (n : Nat) (t : Nat) (hbody : ∀ i0 x, Keeps s₀ x → Keeps s₀ (body i0 x)) (hbeat : ∀ i0 i1 x, Keeps s₀ x → Keeps s₀ (beat i0 i1 x)) (hK : Keeps s₀ s) : Keeps s₀ (strandBy mn body beat n t s) := by
  unfold strandBy
  dsimp only
  repeat' first
    | with_reducible assumption
    | with_reducible apply State.findIssue_ok (by with_reducible assumption)
    | with_reducible apply State.enterSlot_ok
    | with_reducible apply State.ranFrom_ok
    | with_reducible apply Ctx.trap_ok
    | with_reducible apply Ctx.stay_ok
    | with_reducible apply Ctx.noOp_ok
    | with_reducible apply State.stepDone_ok
    | with_reducible apply hbody
    | with_reducible apply hbeat
    | with_reducible apply Keeps.ite
    | split

theorem strand_ok {s₀ s : State} (mn : Mn) (body : Ctx → State → State) (n : Nat) (t : Nat) (hbody : ∀ i0 x, Keeps s₀ x → Keeps s₀ (body i0 x)) (hK : Keeps s₀ s) : Keeps s₀ (strand mn body n t s) := by
  unfold strand
  repeat' first
    | intro _
    | with_reducible assumption
    | with_reducible apply strandBy_ok
    | with_reducible apply Ctx.plainBeat_ok
    | with_reducible apply hbody

theorem Ctx.toRetry_ok {s₀ s : State} (c : Ctx) (p : Pend) (hK : Keeps s₀ s) : Keeps s₀ (Ctx.toRetry c p s) := by
  unfold Ctx.toRetry
  dsimp only
  repeat' first
    | with_reducible assumption
    | with_reducible apply State.setThr_ok
    | with_reducible apply State.setCore_ok

end Sys2Proof.Machine
end

