-- ==== Sys2Proof/Laws/KeepAlu.lean ====
section
/-! SUPPORT. The operations of Machine/Alu.lean keep the queue and the invariant: one lemma each, for chains of `Keeps`. -/
namespace Sys2Proof.Machine

theorem Ctx.operandDone_ok {s₀ s : State} (c : Ctx) (served : Nat) (v : Nat) (hK : Keeps s₀ s) : Keeps s₀ (Ctx.operandDone c served v s) := by
  unfold Ctx.operandDone
  dsimp only
  repeat' first
    | with_reducible assumption
    | with_reducible apply Ctx.more_ok
    | with_reducible apply State.drawn_ok
    | with_reducible apply State.setThr_ok
    | with_reducible apply Keeps.ite

theorem Ctx.onward_ok {s₀ s : State} (c : Ctx) (hK : Keeps s₀ s) : Keeps s₀ (Ctx.onward c s) := by
  unfold Ctx.onward
  repeat' first
    | with_reducible assumption
    | with_reducible apply Ctx.fin_ok
    | with_reducible apply Keeps.ite

theorem Ctx.direct_ok {s₀ s : State} (c : Ctx) (v : Word) (hK : Keeps s₀ s) : Keeps s₀ (Ctx.direct c v s) := by
  unfold Ctx.direct
  repeat' first
    | with_reducible assumption
    | with_reducible apply Ctx.operandDone_ok
    | with_reducible apply Ctx.fin_ok
    | with_reducible apply Keeps.ite

theorem Ctx.noWindow_ok {s₀ s : State} (c : Ctx) (hK : Keeps s₀ s) : Keeps s₀ (Ctx.noWindow c s) := by
  unfold Ctx.noWindow
  repeat' first
    | with_reducible assumption
    | with_reducible apply Ctx.trap_ok
    | with_reducible apply State.drawn_ok

theorem Ctx.loaded_ok {s₀ s : State} (c : Ctx) (served : Nat) (a : Nat) (len : Nat) (hK : Keeps s₀ s) : Keeps s₀ (Ctx.loaded c served a len s) := by
  unfold Ctx.loaded
  repeat' first
    | with_reducible assumption
    | with_reducible apply Ctx.operandDone_ok
    | with_reducible apply State.readGrans_ok

theorem Ctx.badLoad_ok {s₀ s : State} (c : Ctx) (a : Nat) (len : Nat) (hK : Keeps s₀ s) : Keeps s₀ (Ctx.badLoad c a len s) := by
  unfold Ctx.badLoad
  repeat' first
    | with_reducible assumption
    | with_reducible apply Ctx.trap_ok
    | with_reducible apply State.readGrans_ok

theorem Ctx.readAt_ok {s₀ s : State} (c : Ctx) (a : Nat) (len : Nat) (hK : Keeps s₀ s) : Keeps s₀ (Ctx.readAt c a len s) := by
  unfold Ctx.readAt
  dsimp only
  repeat' first
    | with_reducible assumption
    | with_reducible apply Ctx.loaded_ok
    | with_reducible apply Ctx.toRetry_ok
    | with_reducible apply State.setCore_ok
    | with_reducible apply Ctx.operandDone_ok
    | with_reducible apply State.setThr_ok
    | with_reducible apply Keeps.ite
    | split

theorem Ctx.writeAt_ok {s₀ s : State} (c : Ctx) (q : Nat) (a : Nat) (len : Nat) (v : Nat) (hK : Keeps s₀ s) : Keeps s₀ (Ctx.writeAt c q a len v s) := by
  unfold Ctx.writeAt
  dsimp only
  repeat' first
    | with_reducible assumption
    | with_reducible apply State.storeTo_ok (by with_reducible assumption)
    | with_reducible apply Ctx.toRetry_ok
    | with_reducible apply State.setThr_ok
    | split

theorem Ctx.memForm_ok {s₀ s : State} (c : Ctx) (hK : Keeps s₀ s) : Keeps s₀ (Ctx.memForm c s) := by
  unfold Ctx.memForm
  repeat' first
    | with_reducible assumption
    | with_reducible apply Ctx.direct_ok
    | with_reducible apply Ctx.noWindow_ok
    | with_reducible apply Ctx.trap_ok
    | with_reducible apply State.parkOn_ok
    | with_reducible apply Ctx.badLoad_ok
    | with_reducible apply Ctx.readAt_ok
    | with_reducible apply Ctx.onward_ok
    | with_reducible apply Keeps.ite
    | split

theorem Ctx.storeForm_ok {s₀ s : State} (c : Ctx) (v : Nat) (hK : Keeps s₀ s) : Keeps s₀ (Ctx.storeForm c v s) := by
  unfold Ctx.storeForm
  repeat' first
    | with_reducible assumption
    | with_reducible apply Ctx.fin_ok
    | with_reducible apply Ctx.noWindow_ok
    | with_reducible apply Ctx.trap_ok
    | with_reducible apply Ctx.writeAt_ok
    | split

theorem execLd_ok {s₀ s s' : State} (n : Fin 16) (t : Fin 16) (hK : Keeps s₀ s) (e : execLd n t s = .next s') : Keeps s₀ s' := by
  unfold execLd at e
  rw [← next_inj e]
  repeat' first
    | intro _
    | with_reducible assumption
    | with_reducible apply strand_ok
    | with_reducible apply Ctx.memForm_ok

theorem execLdx_ok {s₀ s s' : State} (n : Fin 16) (t : Fin 16) (hK : Keeps s₀ s) (e : execLdx n t s = .next s') : Keeps s₀ s' := by
  unfold execLdx at e
  rw [← next_inj e]
  repeat' first
    | intro _
    | with_reducible assumption
    | with_reducible apply strand_ok
    | with_reducible apply Ctx.memForm_ok

theorem execLdy_ok {s₀ s s' : State} (n : Fin 16) (t : Fin 16) (hK : Keeps s₀ s) (e : execLdy n t s = .next s') : Keeps s₀ s' := by
  unfold execLdy at e
  rw [← next_inj e]
  repeat' first
    | intro _
    | with_reducible assumption
    | with_reducible apply strand_ok
    | with_reducible apply Ctx.memForm_ok

theorem execLds_ok {s₀ s s' : State} (n : Fin 16) (t : Fin 16) (hK : Keeps s₀ s) (e : execLds n t s = .next s') : Keeps s₀ s' := by
  unfold execLds at e
  rw [← next_inj e]
  repeat' first
    | intro _
    | with_reducible assumption
    | with_reducible apply strand_ok
    | with_reducible apply Ctx.memForm_ok

theorem execSt_ok {s₀ s s' : State} (n : Fin 16) (t : Fin 16) (hK : Keeps s₀ s) (e : execSt n t s = .next s') : Keeps s₀ s' := by
  unfold execSt at e
  rw [← next_inj e]
  repeat' first
    | intro _
    | with_reducible assumption
    | with_reducible apply strand_ok
    | with_reducible apply Ctx.storeForm_ok

theorem execStx_ok {s₀ s s' : State} (n : Fin 16) (t : Fin 16) (hK : Keeps s₀ s) (e : execStx n t s = .next s') : Keeps s₀ s' := by
  unfold execStx at e
  rw [← next_inj e]
  repeat' first
    | intro _
    | with_reducible assumption
    | with_reducible apply strand_ok
    | with_reducible apply Ctx.storeForm_ok

theorem execSty_ok {s₀ s s' : State} (n : Fin 16) (t : Fin 16) (hK : Keeps s₀ s) (e : execSty n t s = .next s') : Keeps s₀ s' := by
  unfold execSty at e
  rw [← next_inj e]
  repeat' first
    | intro _
    | with_reducible assumption
    | with_reducible apply strand_ok
    | with_reducible apply Ctx.storeForm_ok

theorem execLil_ok {s₀ s s' : State} (n : Fin 16) (t : Fin 16) (hK : Keeps s₀ s) (e : execLil n t s = .next s') : Keeps s₀ s' := by
  unfold execLil at e
  rw [← next_inj e]
  repeat' first
    | intro _
    | with_reducible assumption
    | with_reducible apply strand_ok
    | with_reducible apply Ctx.fin_ok

theorem execLih_ok {s₀ s s' : State} (n : Fin 16) (t : Fin 16) (hK : Keeps s₀ s) (e : execLih n t s = .next s') : Keeps s₀ s' := by
  unfold execLih at e
  rw [← next_inj e]
  repeat' first
    | intro _
    | with_reducible assumption
    | with_reducible apply strand_ok
    | with_reducible apply Ctx.fin_ok

theorem execAdd_ok {s₀ s s' : State} (n : Fin 16) (t : Fin 16) (hK : Keeps s₀ s) (e : execAdd n t s = .next s') : Keeps s₀ s' := by
  unfold execAdd at e
  rw [← next_inj e]
  repeat' first
    | intro _
    | with_reducible assumption
    | with_reducible apply strand_ok
    | with_reducible apply Ctx.memForm_ok

theorem execAdc_ok {s₀ s s' : State} (n : Fin 16) (t : Fin 16) (hK : Keeps s₀ s) (e : execAdc n t s = .next s') : Keeps s₀ s' := by
  unfold execAdc at e
  rw [← next_inj e]
  repeat' first
    | intro _
    | with_reducible assumption
    | with_reducible apply strand_ok
    | with_reducible apply Ctx.memForm_ok

theorem execSub_ok {s₀ s s' : State} (n : Fin 16) (t : Fin 16) (hK : Keeps s₀ s) (e : execSub n t s = .next s') : Keeps s₀ s' := by
  unfold execSub at e
  rw [← next_inj e]
  repeat' first
    | intro _
    | with_reducible assumption
    | with_reducible apply strand_ok
    | with_reducible apply Ctx.memForm_ok

theorem execSbc_ok {s₀ s s' : State} (n : Fin 16) (t : Fin 16) (hK : Keeps s₀ s) (e : execSbc n t s = .next s') : Keeps s₀ s' := by
  unfold execSbc at e
  rw [← next_inj e]
  repeat' first
    | intro _
    | with_reducible assumption
    | with_reducible apply strand_ok
    | with_reducible apply Ctx.memForm_ok

theorem execAndd_ok {s₀ s s' : State} (n : Fin 16) (t : Fin 16) (hK : Keeps s₀ s) (e : execAndd n t s = .next s') : Keeps s₀ s' := by
  unfold execAndd at e
  rw [← next_inj e]
  repeat' first
    | intro _
    | with_reducible assumption
    | with_reducible apply strand_ok
    | with_reducible apply Ctx.memForm_ok

theorem execOrr_ok {s₀ s s' : State} (n : Fin 16) (t : Fin 16) (hK : Keeps s₀ s) (e : execOrr n t s = .next s') : Keeps s₀ s' := by
  unfold execOrr at e
  rw [← next_inj e]
  repeat' first
    | intro _
    | with_reducible assumption
    | with_reducible apply strand_ok
    | with_reducible apply Ctx.memForm_ok

theorem execXorr_ok {s₀ s s' : State} (n : Fin 16) (t : Fin 16) (hK : Keeps s₀ s) (e : execXorr n t s = .next s') : Keeps s₀ s' := by
  unfold execXorr at e
  rw [← next_inj e]
  repeat' first
    | intro _
    | with_reducible assumption
    | with_reducible apply strand_ok
    | with_reducible apply Ctx.memForm_ok

theorem execCmp_ok {s₀ s s' : State} (n : Fin 16) (t : Fin 16) (hK : Keeps s₀ s) (e : execCmp n t s = .next s') : Keeps s₀ s' := by
  unfold execCmp at e
  rw [← next_inj e]
  repeat' first
    | intro _
    | with_reducible assumption
    | with_reducible apply strand_ok
    | with_reducible apply Ctx.memForm_ok

theorem execCpx_ok {s₀ s s' : State} (n : Fin 16) (t : Fin 16) (hK : Keeps s₀ s) (e : execCpx n t s = .next s') : Keeps s₀ s' := by
  unfold execCpx at e
  rw [← next_inj e]
  repeat' first
    | intro _
    | with_reducible assumption
    | with_reducible apply strand_ok
    | with_reducible apply Ctx.memForm_ok

theorem execCpy_ok {s₀ s s' : State} (n : Fin 16) (t : Fin 16) (hK : Keeps s₀ s) (e : execCpy n t s = .next s') : Keeps s₀ s' := by
  unfold execCpy at e
  rw [← next_inj e]
  repeat' first
    | intro _
    | with_reducible assumption
    | with_reducible apply strand_ok
    | with_reducible apply Ctx.memForm_ok

theorem execBit_ok {s₀ s s' : State} (n : Fin 16) (t : Fin 16) (hK : Keeps s₀ s) (e : execBit n t s = .next s') : Keeps s₀ s' := by
  unfold execBit at e
  rw [← next_inj e]
  repeat' first
    | intro _
    | with_reducible assumption
    | with_reducible apply strand_ok
    | with_reducible apply Ctx.memForm_ok

theorem incBody_ok {s₀ s : State} (c : Ctx) (hK : Keeps s₀ s) : Keeps s₀ (incBody c s) := by
  unfold incBody
  dsimp only
  repeat' first
    | with_reducible assumption
    | with_reducible apply Ctx.fin_ok

theorem execInc_ok {s₀ s s' : State} (n : Fin 16) (t : Fin 16) (hK : Keeps s₀ s) (e : execInc n t s = .next s') : Keeps s₀ s' := by
  unfold execInc at e
  rw [← next_inj e]
  repeat' first
    | intro _
    | with_reducible assumption
    | with_reducible apply strand_ok
    | with_reducible apply incBody_ok

theorem decBody_ok {s₀ s : State} (c : Ctx) (hK : Keeps s₀ s) : Keeps s₀ (decBody c s) := by
  unfold decBody
  dsimp only
  repeat' first
    | with_reducible assumption
    | with_reducible apply Ctx.fin_ok

theorem execDec_ok {s₀ s s' : State} (n : Fin 16) (t : Fin 16) (hK : Keeps s₀ s) (e : execDec n t s = .next s') : Keeps s₀ s' := by
  unfold execDec at e
  rw [← next_inj e]
  repeat' first
    | intro _
    | with_reducible assumption
    | with_reducible apply strand_ok
    | with_reducible apply decBody_ok

theorem execNeg_ok {s₀ s s' : State} (n : Fin 16) (t : Fin 16) (hK : Keeps s₀ s) (e : execNeg n t s = .next s') : Keeps s₀ s' := by
  unfold execNeg at e
  rw [← next_inj e]
  repeat' first
    | intro _
    | with_reducible assumption
    | with_reducible apply strand_ok
    | with_reducible apply Ctx.fin_ok

theorem execNott_ok {s₀ s s' : State} (n : Fin 16) (t : Fin 16) (hK : Keeps s₀ s) (e : execNott n t s = .next s') : Keeps s₀ s' := by
  unfold execNott at e
  rw [← next_inj e]
  repeat' first
    | intro _
    | with_reducible assumption
    | with_reducible apply strand_ok
    | with_reducible apply Ctx.fin_ok

theorem execMov_ok {s₀ s s' : State} (n : Fin 16) (t : Fin 16) (hK : Keeps s₀ s) (e : execMov n t s = .next s') : Keeps s₀ s' := by
  unfold execMov at e
  rw [← next_inj e]
  repeat' first
    | intro _
    | with_reducible assumption
    | with_reducible apply strand_ok
    | with_reducible apply Ctx.fin_ok

theorem execShl_ok {s₀ s s' : State} (n : Fin 16) (t : Fin 16) (hK : Keeps s₀ s) (e : execShl n t s = .next s') : Keeps s₀ s' := by
  unfold execShl at e
  rw [← next_inj e]
  repeat' first
    | intro _
    | with_reducible assumption
    | with_reducible apply strand_ok
    | with_reducible apply Ctx.memForm_ok

theorem execShr_ok {s₀ s s' : State} (n : Fin 16) (t : Fin 16) (hK : Keeps s₀ s) (e : execShr n t s = .next s') : Keeps s₀ s' := by
  unfold execShr at e
  rw [← next_inj e]
  repeat' first
    | intro _
    | with_reducible assumption
    | with_reducible apply strand_ok
    | with_reducible apply Ctx.memForm_ok

theorem execAsr_ok {s₀ s s' : State} (n : Fin 16) (t : Fin 16) (hK : Keeps s₀ s) (e : execAsr n t s = .next s') : Keeps s₀ s' := by
  unfold execAsr at e
  rw [← next_inj e]
  repeat' first
    | intro _
    | with_reducible assumption
    | with_reducible apply strand_ok
    | with_reducible apply Ctx.memForm_ok

theorem execRor_ok {s₀ s s' : State} (n : Fin 16) (t : Fin 16) (hK : Keeps s₀ s) (e : execRor n t s = .next s') : Keeps s₀ s' := by
  unfold execRor at e
  rw [← next_inj e]
  repeat' first
    | intro _
    | with_reducible assumption
    | with_reducible apply strand_ok
    | with_reducible apply Ctx.memForm_ok

theorem execMul_ok {s₀ s s' : State} (n : Fin 16) (t : Fin 16) (hK : Keeps s₀ s) (e : execMul n t s = .next s') : Keeps s₀ s' := by
  unfold execMul at e
  rw [← next_inj e]
  repeat' first
    | intro _
    | with_reducible assumption
    | with_reducible apply strand_ok
    | with_reducible apply Ctx.memForm_ok

theorem execDadd_ok {s₀ s s' : State} (n : Fin 16) (t : Fin 16) (hK : Keeps s₀ s) (e : execDadd n t s = .next s') : Keeps s₀ s' := by
  unfold execDadd at e
  rw [← next_inj e]
  repeat' first
    | intro _
    | with_reducible assumption
    | with_reducible apply strand_ok
    | with_reducible apply Ctx.memForm_ok

theorem execDsub_ok {s₀ s s' : State} (n : Fin 16) (t : Fin 16) (hK : Keeps s₀ s) (e : execDsub n t s = .next s') : Keeps s₀ s' := by
  unfold execDsub at e
  rw [← next_inj e]
  repeat' first
    | intro _
    | with_reducible assumption
    | with_reducible apply strand_ok
    | with_reducible apply Ctx.memForm_ok

theorem execDadj_ok {s₀ s s' : State} (n : Fin 16) (t : Fin 16) (hK : Keeps s₀ s) (e : execDadj n t s = .next s') : Keeps s₀ s' := by
  unfold execDadj at e
  rw [← next_inj e]
  repeat' first
    | intro _
    | with_reducible assumption
    | with_reducible apply strand_ok
    | with_reducible apply Ctx.fin_ok

theorem crcsBody_ok {s₀ s : State} (c : Ctx) (hK : Keeps s₀ s) : Keeps s₀ (crcsBody c s) := by
  unfold crcsBody
  dsimp only
  repeat' first
    | with_reducible assumption
    | with_reducible apply Ctx.fin_ok

theorem execCrcs_ok {s₀ s s' : State} (n : Fin 16) (t : Fin 16) (hK : Keeps s₀ s) (e : execCrcs n t s = .next s') : Keeps s₀ s' := by
  unfold execCrcs at e
  rw [← next_inj e]
  repeat' first
    | intro _
    | with_reducible assumption
    | with_reducible apply strand_ok
    | with_reducible apply crcsBody_ok

theorem execPar_ok {s₀ s s' : State} (n : Fin 16) (t : Fin 16) (hK : Keeps s₀ s) (e : execPar n t s = .next s') : Keeps s₀ s' := by
  unfold execPar at e
  rw [← next_inj e]
  repeat' first
    | intro _
    | with_reducible assumption
    | with_reducible apply strand_ok
    | with_reducible apply Ctx.fin_ok

theorem execBrev_ok {s₀ s s' : State} (n : Fin 16) (t : Fin 16) (hK : Keeps s₀ s) (e : execBrev n t s = .next s') : Keeps s₀ s' := by
  unfold execBrev at e
  rw [← next_inj e]
  repeat' first
    | intro _
    | with_reducible assumption
    | with_reducible apply strand_ok
    | with_reducible apply Ctx.fin_ok

end Sys2Proof.Machine
end

