-- ==== Sys2Proof/Laws/KeepControl.lean ====
section
/-! SUPPORT. The operations of Machine/Control.lean keep the queue and the invariant: one lemma each, for chains of `Keeps`. -/
namespace Sys2Proof.Machine

theorem Ctx.callTo_ok {s₀ s : State} (c : Ctx) (target : Word) (hK : Keeps s₀ s) : Keeps s₀ (Ctx.callTo c target s) := by
  unfold Ctx.callTo
  repeat' first
    | with_reducible assumption
    | with_reducible apply Ctx.trap_ok
    | with_reducible apply Ctx.go_ok
    | with_reducible apply State.setThr_ok
    | with_reducible apply Keeps.ite

theorem execBr_ok {s₀ s s' : State} (n : Fin 16) (t : Fin 16) (hK : Keeps s₀ s) (e : execBr n t s = .next s') : Keeps s₀ s' := by
  unfold execBr at e
  rw [← next_inj e]
  repeat' first
    | intro _
    | with_reducible assumption
    | with_reducible apply strand_ok
    | with_reducible apply Ctx.go_ok

theorem execCall_ok {s₀ s s' : State} (n : Fin 16) (t : Fin 16) (hK : Keeps s₀ s) (e : execCall n t s = .next s') : Keeps s₀ s' := by
  unfold execCall at e
  rw [← next_inj e]
  repeat' first
    | intro _
    | with_reducible assumption
    | with_reducible apply strand_ok
    | with_reducible apply Ctx.callTo_ok

theorem execDbx_ok {s₀ s s' : State} (n : Fin 16) (t : Fin 16) (hK : Keeps s₀ s) (e : execDbx n t s = .next s') : Keeps s₀ s' := by
  unfold execDbx at e
  rw [← next_inj e]
  repeat' first
    | intro _
    | with_reducible assumption
    | with_reducible apply strand_ok
    | with_reducible apply Ctx.stay_ok
    | with_reducible apply Ctx.go_ok
    | split

theorem execJmpr_ok {s₀ s s' : State} (n : Fin 16) (t : Fin 16) (hK : Keeps s₀ s) (e : execJmpr n t s = .next s') : Keeps s₀ s' := by
  unfold execJmpr at e
  rw [← next_inj e]
  repeat' first
    | intro _
    | with_reducible assumption
    | with_reducible apply strand_ok
    | with_reducible apply Ctx.go_ok

theorem execCallr_ok {s₀ s s' : State} (n : Fin 16) (t : Fin 16) (hK : Keeps s₀ s) (e : execCallr n t s = .next s') : Keeps s₀ s' := by
  unfold execCallr at e
  rw [← next_inj e]
  repeat' first
    | intro _
    | with_reducible assumption
    | with_reducible apply strand_ok
    | with_reducible apply Ctx.callTo_ok

theorem retBody_ok {s₀ s : State} (c : Ctx) (hK : Keeps s₀ s) : Keeps s₀ (retBody c s) := by
  unfold retBody
  dsimp only
  repeat' first
    | with_reducible assumption
    | with_reducible apply Ctx.trap_ok
    | with_reducible apply Ctx.go_ok
    | with_reducible apply State.setThr_ok
    | with_reducible apply Keeps.ite

theorem execRet_ok {s₀ s s' : State} (n : Fin 16) (t : Fin 16) (hK : Keeps s₀ s) (e : execRet n t s = .next s') : Keeps s₀ s' := by
  unfold execRet at e
  rw [← next_inj e]
  repeat' first
    | intro _
    | with_reducible assumption
    | with_reducible apply strand_ok
    | with_reducible apply retBody_ok

theorem reteBody_ok {s₀ s : State} (c : Ctx) (hK : Keeps s₀ s) : Keeps s₀ (reteBody c s) := by
  unfold reteBody
  dsimp only
  repeat' first
    | with_reducible assumption
    | with_reducible apply Ctx.go_ok
    | with_reducible apply State.setThr_ok

theorem execRete_ok {s₀ s s' : State} (n : Fin 16) (t : Fin 16) (hK : Keeps s₀ s) (e : execRete n t s = .next s') : Keeps s₀ s' := by
  unfold execRete at e
  rw [← next_inj e]
  repeat' first
    | intro _
    | with_reducible assumption
    | with_reducible apply strand_ok
    | with_reducible apply reteBody_ok

theorem loopBody_ok {s₀ s : State} (c : Ctx) (hK : Keeps s₀ s) : Keeps s₀ (loopBody c s) := by
  unfold loopBody
  dsimp only
  repeat' first
    | with_reducible assumption
    | with_reducible apply Ctx.go_ok
    | with_reducible apply Ctx.fin_ok
    | with_reducible apply Keeps.ite

theorem execLoop_ok {s₀ s s' : State} (n : Fin 16) (t : Fin 16) (hK : Keeps s₀ s) (e : execLoop n t s = .next s') : Keeps s₀ s' := by
  unfold execLoop at e
  rw [← next_inj e]
  repeat' first
    | intro _
    | with_reducible assumption
    | with_reducible apply strand_ok
    | with_reducible apply loopBody_ok

theorem execLclr_ok {s₀ s s' : State} (n : Fin 16) (t : Fin 16) (hK : Keeps s₀ s) (e : execLclr n t s = .next s') : Keeps s₀ s' := by
  unfold execLclr at e
  rw [← next_inj e]
  repeat' first
    | intro _
    | with_reducible assumption
    | with_reducible apply strand_ok
    | with_reducible apply Ctx.fin_ok

theorem nvHintBody_ok {s₀ s : State} (c : Ctx) (hK : Keeps s₀ s) : Keeps s₀ (nvHintBody c s) := by
  unfold nvHintBody
  dsimp only
  repeat' first
    | with_reducible assumption
    | with_reducible apply Ctx.fin_ok
    | with_reducible apply State.askAt_ok
    | with_reducible apply Keeps.ite

theorem execNvHint_ok {s₀ s s' : State} (n : Fin 16) (t : Fin 16) (hK : Keeps s₀ s) (e : execNvHint n t s = .next s') : Keeps s₀ s' := by
  unfold execNvHint at e
  rw [← next_inj e]
  repeat' first
    | intro _
    | with_reducible assumption
    | with_reducible apply strand_ok
    | with_reducible apply nvHintBody_ok

theorem execMfs_ok {s₀ s s' : State} (n : Fin 16) (t : Fin 16) (hK : Keeps s₀ s) (e : execMfs n t s = .next s') : Keeps s₀ s' := by
  unfold execMfs at e
  rw [← next_inj e]
  repeat' first
    | intro _
    | with_reducible assumption
    | with_reducible apply strand_ok
    | with_reducible apply Ctx.fin_ok

theorem Ctx.readEntry_ok {s₀ s : State} (c : Ctx) (v : Word) (hK : Keeps s₀ s) : Keeps s₀ (Ctx.readEntry c v s) := by
  unfold Ctx.readEntry
  dsimp only
  repeat' first
    | with_reducible assumption
    | with_reducible apply Ctx.toRetry_ok
    | with_reducible apply State.setCore_ok
    | with_reducible apply Keeps.ite

theorem mtsBody_ok {s₀ s : State} (c : Ctx) (hK : Keeps s₀ s) : Keeps s₀ (mtsBody c s) := by
  unfold mtsBody
  dsimp only
  repeat' first
    | with_reducible assumption
    | with_reducible apply Ctx.trap_ok
    | with_reducible apply Ctx.fin_ok
    | with_reducible apply Ctx.readEntry_ok
    | with_reducible apply Keeps.ite
    | split

theorem execMts_ok {s₀ s s' : State} (n : Fin 16) (t : Fin 16) (hK : Keeps s₀ s) (e : execMts n t s = .next s') : Keeps s₀ s' := by
  unfold execMts at e
  rw [← next_inj e]
  repeat' first
    | intro _
    | with_reducible assumption
    | with_reducible apply strand_ok
    | with_reducible apply mtsBody_ok

theorem execWtld_ok {s₀ s s' : State} (n : Fin 16) (t : Fin 16) (hK : Keeps s₀ s) (e : execWtld n t s = .next s') : Keeps s₀ s' := by
  unfold execWtld at e
  rw [← next_inj e]
  repeat' first
    | intro _
    | with_reducible assumption
    | with_reducible apply strand_ok
    | with_reducible apply Ctx.fin_ok

theorem execWtadd_ok {s₀ s s' : State} (n : Fin 16) (t : Fin 16) (hK : Keeps s₀ s) (e : execWtadd n t s = .next s') : Keeps s₀ s' := by
  unfold execWtadd at e
  rw [← next_inj e]
  repeat' first
    | intro _
    | with_reducible assumption
    | with_reducible apply strand_ok
    | with_reducible apply Ctx.fin_ok

theorem execWtarm_ok {s₀ s s' : State} (n : Fin 16) (t : Fin 16) (hK : Keeps s₀ s) (e : execWtarm n t s = .next s') : Keeps s₀ s' := by
  unfold execWtarm at e
  rw [← next_inj e]
  repeat' first
    | intro _
    | with_reducible assumption
    | with_reducible apply strand_ok
    | with_reducible apply Ctx.fin_ok

theorem deadlineStep_ok {s₀ s : State} (n : Nat) (t : Nat) (hK : Keeps s₀ s) : Keeps s₀ (deadlineStep n t s) := by
  unfold deadlineStep
  dsimp only
  repeat' first
    | with_reducible assumption
    | with_reducible apply State.setThr_ok
    | with_reducible apply Keeps.ite

theorem execDeadlineFire_ok {s₀ s s' : State} (n : Fin 16) (t : Fin 16) (hK : Keeps s₀ s) (e : execDeadlineFire n t s = .next s') : Keeps s₀ s' := by
  unfold execDeadlineFire at e
  rw [← next_inj e]
  repeat' first
    | with_reducible assumption
    | with_reducible apply deadlineStep_ok

theorem tbrdBody_ok {s₀ s : State} (c : Ctx) (hK : Keeps s₀ s) : Keeps s₀ (tbrdBody c s) := by
  unfold tbrdBody
  dsimp only
  repeat' first
    | with_reducible assumption
    | with_reducible apply State.seeTb_ok
    | with_reducible apply State.setThr_ok
    | with_reducible apply Ctx.fin_ok

theorem execTbrd_ok {s₀ s s' : State} (n : Fin 16) (t : Fin 16) (hK : Keeps s₀ s) (e : execTbrd n t s = .next s') : Keeps s₀ s' := by
  unfold execTbrd at e
  rw [← next_inj e]
  repeat' first
    | intro _
    | with_reducible assumption
    | with_reducible apply strand_ok
    | with_reducible apply tbrdBody_ok

theorem waittBody_ok {s₀ s : State} (c : Ctx) (hK : Keeps s₀ s) : Keeps s₀ (waittBody c s) := by
  unfold waittBody
  dsimp only
  repeat' first
    | with_reducible assumption
    | with_reducible apply State.seeTb_ok
    | with_reducible apply Ctx.fin_ok
    | with_reducible apply Ctx.wait_ok
    | with_reducible apply Keeps.ite

theorem execWaitt_ok {s₀ s s' : State} (n : Fin 16) (t : Fin 16) (hK : Keeps s₀ s) (e : execWaitt n t s = .next s') : Keeps s₀ s' := by
  unfold execWaitt at e
  rw [← next_inj e]
  repeat' first
    | intro _
    | with_reducible assumption
    | with_reducible apply strand_ok
    | with_reducible apply waittBody_ok

theorem execNop_ok {s₀ s s' : State} (n : Fin 16) (t : Fin 16) (hK : Keeps s₀ s) (e : execNop n t s = .next s') : Keeps s₀ s' := by
  unfold execNop at e
  rw [← next_inj e]
  repeat' first
    | intro _
    | with_reducible assumption
    | with_reducible apply strand_ok
    | with_reducible apply Ctx.fin_ok

theorem execSett_ok {s₀ s s' : State} (n : Fin 16) (t : Fin 16) (hK : Keeps s₀ s) (e : execSett n t s = .next s') : Keeps s₀ s' := by
  unfold execSett at e
  rw [← next_inj e]
  repeat' first
    | intro _
    | with_reducible assumption
    | with_reducible apply strand_ok
    | with_reducible apply Ctx.fin_ok

theorem execClrt_ok {s₀ s s' : State} (n : Fin 16) (t : Fin 16) (hK : Keeps s₀ s) (e : execClrt n t s = .next s') : Keeps s₀ s' := by
  unfold execClrt at e
  rw [← next_inj e]
  repeat' first
    | intro _
    | with_reducible assumption
    | with_reducible apply strand_ok
    | with_reducible apply Ctx.fin_ok

theorem idleBody_ok {s₀ s : State} (c : Ctx) (hK : Keeps s₀ s) : Keeps s₀ (idleBody c s) := by
  unfold idleBody
  dsimp only
  repeat' first
    | with_reducible assumption
    | with_reducible apply State.setThr_ok

theorem execIdle_ok {s₀ s s' : State} (n : Fin 16) (t : Fin 16) (hK : Keeps s₀ s) (e : execIdle n t s = .next s') : Keeps s₀ s' := by
  unfold execIdle at e
  rw [← next_inj e]
  repeat' first
    | intro _
    | with_reducible assumption
    | with_reducible apply strand_ok
    | with_reducible apply idleBody_ok

theorem State.trigOut_ok {s₀ s : State} (hK : Keeps s₀ s) : Keeps s₀ (State.trigOut s) := by
  unfold State.trigOut
  dsimp only
  repeat' first
    | with_reducible assumption
    | with_reducible apply Keeps.ite
  all_goals try with_reducible apply Keeps.free
  repeat' first
    | with_reducible assumption

theorem brkBody_ok {s₀ s : State} (c : Ctx) (hK : Keeps s₀ s) : Keeps s₀ (brkBody c s) := by
  unfold brkBody
  dsimp only
  repeat' first
    | with_reducible assumption
    | with_reducible apply Ctx.fin_ok
    | with_reducible apply State.haltThr_ok
    | with_reducible apply State.trigOut_ok
    | with_reducible apply Ctx.trap_ok
    | with_reducible apply Keeps.ite

theorem execBrk_ok {s₀ s s' : State} (n : Fin 16) (t : Fin 16) (hK : Keeps s₀ s) (e : execBrk n t s = .next s') : Keeps s₀ s' := by
  unfold execBrk at e
  rw [← next_inj e]
  repeat' first
    | intro _
    | with_reducible assumption
    | with_reducible apply strand_ok
    | with_reducible apply brkBody_ok

theorem Ctx.uopEnd_ok {s₀ s : State} (c : Ctx) (served : Nat) (w : DWord) (rest : List DWord) (u : Tab Word) (fl : BitVec 6) (hK : Keeps s₀ s) : Keeps s₀ (Ctx.uopEnd c served w rest u fl s) := by
  unfold Ctx.uopEnd
  dsimp only
  repeat' first
    | with_reducible assumption
    | with_reducible apply Ctx.more_ok
    | with_reducible apply Ctx.fin_ok
    | with_reducible apply State.setThr_ok
    | with_reducible apply Ctx.writeAt_ok
    | with_reducible apply Keeps.ite

theorem Ctx.uopLoad_ok {s₀ s : State} (c : Ctx) (w : DWord) (rest : List DWord) (u : Tab Word) (fl : BitVec 6) (hK : Keeps s₀ s) : Keeps s₀ (Ctx.uopLoad c w rest u fl s) := by
  unfold Ctx.uopLoad
  dsimp only
  repeat' first
    | with_reducible assumption
    | with_reducible apply Ctx.trap_ok
    | with_reducible apply State.drawn_ok
    | with_reducible apply Ctx.uopEnd_ok
    | with_reducible apply State.readGrans_ok
    | with_reducible apply Ctx.badLoad_ok
    | with_reducible apply Ctx.more_ok
    | with_reducible apply Ctx.toRetry_ok
    | with_reducible apply State.setCore_ok
    | with_reducible apply Keeps.ite
    | split

theorem Ctx.xopBeat_ok {s₀ s : State} (c : Ctx) (ops : List DWord) (u : Tab Word) (fl : BitVec 6) (hK : Keeps s₀ s) : Keeps s₀ (Ctx.xopBeat c ops u fl s) := by
  unfold Ctx.xopBeat
  dsimp only
  repeat' first
    | with_reducible assumption
    | with_reducible apply Ctx.fin_ok
    | with_reducible apply Ctx.uopLoad_ok
    | with_reducible apply Ctx.trap_ok
    | with_reducible apply State.drawn_ok
    | with_reducible apply Ctx.uopEnd_ok
    | with_reducible apply Keeps.ite
    | split

theorem State.freshTemps_ok {s₀ s : State} (hK : Keeps s₀ s) : Keeps s₀ s.freshTemps.2 :=
  iter_keeps (P := fun p : Tab Word × State => Keeps s₀ p.2) (fun _ _ h => h.free) hK

theorem State.freshTemps_eq {s₀ s s' : State} {v} (e : s.freshTemps = (v, s')) (hK : Keeps s₀ s) : Keeps s₀ s' := by
  have := State.freshTemps_ok (s₀ := s₀) hK
  rw [e] at this
  exact this

theorem xopBody_ok {s₀ s : State} (c : Ctx) (hK : Keeps s₀ s) : Keeps s₀ (xopBody c s) := by
  unfold xopBody
  dsimp only
  repeat' first
    | with_reducible assumption
    | with_reducible apply State.freshTemps_ok
    | with_reducible apply Ctx.xopBeat_ok

theorem Ctx.xopNext_ok {s₀ s : State} (c : Ctx) (b : Beats) (hK : Keeps s₀ s) : Keeps s₀ (Ctx.xopNext c b s) := by
  unfold Ctx.xopNext
  repeat' first
    | with_reducible assumption
    | with_reducible apply Ctx.xopBeat_ok
    | with_reducible apply Ctx.plainBeat_ok
    | split

theorem execXop_ok {s₀ s s' : State} (n : Fin 16) (t : Fin 16) (hK : Keeps s₀ s) (e : execXop n t s = .next s') : Keeps s₀ s' := by
  unfold execXop at e
  rw [← next_inj e]
  repeat' first
    | intro _
    | with_reducible assumption
    | with_reducible apply strandBy_ok
    | with_reducible apply xopBody_ok
    | with_reducible apply Ctx.xopNext_ok

end Sys2Proof.Machine
end

