-- ==== Sys2Proof/Laws/KeepGuardBase.lean ====
section
/-! SUPPORT. The operations of Machine/GuardBase.lean keep the queue and the invariant: one lemma each, for chains of `Keeps`. -/
namespace Sys2Proof.Machine

theorem State.readRegion_ok {s₀ s : State} (bank : Bool) (hK : Keeps s₀ s) : Keeps s₀ (State.readRegion s bank) := by
  unfold State.readRegion
  repeat' first
    | intro _
    | with_reducible assumption
    | with_reducible apply State.readGran_ok
    | with_reducible apply foldl_ok

theorem State.setMeas_ok {s₀ s : State} (m : Meas) (hK : Keeps s₀ s) : Keeps s₀ (State.setMeas s m) := by
  unfold State.setMeas
  all_goals try with_reducible apply Keeps.free
  repeat' first
    | with_reducible assumption

theorem State.dropBytes_ok {s₀ s : State} (x : Txn) (k : Nat) (hK : Keeps s₀ s) : Keeps s₀ (State.dropBytes s x k) := by
  unfold State.dropBytes
  dsimp only
  repeat' first
    | with_reducible assumption
    | with_reducible apply State.setMeas_ok
    | with_reducible apply State.offer_ok
    | with_reducible apply Keeps.ite

theorem State.hashBytes_ok {s₀ s : State} (n : Nat) (e : Nat) (c : Nat) (l : List Byte) (t : Nat) (hK : Keeps s₀ s) : Keeps s₀ (State.hashBytes s n e c l t) := by
  unfold State.hashBytes
  dsimp only
  repeat' first
    | with_reducible assumption
    | with_reducible apply State.setMeas_ok
    | with_reducible apply State.dropBytes_ok
    | with_reducible apply Keeps.ite
    | split

theorem State.endTxns_ok {s₀ s : State} (t : Nat) (p : Txn → Bool) (hK : Keeps s₀ s) : Keeps s₀ (State.endTxns s t p) := by
  unfold State.endTxns
  repeat' first
    | with_reducible assumption
    | with_reducible apply State.setMeas_ok

theorem State.endTxn_ok {s₀ s : State} (n : Nat) (e : Nat) (c : Nat) (t : Nat) (hK : Keeps s₀ s) : Keeps s₀ (State.endTxn s n e c t) := by
  unfold State.endTxn
  repeat' first
    | with_reducible assumption
    | with_reducible apply State.endTxns_ok

theorem State.openTxn_ok {s₀ s : State} (n : Nat) (q : Post) (hK : Keeps s₀ s) : Keeps s₀ (State.openTxn s n q) := by
  unfold State.openTxn
  dsimp only
  repeat' first
    | with_reducible assumption
    | with_reducible apply State.setMeas_ok
    | split

theorem State.setSlice_ok {s₀ s : State} (n : Nat) (x : Slice) (hK : Keeps s₀ s) : Keeps s₀ (State.setSlice s n x) := by
  unfold State.setSlice
  dsimp only
  all_goals try with_reducible apply Keeps.free
  repeat' first
    | with_reducible assumption

theorem State.guardPost_ok {s₀ s s' : State} {n e c op p8 : Nat} (he : s.guardPost n e c op p8 = some s') (h : Keeps s₀ s) :
    Keeps s₀ s' := by
  unfold State.guardPost at he
  dsimp only at he
  repeat' first
    | (cases he; done)
    | split at he
  all_goals (cases he; repeat' first
    | with_reducible assumption
    | with_reducible apply State.setChan_ok
    | with_reducible apply State.setSlice_ok
    | with_reducible apply State.endTxn_ok)

end Sys2Proof.Machine
end

