-- ==== Sys2Proof/Laws/KeepPinBase.lean ====
section
/-! SUPPORT. The operations of Machine/PinBase.lean keep the queue and the invariant: one lemma each, for chains of `Keeps`. -/
namespace Sys2Proof.Machine

theorem State.freezePaths_ok {s₀ s : State} (n : Nat) (off : BitVec 24) (hK : Keeps s₀ s) : Keeps s₀ (State.freezePaths s n off) := by
  unfold State.freezePaths
  dsimp only
  repeat' first
    | with_reducible assumption
    | with_reducible apply State.setBank_ok
    | with_reducible apply State.drawn_ok
    | with_reducible apply Keeps.ite

theorem keepPin_ok {s₀ s : State} (n : Nat) (t : Nat) (p : Nat) (before : State) (hK : Keeps s₀ s) : Keeps s₀ (keepPin before n t p s) := by
  unfold keepPin
  dsimp only
  repeat' first
    | with_reducible assumption
    | with_reducible apply State.setBank_ok
    | with_reducible apply Keeps.ite

theorem State.keepAfter_ok {s₀ s : State} (n : Nat) (t : Nat) (before : State) (hK : Keeps s₀ s) : Keeps s₀ (State.keepAfter s before n t) := by
  unfold State.keepAfter
  repeat' first
    | intro _
    | with_reducible assumption
    | with_reducible apply keepPin_ok
    | with_reducible apply iter_ok

theorem State.letGo_ok {s₀ s : State} (n : Nat) (hK : Keeps s₀ s) : Keeps s₀ (State.letGo s n) := by
  unfold State.letGo
  dsimp only
  repeat' first
    | intro _
    | with_reducible assumption
    | with_reducible apply State.setBank_ok
    | with_reducible apply iter_ok
    | with_reducible apply Keeps.ite

theorem State.writeClove_ok {s₀ s : State} (n : Nat) (e : Nat) (vm : BitVec 24) (v : BitVec 24) (em : BitVec 24) (en : BitVec 24) (hK : Keeps s₀ s) : Keeps s₀ (State.writeClove s n e vm v em en) := by
  unfold State.writeClove
  dsimp only
  repeat' first
    | with_reducible assumption
    | with_reducible apply State.setBank_ok
    | with_reducible apply State.letGo_ok

theorem State.writeGpio_ok {s₀ s : State} (n : Nat) (vm : BitVec 24) (v : BitVec 24) (em : BitVec 24) (en : BitVec 24) (hK : Keeps s₀ s) : Keeps s₀ (State.writeGpio s n vm v em en) := by
  unfold State.writeGpio
  dsimp only
  repeat' first
    | with_reducible assumption
    | with_reducible apply State.setBank_ok
    | with_reducible apply State.letGo_ok

end Sys2Proof.Machine
end

