-- ==== Sys2Proof/Laws/KeepClove.lean ====
section
/-! SUPPORT. The operations of Machine/Clove.lean keep the queue and the invariant: one lemma each, for chains of `Keeps`. -/
namespace Sys2Proof.Machine

theorem State.cloveEvent_ok {s₀ s : State} (n : Nat) (e : Nat) (c : Nat) (src : Nat) (hK : Keeps s₀ s) : Keeps s₀ (State.cloveEvent s n e c src) := by
  unfold State.cloveEvent
  dsimp only
  repeat' first
    | with_reducible assumption
    | with_reducible apply State.setChan_ok
    | with_reducible apply State.raiseEv_ok
    | with_reducible apply Keeps.ite

theorem State.flagEvents_ok {s₀ s : State} (n : Nat) (e : Nat) (c : Nat) (old : BitVec 16) (new : BitVec 16) (hK : Keeps s₀ s) : Keeps s₀ (State.flagEvents s n e c old new) := by
  unfold State.flagEvents
  dsimp only
  repeat' first
    | with_reducible assumption
    | with_reducible apply State.cloveEvent_ok
    | with_reducible apply Keeps.ite

theorem CCtx.put_ok {s₀ s : State} (x : CCtx) (ch : Chan) (hK : Keeps s₀ s) : Keeps s₀ (CCtx.put x s ch) := by
  unfold CCtx.put
  repeat' first
    | with_reducible assumption
    | with_reducible apply State.setChan_ok
    | with_reducible apply State.flagEvents_ok

theorem State.clRead_ok {s₀ s : State} (n e pc : Nat) (hK : Keeps s₀ s) : Keeps s₀ (s.clRead n e pc).2 := State.readGran_ok _ _ _ _ hK

theorem State.stepped_ok {s₀ s : State} (n : Nat) (e : Nat) (hK : Keeps s₀ s) : Keeps s₀ (State.stepped s n e) := by
  unfold State.stepped
  dsimp only
  repeat' first
    | with_reducible assumption
    | with_reducible apply State.setEngine_ok

theorem CCtx.stall_ok {s₀ s : State} (x : CCtx) (hK : Keeps s₀ s) : Keeps s₀ (CCtx.stall x s) := by
  unfold CCtx.stall
  dsimp only
  repeat' first
    | with_reducible assumption
    | with_reducible apply State.setChan_ok

theorem CCtx.unread_ok {s₀ s : State} (x : CCtx) (hK : Keeps s₀ s) : Keeps s₀ (CCtx.unread x s) := by
  unfold CCtx.unread
  dsimp only
  repeat' first
    | with_reducible assumption
    | with_reducible apply State.clRead_ok
    | with_reducible apply State.setChan_ok
    | with_reducible apply CCtx.put_ok
    | with_reducible apply State.dbgEnd_ok
    | with_reducible apply State.stepped_ok
    | with_reducible apply Keeps.ite

theorem clove_ok {s₀ start : State} (mn : ClMn) (stalls : CCtx → State → Bool) (body : CCtx → State → State × Option Nat) (n : Nat) (e : Nat) (pins : BitVec 24) (hbody : ∀ i0 x, Keeps s₀ x → Keeps s₀ (body i0 x).1) (hK : Keeps s₀ start) : Keeps s₀ (clove mn stalls body n e pins start) := by
  unfold clove
  dsimp only
  repeat' first
    | with_reducible assumption
    | with_reducible apply State.clRead_ok
    | with_reducible apply CCtx.unread_ok
    | with_reducible apply CCtx.stall_ok
    | with_reducible apply State.stepped_ok
    | with_reducible apply State.setChan_ok
    | with_reducible apply State.dbgEnd_ok
    | with_reducible apply hbody
    | with_reducible apply Keeps.ite

theorem onward_ok {s₀ s : State} (f : CCtx → State → State) (x : CCtx) (hf : ∀ i0 x, Keeps s₀ x → Keeps s₀ (f i0 x)) (hK : Keeps s₀ s) : Keeps s₀ (onward f x s).1 := by
  unfold onward
  dsimp only
  repeat' first
    | with_reducible assumption
    | with_reducible apply hf

theorem onward_eq {s₀ s s' : State} {f : CCtx → State → State} {x : CCtx} (hf : ∀ i0 x, Keeps s₀ x → Keeps s₀ (f i0 x)) {v} (e : onward f x s = (s', v)) (hK : Keeps s₀ s) : Keeps s₀ s' := by
  have := onward_ok (s₀ := s₀) f x hf hK
  rw [e] at this
  exact this

theorem CCtx.drive_ok {s₀ s : State} (x : CCtx) (m : Nat) (v : Nat) (hK : Keeps s₀ s) : Keeps s₀ (CCtx.drive x m v s) := by
  unfold CCtx.drive
  dsimp only
  repeat' first
    | with_reducible assumption
    | with_reducible apply State.writeClove_ok

theorem outBody_ok {s₀ s : State} (x : CCtx) (hK : Keeps s₀ s) : Keeps s₀ (outBody x s) := by
  unfold outBody
  dsimp only
  repeat' first
    | with_reducible assumption
    | with_reducible apply CCtx.drive_ok
    | with_reducible apply CCtx.put_ok

theorem execCloveOut_ok {s₀ s s' : State} (n : Fin 16) (e : Fin 12) (pins : BitVec 24) (hK : Keeps s₀ s) (e : execCloveOut n e pins s = .next s') : Keeps s₀ s' := by
  unfold execCloveOut at e
  rw [← next_inj e]
  repeat' first
    | intro _
    | with_reducible assumption
    | with_reducible apply clove_ok
    | with_reducible apply onward_ok
    | with_reducible apply outBody_ok

theorem inBody_ok {s₀ s : State} (x : CCtx) (hK : Keeps s₀ s) : Keeps s₀ (inBody x s) := by
  unfold inBody
  dsimp only
  repeat' first
    | with_reducible assumption
    | with_reducible apply CCtx.put_ok

theorem execCloveIn_ok {s₀ s s' : State} (n : Fin 16) (e : Fin 12) (pins : BitVec 24) (hK : Keeps s₀ s) (e : execCloveIn n e pins s = .next s') : Keeps s₀ s' := by
  unfold execCloveIn at e
  rw [← next_inj e]
  repeat' first
    | intro _
    | with_reducible assumption
    | with_reducible apply clove_ok
    | with_reducible apply onward_ok
    | with_reducible apply inBody_ok

theorem execCloveNop_ok {s₀ s s' : State} (n : Fin 16) (e : Fin 12) (pins : BitVec 24) (hK : Keeps s₀ s) (e : execCloveNop n e pins s = .next s') : Keeps s₀ s' := by
  unfold execCloveNop at e
  rw [← next_inj e]
  repeat' first
    | intro _
    | with_reducible assumption
    | with_reducible apply clove_ok
    | with_reducible apply onward_ok

theorem execCloveSet_ok {s₀ s s' : State} (n : Fin 16) (e : Fin 12) (pins : BitVec 24) (hK : Keeps s₀ s) (e : execCloveSet n e pins s = .next s') : Keeps s₀ s' := by
  unfold execCloveSet at e
  rw [← next_inj e]
  repeat' first
    | intro _
    | with_reducible assumption
    | with_reducible apply clove_ok
    | with_reducible apply onward_ok
    | with_reducible apply CCtx.drive_ok

theorem oeBody_ok {s₀ s : State} (x : CCtx) (hK : Keeps s₀ s) : Keeps s₀ (oeBody x s) := by
  unfold oeBody
  dsimp only
  repeat' first
    | with_reducible assumption
    | with_reducible apply State.writeClove_ok

theorem execCloveOe_ok {s₀ s s' : State} (n : Fin 16) (e : Fin 12) (pins : BitVec 24) (hK : Keeps s₀ s) (e : execCloveOe n e pins s = .next s') : Keeps s₀ s' := by
  unfold execCloveOe at e
  rw [← next_inj e]
  repeat' first
    | intro _
    | with_reducible assumption
    | with_reducible apply clove_ok
    | with_reducible apply onward_ok
    | with_reducible apply oeBody_ok

theorem takeIn_ok {s₀ s : State} (x : CCtx) (hK : Keeps s₀ s) : Keeps s₀ (takeIn x s) := by
  unfold takeIn
  dsimp only
  repeat' first
    | with_reducible assumption
    | with_reducible apply CCtx.put_ok
    | split

theorem staleIn_ok {s₀ s : State} (x : CCtx) (hK : Keeps s₀ s) : Keeps s₀ (staleIn x s) := by
  unfold staleIn
  dsimp only
  repeat' first
    | with_reducible assumption
    | with_reducible apply CCtx.put_ok

theorem execClovePull_ok {s₀ s s' : State} (n : Fin 16) (e : Fin 12) (pins : BitVec 24) (hK : Keeps s₀ s) (e : execClovePull n e pins s = .next s') : Keeps s₀ s' := by
  unfold execClovePull at e
  rw [← next_inj e]
  repeat' first
    | intro _
    | with_reducible assumption
    | with_reducible apply clove_ok
    | with_reducible apply onward_ok
    | with_reducible apply takeIn_ok

theorem execClovePulln_ok {s₀ s s' : State} (n : Fin 16) (e : Fin 12) (pins : BitVec 24) (hK : Keeps s₀ s) (e : execClovePulln n e pins s = .next s') : Keeps s₀ s' := by
  unfold execClovePulln at e
  rw [← next_inj e]
  repeat' first
    | intro _
    | with_reducible assumption
    | with_reducible apply clove_ok
    | with_reducible apply onward_ok
    | with_reducible apply staleIn_ok
    | with_reducible apply takeIn_ok
    | with_reducible apply Keeps.ite

theorem putOut_ok {s₀ s : State} (x : CCtx) (hK : Keeps s₀ s) : Keeps s₀ (putOut x s) := by
  unfold putOut
  dsimp only
  repeat' first
    | with_reducible assumption
    | with_reducible apply CCtx.put_ok

theorem staleOut_ok {s₀ s : State} (x : CCtx) (hK : Keeps s₀ s) : Keeps s₀ (staleOut x s) := by
  unfold staleOut
  dsimp only
  repeat' first
    | with_reducible assumption
    | with_reducible apply CCtx.put_ok

theorem execClovePush_ok {s₀ s s' : State} (n : Fin 16) (e : Fin 12) (pins : BitVec 24) (hK : Keeps s₀ s) (e : execClovePush n e pins s = .next s') : Keeps s₀ s' := by
  unfold execClovePush at e
  rw [← next_inj e]
  repeat' first
    | intro _
    | with_reducible assumption
    | with_reducible apply clove_ok
    | with_reducible apply onward_ok
    | with_reducible apply putOut_ok

theorem execClovePushn_ok {s₀ s s' : State} (n : Fin 16) (e : Fin 12) (pins : BitVec 24) (hK : Keeps s₀ s) (e : execClovePushn n e pins s = .next s') : Keeps s₀ s' := by
  unfold execClovePushn at e
  rw [← next_inj e]
  repeat' first
    | intro _
    | with_reducible assumption
    | with_reducible apply clove_ok
    | with_reducible apply onward_ok
    | with_reducible apply staleOut_ok
    | with_reducible apply putOut_ok
    | with_reducible apply Keeps.ite

theorem CCtx.setBit_ok {s₀ s : State} (x : CCtx) (a : Nat) (v : Bool) (hK : Keeps s₀ s) : Keeps s₀ (CCtx.setBit x s a v) := by
  unfold CCtx.setBit
  dsimp only
  repeat' first
    | with_reducible assumption
    | with_reducible apply State.writeClove_ok
    | with_reducible apply CCtx.put_ok
    | with_reducible apply Keeps.ite

theorem bitBody_ok {s₀ s : State} (f : Bool → Bool → Bool) (x : CCtx) (hK : Keeps s₀ s) : Keeps s₀ (bitBody f x s) := by
  unfold bitBody
  dsimp only
  repeat' first
    | with_reducible assumption
    | with_reducible apply CCtx.setBit_ok

theorem execCloveMov_ok {s₀ s s' : State} (n : Fin 16) (e : Fin 12) (pins : BitVec 24) (hK : Keeps s₀ s) (e : execCloveMov n e pins s = .next s') : Keeps s₀ s' := by
  unfold execCloveMov at e
  rw [← next_inj e]
  repeat' first
    | intro _
    | with_reducible assumption
    | with_reducible apply clove_ok
    | with_reducible apply onward_ok
    | with_reducible apply bitBody_ok

theorem execCloveAnd_ok {s₀ s s' : State} (n : Fin 16) (e : Fin 12) (pins : BitVec 24) (hK : Keeps s₀ s) (e : execCloveAnd n e pins s = .next s') : Keeps s₀ s' := by
  unfold execCloveAnd at e
  rw [← next_inj e]
  repeat' first
    | intro _
    | with_reducible assumption
    | with_reducible apply clove_ok
    | with_reducible apply onward_ok
    | with_reducible apply bitBody_ok

theorem execCloveOr_ok {s₀ s s' : State} (n : Fin 16) (e : Fin 12) (pins : BitVec 24) (hK : Keeps s₀ s) (e : execCloveOr n e pins s = .next s') : Keeps s₀ s' := by
  unfold execCloveOr at e
  rw [← next_inj e]
  repeat' first
    | intro _
    | with_reducible assumption
    | with_reducible apply clove_ok
    | with_reducible apply onward_ok
    | with_reducible apply bitBody_ok

theorem execCloveXor_ok {s₀ s s' : State} (n : Fin 16) (e : Fin 12) (pins : BitVec 24) (hK : Keeps s₀ s) (e : execCloveXor n e pins s = .next s') : Keeps s₀ s' := by
  unfold execCloveXor at e
  rw [← next_inj e]
  repeat' first
    | intro _
    | with_reducible assumption
    | with_reducible apply clove_ok
    | with_reducible apply onward_ok
    | with_reducible apply bitBody_ok

theorem jmpBody_ok {s₀ s : State} (x : CCtx) (hK : Keeps s₀ s) : Keeps s₀ (jmpBody x s).1 := by
  unfold jmpBody
  dsimp only
  repeat' first
    | with_reducible assumption
    | with_reducible apply State.setChan_ok
    | split

theorem jmpBody_eq {s₀ s s' : State} {x : CCtx} {v} (e : jmpBody x s = (s', v)) (hK : Keeps s₀ s) : Keeps s₀ s' := by
  have := jmpBody_ok (s₀ := s₀) x hK
  rw [e] at this
  exact this

theorem execCloveJmp_ok {s₀ s s' : State} (n : Fin 16) (e : Fin 12) (pins : BitVec 24) (hK : Keeps s₀ s) (e : execCloveJmp n e pins s = .next s') : Keeps s₀ s' := by
  unfold execCloveJmp at e
  rw [← next_inj e]
  repeat' first
    | intro _
    | with_reducible assumption
    | with_reducible apply clove_ok
    | with_reducible apply jmpBody_ok

theorem execCloveWait_ok {s₀ s s' : State} (n : Fin 16) (e : Fin 12) (pins : BitVec 24) (hK : Keeps s₀ s) (e : execCloveWait n e pins s = .next s') : Keeps s₀ s' := by
  unfold execCloveWait at e
  rw [← next_inj e]
  repeat' first
    | intro _
    | with_reducible assumption
    | with_reducible apply clove_ok
    | with_reducible apply onward_ok

theorem chanBody_ok {s₀ s : State} (f : Word → Chan → Chan) (x : CCtx) (hK : Keeps s₀ s) : Keeps s₀ (chanBody f x s) := by
  unfold chanBody
  repeat' first
    | with_reducible assumption
    | with_reducible apply CCtx.put_ok

theorem execCloveLdc_ok {s₀ s s' : State} (n : Fin 16) (e : Fin 12) (pins : BitVec 24) (hK : Keeps s₀ s) (e : execCloveLdc n e pins s = .next s') : Keeps s₀ s' := by
  unfold execCloveLdc at e
  rw [← next_inj e]
  repeat' first
    | intro _
    | with_reducible assumption
    | with_reducible apply clove_ok
    | with_reducible apply onward_ok
    | with_reducible apply chanBody_ok

theorem execCloveMvr_ok {s₀ s s' : State} (n : Fin 16) (e : Fin 12) (pins : BitVec 24) (hK : Keeps s₀ s) (e : execCloveMvr n e pins s = .next s') : Keeps s₀ s' := by
  unfold execCloveMvr at e
  rw [← next_inj e]
  repeat' first
    | intro _
    | with_reducible assumption
    | with_reducible apply clove_ok
    | with_reducible apply onward_ok
    | with_reducible apply chanBody_ok

theorem execCloveLdsh_ok {s₀ s s' : State} (n : Fin 16) (e : Fin 12) (pins : BitVec 24) (hK : Keeps s₀ s) (e : execCloveLdsh n e pins s = .next s') : Keeps s₀ s' := by
  unfold execCloveLdsh at e
  rw [← next_inj e]
  repeat' first
    | intro _
    | with_reducible assumption
    | with_reducible apply clove_ok
    | with_reducible apply onward_ok
    | with_reducible apply chanBody_ok

theorem execCloveDly_ok {s₀ s s' : State} (n : Fin 16) (e : Fin 12) (pins : BitVec 24) (hK : Keeps s₀ s) (e : execCloveDly n e pins s = .next s') : Keeps s₀ s' := by
  unfold execCloveDly at e
  rw [← next_inj e]
  repeat' first
    | intro _
    | with_reducible assumption
    | with_reducible apply clove_ok
    | with_reducible apply onward_ok
    | with_reducible apply chanBody_ok

theorem execCloveWrap_ok {s₀ s s' : State} (n : Fin 16) (e : Fin 12) (pins : BitVec 24) (hK : Keeps s₀ s) (e : execCloveWrap n e pins s = .next s') : Keeps s₀ s' := by
  unfold execCloveWrap at e
  rw [← next_inj e]
  repeat' first
    | intro _
    | with_reducible assumption
    | with_reducible apply clove_ok
    | with_reducible apply onward_ok
    | with_reducible apply chanBody_ok

theorem crcBody_ok {s₀ s : State} (x : CCtx) (hK : Keeps s₀ s) : Keeps s₀ (crcBody x s) := by
  unfold crcBody
  dsimp only
  repeat' first
    | with_reducible assumption
    | with_reducible apply CCtx.put_ok
    | with_reducible apply State.setChan_ok
    | with_reducible apply Keeps.ite

theorem execCloveCrc_ok {s₀ s s' : State} (n : Fin 16) (e : Fin 12) (pins : BitVec 24) (hK : Keeps s₀ s) (e : execCloveCrc n e pins s = .next s') : Keeps s₀ s' := by
  unfold execCloveCrc at e
  rw [← next_inj e]
  repeat' first
    | intro _
    | with_reducible assumption
    | with_reducible apply clove_ok
    | with_reducible apply onward_ok
    | with_reducible apply crcBody_ok

theorem gadrBody_ok {s₀ s : State} (x : CCtx) (hK : Keeps s₀ s) : Keeps s₀ (gadrBody x s) := by
  unfold gadrBody
  dsimp only
  repeat' first
    | with_reducible assumption
    | with_reducible apply State.setChan_ok

theorem execCloveGadr_ok {s₀ s s' : State} (n : Fin 16) (e : Fin 12) (pins : BitVec 24) (hK : Keeps s₀ s) (e : execCloveGadr n e pins s = .next s') : Keeps s₀ s' := by
  unfold execCloveGadr at e
  rw [← next_inj e]
  repeat' first
    | intro _
    | with_reducible assumption
    | with_reducible apply clove_ok
    | with_reducible apply onward_ok
    | with_reducible apply gadrBody_ok

theorem gpostBody_ok {s₀ s : State} (x : CCtx) (hK : Keeps s₀ s) : Keeps s₀ (gpostBody x s) := by
  unfold gpostBody
  dsimp only
  repeat' first
    | with_reducible assumption
    | with_reducible apply State.guardPost_ok (by with_reducible assumption)
    | with_reducible apply State.endTxn_ok
    | with_reducible apply CCtx.put_ok
    | split

theorem execCloveGpost_ok {s₀ s s' : State} (n : Fin 16) (e : Fin 12) (pins : BitVec 24) (hK : Keeps s₀ s) (e : execCloveGpost n e pins s = .next s') : Keeps s₀ s' := by
  unfold execCloveGpost at e
  rw [← next_inj e]
  repeat' first
    | intro _
    | with_reducible assumption
    | with_reducible apply clove_ok
    | with_reducible apply onward_ok
    | with_reducible apply gpostBody_ok

theorem hshBody_ok {s₀ s : State} (x : CCtx) (hK : Keeps s₀ s) : Keeps s₀ (hshBody x s) := by
  unfold hshBody
  dsimp only
  repeat' first
    | with_reducible assumption
    | with_reducible apply State.hashBytes_ok
    | with_reducible apply Keeps.ite

theorem execCloveHsh_ok {s₀ s s' : State} (n : Fin 16) (e : Fin 12) (pins : BitVec 24) (hK : Keeps s₀ s) (e : execCloveHsh n e pins s = .next s') : Keeps s₀ s' := by
  unfold execCloveHsh at e
  rw [← next_inj e]
  repeat' first
    | intro _
    | with_reducible assumption
    | with_reducible apply clove_ok
    | with_reducible apply onward_ok
    | with_reducible apply hshBody_ok

theorem execCloveIrq_ok {s₀ s s' : State} (n : Fin 16) (e : Fin 12) (pins : BitVec 24) (hK : Keeps s₀ s) (e : execCloveIrq n e pins s = .next s') : Keeps s₀ s' := by
  unfold execCloveIrq at e
  rw [← next_inj e]
  repeat' first
    | intro _
    | with_reducible assumption
    | with_reducible apply clove_ok
    | with_reducible apply onward_ok
    | with_reducible apply State.cloveEvent_ok

theorem execCloveHalt_ok {s₀ s s' : State} (n : Fin 16) (e : Fin 12) (pins : BitVec 24) (hK : Keeps s₀ s) (e : execCloveHalt n e pins s = .next s') : Keeps s₀ s' := by
  unfold execCloveHalt at e
  rw [← next_inj e]
  dsimp only
  repeat' first
    | intro _
    | with_reducible assumption
    | with_reducible apply clove_ok
    | with_reducible apply onward_ok
    | with_reducible apply State.setChan_ok
    | with_reducible apply State.cloveEvent_ok

theorem State.noteDrain_ok {s₀ s : State} (t : Nat) (hK : Keeps s₀ s) : Keeps s₀ (State.noteDrain s t) := by
  unfold State.noteDrain
  dsimp only
  repeat' first
    | with_reducible assumption
    | with_reducible apply Keeps.ite
  all_goals try with_reducible apply Keeps.free
  repeat' first
    | with_reducible assumption

theorem State.chanOff_ok {s₀ s : State} (n : Nat) (e : Nat) (c : Nat) (t : Nat) (hK : Keeps s₀ s) : Keeps s₀ (State.chanOff s n e c t) := by
  unfold State.chanOff
  dsimp only
  repeat' first
    | with_reducible assumption
    | with_reducible apply State.addDrops_ok
    | with_reducible apply State.setChan_ok
    | with_reducible apply State.endTxn_ok
    | with_reducible apply State.noteDrain_ok
    | split

theorem cloveIdle_ok {s₀ s : State} (n : Nat) (e : Nat) (pins : BitVec 24) (hK : Keeps s₀ s) : Keeps s₀ (cloveIdle n e pins s) := by
  unfold cloveIdle
  dsimp only
  repeat' first
    | with_reducible assumption
    | with_reducible apply State.setChan_ok
    | with_reducible apply State.dbgEnd_ok
    | with_reducible apply State.chanOff_ok
    | with_reducible apply State.stepped_ok
    | with_reducible apply Keeps.ite

theorem execCloveIdleStep_ok {s₀ s s' : State} (n : Fin 16) (e : Fin 12) (pins : BitVec 24) (hK : Keeps s₀ s) (e : execCloveIdleStep n e pins s = .next s') : Keeps s₀ s' := by
  unfold execCloveIdleStep at e
  rw [← next_inj e]
  repeat' first
    | with_reducible assumption
    | with_reducible apply cloveIdle_ok

theorem imdWrite_ok {s₀ s : State} (src : Src) (n : Nat) (e : Nat) (v : Word) (hK : Keeps s₀ s) : Keeps s₀ (imdWrite src n e v s) := by
  unfold imdWrite
  dsimp only
  repeat' first
    | with_reducible assumption
    | with_reducible apply State.setEngine_ok
    | with_reducible apply State.refuse_ok
    | with_reducible apply State.offer_ok
    | with_reducible apply State.clRead_ok
    | with_reducible apply State.setReg_ok
    | with_reducible apply Keeps.ite

theorem execCeImdData_ok {s₀ s s' : State} (src : Src) (n : Fin 16) (e : Fin 12) (v : Word) (hK : Keeps s₀ s) (e : execCeImdData src n e v s = .next s') : Keeps s₀ s' := by
  unfold execCeImdData at e
  rw [← next_inj e]
  repeat' first
    | intro _
    | with_reducible assumption
    | with_reducible apply State.via_ok
    | with_reducible apply State.gate_ok
    | with_reducible apply imdWrite_ok

end Sys2Proof.Machine
end

