-- ==== Sys2Proof/Laws/KeepThreads.lean ====
section
/-! SUPPORT. The operations of Machine/Threads.lean keep the queue and the invariant: one lemma each, for chains of `Keeps`. -/
namespace Sys2Proof.Machine

theorem latchTrap_ok {s₀ s : State} (n : Nat) (t : Nat) (hK : Keeps s₀ s) : Keeps s₀ (latchTrap n t s) := by
  unfold latchTrap
  dsimp only
  repeat' first
    | with_reducible assumption
    | with_reducible apply State.findIssue_ok (by with_reducible assumption)
    | with_reducible apply State.enterSlot_ok
    | with_reducible apply State.trapAt_ok
    | with_reducible apply State.stepDone_ok
    | with_reducible apply Keeps.ite
    | split

theorem eventLatchStep_ok {s₀ s0 : State} (n : Nat) (t : Nat) (hK : Keeps s₀ s0) : Keeps s₀ (eventLatchStep n t s0) := by
  unfold eventLatchStep
  dsimp only
  repeat' first
    | with_reducible assumption
    | with_reducible apply State.chanDue_ok
    | with_reducible apply State.latch_ok
    | with_reducible apply latchTrap_ok
    | with_reducible apply Keeps.ite
    | split

theorem execEventLatch_ok {s₀ s s' : State} (n : Fin 16) (t : Fin 16) (hK : Keeps s₀ s) (e : execEventLatch n t s = .next s') : Keeps s₀ s' := by
  unfold execEventLatch at e
  rw [← next_inj e]
  repeat' first
    | with_reducible assumption
    | with_reducible apply eventLatchStep_ok

theorem State.clearSource_ok {s₀ s : State} (n : Nat) (v : Nat) (d : Nat) (hK : Keeps s₀ s) : Keeps s₀ (State.clearSource s n v d) := by
  unfold State.clearSource
  dsimp only
  repeat' first
    | with_reducible assumption
    | with_reducible apply State.setChan_ok
    | with_reducible apply State.setTimer_ok
    | with_reducible apply Keeps.ite

theorem eventEntryStep_ok {s₀ s : State} (n : Nat) (t : Nat) (hK : Keeps s₀ s) : Keeps s₀ (eventEntryStep n t s) := by
  unfold eventEntryStep
  dsimp only
  repeat' first
    | with_reducible assumption
    | with_reducible apply State.seek_eq (by with_reducible assumption)
    | with_reducible apply State.setThr_ok
    | with_reducible apply State.setCore_ok
    | with_reducible apply State.clearSource_ok
    | split

theorem execEventEntry_ok {s₀ s s' : State} (n : Fin 16) (t : Fin 16) (hK : Keeps s₀ s) (e : execEventEntry n t s = .next s') : Keeps s₀ s' := by
  unfold execEventEntry at e
  rw [← next_inj e]
  repeat' first
    | with_reducible assumption
    | with_reducible apply eventEntryStep_ok

theorem waitWakeStep_ok {s₀ s : State} (n : Nat) (t : Nat) (hK : Keeps s₀ s) : Keeps s₀ (waitWakeStep n t s) := by
  unfold waitWakeStep
  dsimp only
  repeat' first
    | with_reducible assumption
    | with_reducible apply State.waitFill_ok
    | with_reducible apply State.chanDue_ok
    | with_reducible apply State.seeTb_ok
    | with_reducible apply State.setThr_ok
    | with_reducible apply Keeps.ite

theorem execWaitWake_ok {s₀ s s' : State} (n : Fin 16) (t : Fin 16) (hK : Keeps s₀ s) (e : execWaitWake n t s = .next s') : Keeps s₀ s' := by
  unfold execWaitWake at e
  rw [← next_inj e]
  repeat' first
    | with_reducible assumption
    | with_reducible apply waitWakeStep_ok

theorem State.stopThr_ok {s₀ s : State} (n : Nat) (t : Nat) (hK : Keeps s₀ s) : Keeps s₀ (State.stopThr s n t) := by
  unfold State.stopThr
  dsimp only
  repeat' first
    | with_reducible assumption
    | with_reducible apply State.setThr_ok
    | with_reducible apply State.endStep_ok
    | with_reducible apply Keeps.ite

theorem State.goThr_ok {s₀ s : State} (src : Src) (n : Nat) (t : Nat) (hK : Keeps s₀ s) : Keeps s₀ (State.goThr s src n t) := by
  unfold State.goThr
  dsimp only
  repeat' first
    | with_reducible assumption
    | with_reducible apply State.refuse_ok
    | with_reducible apply State.setThr_ok
    | split

theorem thrCtlWrite_ok {s₀ s : State} (src : Src) (n : Nat) (t : Nat) (v : Word) (hK : Keeps s₀ s) : Keeps s₀ (thrCtlWrite src n t v s) := by
  unfold thrCtlWrite
  dsimp only
  repeat' first
    | with_reducible assumption
    | with_reducible apply State.plainWrite_ok
    | with_reducible apply State.refuse_ok
    | with_reducible apply State.goThr_ok
    | with_reducible apply State.stopThr_ok
    | split

theorem execThrGo_ok {s₀ s s' : State} (src : Src) (n : Fin 16) (t : Fin 16) (v : Word) (hK : Keeps s₀ s) (e : execThrGo src n t v s = .next s') : Keeps s₀ s' := by
  unfold execThrGo at e
  rw [← next_inj e]
  repeat' first
    | intro _
    | with_reducible assumption
    | with_reducible apply State.via_ok
    | with_reducible apply State.gate_ok
    | with_reducible apply thrCtlWrite_ok

theorem execThrStop_ok {s₀ s s' : State} (src : Src) (n : Fin 16) (t : Fin 16) (v : Word) (hK : Keeps s₀ s) (e : execThrStop src n t v s = .next s') : Keeps s₀ s' := by
  unfold execThrStop at e
  rw [← next_inj e]
  repeat' first
    | intro _
    | with_reducible assumption
    | with_reducible apply State.via_ok
    | with_reducible apply State.gate_ok
    | with_reducible apply thrCtlWrite_ok

theorem idleRoundStep_ok {s₀ s : State} (n : Nat) (hK : Keeps s₀ s) : Keeps s₀ (idleRoundStep n s) := by
  unfold idleRoundStep
  dsimp only
  repeat' first
    | with_reducible assumption
    | with_reducible apply State.chanDue_ok
    | with_reducible apply State.servePorts_ok
    | with_reducible apply State.passRound_ok
    | with_reducible apply Keeps.ite

theorem execIdleRound_ok {s₀ s s' : State} (n : Fin 16) (hK : Keeps s₀ s) (e : execIdleRound n s = .next s') : Keeps s₀ s' := by
  unfold execIdleRound at e
  rw [← next_inj e]
  repeat' first
    | with_reducible assumption
    | with_reducible apply idleRoundStep_ok

theorem sbPutBytes_wf (e : SbEntry) (n : Nat) (m : List Host.Cell) (h : Memory.wf 0 m = true) : Memory.wf 0 (sbFlush n e m) = true := by
  unfold sbFlush
  refine iter_keeps (P := fun m => Memory.wf 0 m = true) (fun i t ht => ?_) h
  split
  · exact tabSet_wf _ _ _ _ ht
  · exact ht

theorem drainStep_ok {s₀ s : State} (n : Nat) (h : Keeps s₀ s) : Keeps s₀ (drainStep n s) := by
  unfold drainStep
  split
  · exact h
  · exact State.wroteGran_ok _ _ _ ((State.setCore_ok _ _ h).mem (sbPutBytes_wf _ _ _))

theorem execStoreBufferDrain_ok {s₀ s s' : State} (n : Fin 16) (hK : Keeps s₀ s) (e : execStoreBufferDrain n s = .next s') : Keeps s₀ s' := by
  unfold execStoreBufferDrain at e
  rw [← next_inj e]
  repeat' first
    | with_reducible assumption
    | with_reducible apply drainStep_ok
    | with_reducible apply Keeps.ite

theorem State.putLine_ok {s₀ s : State} (n : Nat) (l : Nat) (hK : Keeps s₀ s) : Keeps s₀ (State.putLine s n l) := by
  unfold State.putLine
  dsimp only
  repeat' first
    | with_reducible assumption
    | with_reducible apply State.setCore_ok

theorem State.dropReq_ok {s₀ s : State} (n : Nat) (l : Nat) (hK : Keeps s₀ s) : Keeps s₀ (State.dropReq s n l) := by
  unfold State.dropReq
  dsimp only
  repeat' first
    | with_reducible assumption
    | with_reducible apply State.setCore_ok

theorem askParked_ok {s₀ s : State} (n : Nat) (t : Nat) (hK : Keeps s₀ s) : Keeps s₀ (askParked n t s) := by
  unfold askParked
  repeat' first
    | with_reducible assumption
    | with_reducible apply State.setCore_ok
    | split

theorem unpark_ok {s₀ s : State} (n : Nat) (l : Nat) (t : Nat) (hK : Keeps s₀ s) : Keeps s₀ (unpark n l t s) := by
  unfold unpark
  dsimp only
  repeat' first
    | with_reducible assumption
    | with_reducible apply State.setThr_ok
    | with_reducible apply Ctx.operandDone_ok
    | with_reducible apply Ctx.onward_ok
    | with_reducible apply Keeps.ite
    | split

theorem unparkBad_ok {s₀ s : State} (n : Nat) (l : Nat) (t : Nat) (hK : Keeps s₀ s) : Keeps s₀ (unparkBad n l t s) := by
  unfold unparkBad
  dsimp only
  repeat' first
    | with_reducible assumption
    | with_reducible apply State.setThr_ok
    | with_reducible apply State.enterSlot_ok
    | with_reducible apply State.trapAt_ok
    | with_reducible apply Keeps.ite
    | split

theorem State.romEcc_ok {s₀ s : State} (ue : Bool) (l : Nat) (hK : Keeps s₀ s) : Keeps s₀ (State.romEcc s ue l) := by
  unfold State.romEcc
  repeat' first
    | with_reducible assumption
    | with_reducible apply State.eccNote_ok

theorem State.flashCe_ok {s₀ s : State} (l : Nat) (hK : Keeps s₀ s) : Keeps s₀ (State.flashCe s l) := by
  unfold State.flashCe
  dsimp only
  repeat' first
    | with_reducible assumption
    | with_reducible apply State.romEcc_ok
    | with_reducible apply Keeps.ite
  all_goals try with_reducible apply Keeps.free
  repeat' first
    | with_reducible assumption

theorem State.flashUe_ok {s₀ s : State} (n : Nat) (l : Nat) (hK : Keeps s₀ s) : Keeps s₀ (State.flashUe s n l) := by
  unfold State.flashUe
  dsimp only
  repeat' first
    | with_reducible assumption
    | with_reducible apply State.romEcc_ok
    | with_reducible apply State.offer_ok
    | with_reducible apply Keeps.ite
  all_goals try with_reducible apply Keeps.free
  repeat' first
    | with_reducible assumption

theorem lineFillStep_ok {s₀ s : State} (n : Nat) (l : Nat) (ecc : Ecc) (hK : Keeps s₀ s) : Keeps s₀ (lineFillStep n l ecc s) := by
  unfold lineFillStep
  dsimp only
  repeat' first
    | intro _
    | with_reducible assumption
    | with_reducible apply unparkBad_ok
    | with_reducible apply State.dropReq_ok
    | with_reducible apply unpark_ok
    | with_reducible apply State.putLine_ok
    | with_reducible apply State.flashCe_ok
    | with_reducible apply State.flashUe_ok
    | with_reducible apply askParked_ok
    | with_reducible apply iter_ok
    | with_reducible apply Keeps.ite
    | split

theorem execLineFill_ok {s₀ s s' : State} (n : Fin 16) (line : Nat) (ecc : Ecc) (hK : Keeps s₀ s) (e : execLineFill n line ecc s = .next s') : Keeps s₀ s' := by
  unfold execLineFill at e
  rw [← next_inj e]
  repeat' first
    | with_reducible assumption
    | with_reducible apply lineFillStep_ok

theorem parkLongStep_ok {s₀ s : State} (n : Nat) (t : Nat) (hK : Keeps s₀ s) : Keeps s₀ (parkLongStep n t s) := by
  unfold parkLongStep
  dsimp only
  repeat' first
    | with_reducible assumption
    | with_reducible apply State.setThr_ok
    | with_reducible apply State.offer_ok
    | with_reducible apply Keeps.ite
    | split

theorem execParkLong_ok {s₀ s s' : State} (n : Fin 16) (t : Fin 16) (hK : Keeps s₀ s) (e : execParkLong n t s = .next s') : Keeps s₀ s' := by
  unfold execParkLong at e
  rw [← next_inj e]
  repeat' first
    | with_reducible assumption
    | with_reducible apply parkLongStep_ok

theorem xipWaitStep_ok {s₀ s : State} (n : Nat) (t : Nat) (hK : Keeps s₀ s) : Keeps s₀ (xipWaitStep n t s) := by
  unfold xipWaitStep
  dsimp only
  repeat' first
    | with_reducible assumption
    | with_reducible apply State.setThr_ok
    | with_reducible apply State.offer_ok
    | with_reducible apply Keeps.ite
    | split

theorem execXipWait_ok {s₀ s s' : State} (n : Fin 16) (t : Fin 16) (hK : Keeps s₀ s) (e : execXipWait n t s = .next s') : Keeps s₀ s' := by
  unfold execXipWait at e
  rw [← next_inj e]
  repeat' first
    | with_reducible assumption
    | with_reducible apply xipWaitStep_ok

theorem btbFlush_ok {s₀ s : State} (n : Nat) (hK : Keeps s₀ s) : Keeps s₀ (btbFlush n s) := by
  unfold btbFlush
  dsimp only
  repeat' first
    | with_reducible assumption
    | with_reducible apply State.setCore_ok

theorem execBtbFlush_ok {s₀ s s' : State} (n : Fin 16) (hK : Keeps s₀ s) (e : execBtbFlush n s = .next s') : Keeps s₀ s' := by
  unfold execBtbFlush at e
  rw [← next_inj e]
  repeat' first
    | intro _
    | with_reducible assumption
    | with_reducible apply State.gate_ok
    | with_reducible apply btbFlush_ok

theorem lbufFlush_ok {s₀ s : State} (n : Nat) (hK : Keeps s₀ s) : Keeps s₀ (lbufFlush n s) := by
  unfold lbufFlush
  dsimp only
  repeat' first
    | with_reducible assumption
    | with_reducible apply State.setCore_ok

theorem execLbufFlush_ok {s₀ s s' : State} (n : Fin 16) (hK : Keeps s₀ s) (e : execLbufFlush n s = .next s') : Keeps s₀ s' := by
  unfold execLbufFlush at e
  rw [← next_inj e]
  repeat' first
    | intro _
    | with_reducible assumption
    | with_reducible apply State.gate_ok
    | with_reducible apply lbufFlush_ok

theorem arbCntClear_ok {s₀ s : State} (n : Nat) (hK : Keeps s₀ s) : Keeps s₀ (arbCntClear n s) := by
  unfold arbCntClear
  dsimp only
  repeat' first
    | with_reducible assumption
    | with_reducible apply State.setCore_ok

theorem execArbCntClear_ok {s₀ s s' : State} (n : Fin 16) (hK : Keeps s₀ s) (e : execArbCntClear n s = .next s') : Keeps s₀ s' := by
  unfold execArbCntClear at e
  rw [← next_inj e]
  repeat' first
    | intro _
    | with_reducible assumption
    | with_reducible apply State.gate_ok
    | with_reducible apply arbCntClear_ok

end Sys2Proof.Machine
end

