-- ==== Sys2Proof/Laws/KeepTimed.lean ====
section
/-! SUPPORT. The operations of Machine/Timed.lean keep the queue and the invariant: one lemma each, for chains of `Keeps`. -/
namespace Sys2Proof.Machine

theorem tqExe_ok {s₀ s : State} (c : Ctx) (v : Nat) (hK : Keeps s₀ s) : Keeps s₀ (tqExe c v s) := by
  unfold tqExe
  dsimp only
  repeat' first
    | with_reducible assumption
    | with_reducible apply Ctx.trap_ok
    | with_reducible apply Ctx.fin_ok
    | with_reducible apply State.seeTb_ok
    | with_reducible apply Ctx.hold_ok
    | with_reducible apply State.setPort_ok
    | with_reducible apply State.setThr_ok
    | with_reducible apply Keeps.ite
    | split

theorem Ctx.readDesc_ok {s₀ s : State} (c : Ctx) (a : Nat) (done : Ctx → Nat → State → State) (hdone : ∀ i0 i1 x, Keeps s₀ x → Keeps s₀ (done i0 i1 x)) (hK : Keeps s₀ s) : Keeps s₀ (Ctx.readDesc c a done s) := by
  unfold Ctx.readDesc
  dsimp only
  repeat' first
    | with_reducible assumption
    | with_reducible apply Ctx.badLoad_ok
    | with_reducible apply Ctx.toRetry_ok
    | with_reducible apply State.setCore_ok
    | with_reducible apply hdone
    | with_reducible apply Keeps.ite

theorem tqBody_ok {s₀ s : State} (c : Ctx) (hK : Keeps s₀ s) : Keeps s₀ (tqBody c s) := by
  unfold tqBody
  repeat' first
    | intro _
    | with_reducible assumption
    | with_reducible apply Ctx.noWindow_ok
    | with_reducible apply Ctx.trap_ok
    | with_reducible apply Ctx.readDesc_ok
    | with_reducible apply tqExe_ok
    | split

theorem execTq_ok {s₀ s s' : State} (n : Fin 16) (t : Fin 16) (hK : Keeps s₀ s) (e : execTq n t s = .next s') : Keeps s₀ s' := by
  unfold execTq at e
  rw [← next_inj e]
  repeat' first
    | intro _
    | with_reducible assumption
    | with_reducible apply strand_ok
    | with_reducible apply tqBody_ok

theorem tqsrBody_ok {s₀ s : State} (c : Ctx) (hK : Keeps s₀ s) : Keeps s₀ (tqsrBody c s) := by
  unfold tqsrBody
  dsimp only
  repeat' first
    | with_reducible assumption
    | with_reducible apply Ctx.finLoad_ok
    | with_reducible apply Ctx.fin_ok
    | with_reducible apply State.setPort_ok
    | with_reducible apply Ctx.wait_ok
    | with_reducible apply Keeps.ite
    | split

theorem execTqsr_ok {s₀ s s' : State} (n : Fin 16) (t : Fin 16) (hK : Keeps s₀ s) (e : execTqsr n t s = .next s') : Keeps s₀ s' := by
  unfold execTqsr at e
  rw [← next_inj e]
  repeat' first
    | intro _
    | with_reducible assumption
    | with_reducible apply strand_ok
    | with_reducible apply tqsrBody_ok

theorem tqgcBody_ok {s₀ s : State} (c : Ctx) (hK : Keeps s₀ s) : Keeps s₀ (tqgcBody c s) := by
  unfold tqgcBody
  dsimp only
  repeat' first
    | with_reducible assumption
    | with_reducible apply Ctx.fin_ok
    | with_reducible apply State.setThr_ok

theorem execTqgc_ok {s₀ s s' : State} (n : Fin 16) (t : Fin 16) (hK : Keeps s₀ s) (e : execTqgc n t s = .next s') : Keeps s₀ s' := by
  unfold execTqgc at e
  rw [← next_inj e]
  repeat' first
    | intro _
    | with_reducible assumption
    | with_reducible apply strand_ok
    | with_reducible apply tqgcBody_ok

theorem tqevBody_ok {s₀ s : State} (c : Ctx) (hK : Keeps s₀ s) : Keeps s₀ (tqevBody c s) := by
  unfold tqevBody
  dsimp only
  repeat' first
    | with_reducible assumption
    | with_reducible apply Ctx.finLoad_ok
    | with_reducible apply Ctx.fin_ok
    | with_reducible apply State.setThr_ok

theorem execTqev_ok {s₀ s s' : State} (n : Fin 16) (t : Fin 16) (hK : Keeps s₀ s) (e : execTqev n t s = .next s') : Keeps s₀ s' := by
  unfold execTqev at e
  rw [← next_inj e]
  repeat' first
    | intro _
    | with_reducible assumption
    | with_reducible apply strand_ok
    | with_reducible apply tqevBody_ok

theorem tqEntryStep_ok {s₀ s : State} (n : Nat) (t : Nat) (hK : Keeps s₀ s) : Keeps s₀ (tqEntryStep n t s) := by
  unfold tqEntryStep
  dsimp only
  repeat' first
    | with_reducible assumption
    | with_reducible apply State.setThr_ok
    | with_reducible apply State.setPort_ok
    | with_reducible apply Keeps.ite
    | split

theorem execTqEntry_ok {s₀ s s' : State} (n : Fin 16) (t : Fin 16) (hK : Keeps s₀ s) (e : execTqEntry n t s = .next s') : Keeps s₀ s' := by
  unfold execTqEntry at e
  rw [← next_inj e]
  repeat' first
    | with_reducible assumption
    | with_reducible apply tqEntryStep_ok

theorem State.tqEvent_ok {s₀ s : State} (n : Nat) (t : Nat) (p : Nat) (e : TqEnt) (late : Bool) (hK : Keeps s₀ s) : Keeps s₀ (State.tqEvent s n t p e late) := by
  unfold State.tqEvent
  dsimp only
  repeat' first
    | with_reducible assumption
    | with_reducible apply State.setThr_ok
    | with_reducible apply State.raiseEv_ok

theorem State.tqLate_ok {s₀ s : State} (n : Nat) (t : Nat) (p : Nat) (e : TqEnt) (hK : Keeps s₀ s) : Keeps s₀ (State.tqLate s n t p e) := by
  unfold State.tqLate
  dsimp only
  repeat' first
    | with_reducible assumption
    | with_reducible apply State.setPort_ok
    | with_reducible apply State.tqEvent_ok
    | with_reducible apply State.offer_ok
    | with_reducible apply Keeps.ite

theorem State.squashGroup_ok {s₀ s : State} (n : Nat) (t : Nat) (grp : Nat) (hK : Keeps s₀ s) : Keeps s₀ (State.squashGroup s n t grp) := by
  unfold State.squashGroup
  dsimp only
  repeat' first
    | intro _
    | with_reducible assumption
    | with_reducible apply State.setPort_ok
    | with_reducible apply State.setThr_ok
    | with_reducible apply iter_ok
    | with_reducible apply Keeps.ite

theorem State.tqPerform_ok {s₀ s : State} (n : Nat) (p : Nat) (e : TqEnt) (pads : BitVec 192) (hK : Keeps s₀ s) : Keeps s₀ (State.tqPerform s n p e pads) := by
  unfold State.tqPerform
  dsimp only
  repeat' first
    | with_reducible assumption
    | with_reducible apply State.writeGpio_ok
    | with_reducible apply State.setPort_ok
    | split

theorem State.tqTake_ok {s₀ s : State} (n : Nat) (t : Nat) (p : Nat) (e : TqEnt) (guardPads : BitVec 24) (pads : BitVec 192) (hK : Keeps s₀ s) : Keeps s₀ (State.tqTake s n t p e guardPads pads) := by
  unfold State.tqTake
  dsimp only
  repeat' first
    | with_reducible assumption
    | with_reducible apply State.setPort_ok
    | with_reducible apply State.tqLate_ok
    | with_reducible apply State.tqEvent_ok
    | with_reducible apply State.squashGroup_ok
    | with_reducible apply State.tqPerform_ok
    | with_reducible apply Keeps.ite

theorem takeDue_ok {s₀ : State} (n : Nat) (t : Nat) (tick : Nat) (guardPads : BitVec 24) (pads : BitVec 192) : ∀ (z0 : Nat)  {s : State}, Keeps s₀ s → Keeps s₀ (takeDue n t tick guardPads pads z0 s)
  | 0, s, hK => by
    unfold takeDue
    repeat' first
      | with_reducible assumption
  | z0 + 1, s, hK => by
    unfold takeDue
    repeat' first
      | with_reducible apply takeDue_ok
      | with_reducible assumption
      | with_reducible apply State.tqTake_ok
      | with_reducible apply Keeps.ite
      | split

theorem timedDueStep_ok {s₀ s : State} (n : Nat) (t : Nat) (guardPads : BitVec 24) (pads : BitVec 192) (hK : Keeps s₀ s) : Keeps s₀ (timedDueStep n t guardPads pads s) := by
  unfold timedDueStep
  repeat' first
    | with_reducible assumption
    | with_reducible apply takeDue_ok
    | with_reducible apply Keeps.ite
    | split

theorem execTimedEntryDue_ok {s₀ s s' : State} (n : Fin 16) (t : Fin 16) (guardPins : BitVec 24) (pins : BitVec 192) (hK : Keeps s₀ s) (e : execTimedEntryDue n t guardPins pins s = .next s') : Keeps s₀ s' := by
  unfold execTimedEntryDue at e
  rw [← next_inj e]
  repeat' first
    | with_reducible assumption
    | with_reducible apply timedDueStep_ok

theorem reopenGroups_ok {s₀ s : State} (n : Nat) (t : Nat) (groups : BitVec 8) (hK : Keeps s₀ s) : Keeps s₀ (reopenGroups n t groups s) := by
  unfold reopenGroups
  dsimp only
  repeat' first
    | with_reducible assumption
    | with_reducible apply State.setThr_ok

theorem execTwGrpReopen_ok {s₀ s s' : State} (n : Fin 16) (t : Fin 16) (groups : BitVec 8) (hK : Keeps s₀ s) (e : execTwGrpReopen n t groups s = .next s') : Keeps s₀ s' := by
  unfold execTwGrpReopen at e
  rw [← next_inj e]
  repeat' first
    | intro _
    | with_reducible assumption
    | with_reducible apply State.gate_ok
    | with_reducible apply reopenGroups_ok

theorem State.clearPort_ok {s₀ s : State} (n : Nat) (p : Nat) (hK : Keeps s₀ s) : Keeps s₀ (State.clearPort s n p) := by
  unfold State.clearPort
  dsimp only
  repeat' first
    | with_reducible assumption
    | with_reducible apply State.setPort_ok
    | with_reducible apply State.setThr_ok

theorem tpCfgWrite_ok {s₀ s : State} (src : Src) (n : Nat) (p : Nat) (v : Word) (hK : Keeps s₀ s) : Keeps s₀ (tpCfgWrite src n p v s) := by
  unfold tpCfgWrite
  dsimp only
  repeat' first
    | with_reducible assumption
    | with_reducible apply State.refuse_ok
    | with_reducible apply State.clearPort_ok
    | with_reducible apply State.setReg_ok
    | with_reducible apply State.setPort_ok
    | with_reducible apply Keeps.ite
    | split

theorem execTpEnable_ok {s₀ s s' : State} (n : Fin 16) (p : Fin 32) (v : Word) (hK : Keeps s₀ s) (e : execTpEnable n p v s = .next s') : Keeps s₀ s' := by
  unfold execTpEnable at e
  rw [← next_inj e]
  repeat' first
    | intro _
    | with_reducible assumption
    | with_reducible apply State.gate_ok
    | with_reducible apply tpCfgWrite_ok

theorem execTpDisable_ok {s₀ s s' : State} (n : Fin 16) (p : Fin 32) (v : Word) (hK : Keeps s₀ s) (e : execTpDisable n p v s = .next s') : Keeps s₀ s' := by
  unfold execTpDisable at e
  rw [← next_inj e]
  repeat' first
    | intro _
    | with_reducible assumption
    | with_reducible apply State.gate_ok
    | with_reducible apply tpCfgWrite_ok

end Sys2Proof.Machine
end

