-- ==== Sys2Proof/Laws/KeepFlash.lean ====
section
/-! SUPPORT. The operations of Machine/Flash.lean keep the queue and the invariant: one lemma each, for chains of `Keeps`. -/
namespace Sys2Proof.Machine

theorem State.flashDone_ok {s₀ s : State} (o : FlashOp) (cnt : Nat) (code : Nat) (refusedNotify : Bool) (hK : Keeps s₀ s) : Keeps s₀ (State.flashDone s o cnt code refusedNotify) := by
  unfold State.flashDone
  dsimp only
  repeat' first
    | with_reducible assumption
    | with_reducible apply State.fabricWrite_ok
    | with_reducible apply State.postCompl_ok
    | with_reducible apply State.addDrops_ok
    | with_reducible apply Keeps.ite

theorem flashExe_ok {s₀ s : State} (c : Ctx) (v : Nat) (hK : Keeps s₀ s) : Keeps s₀ (flashExe c v s) := by
  unfold flashExe
  dsimp only
  repeat' first
    | with_reducible assumption
    | with_reducible apply Ctx.hold_ok
    | with_reducible apply Ctx.fin_ok
    | with_reducible apply State.flashDone_ok
    | with_reducible apply Keeps.ite
    | split
  all_goals try with_reducible apply Keeps.free
  repeat' first
    | with_reducible assumption
    | with_reducible apply Ctx.fin_ok

theorem flashBody_ok {s₀ s : State} (c : Ctx) (hK : Keeps s₀ s) : Keeps s₀ (flashBody c s) := by
  unfold flashBody
  dsimp only
  repeat' first
    | intro _
    | with_reducible assumption
    | with_reducible apply Ctx.trap_ok
    | with_reducible apply Ctx.readDesc_ok
    | with_reducible apply flashExe_ok
    | with_reducible apply Keeps.ite
    | split

theorem execFlashopProgram_ok {s₀ s s' : State} (n : Fin 16) (t : Fin 16) (hK : Keeps s₀ s) (e : execFlashopProgram n t s = .next s') : Keeps s₀ s' := by
  unfold execFlashopProgram at e
  rw [← next_inj e]
  repeat' first
    | intro _
    | with_reducible assumption
    | with_reducible apply strand_ok
    | with_reducible apply flashBody_ok

theorem execFlashopEraseSector_ok {s₀ s s' : State} (n : Fin 16) (t : Fin 16) (hK : Keeps s₀ s) (e : execFlashopEraseSector n t s = .next s') : Keeps s₀ s' := by
  unfold execFlashopEraseSector at e
  rw [← next_inj e]
  repeat' first
    | intro _
    | with_reducible assumption
    | with_reducible apply strand_ok
    | with_reducible apply flashBody_ok

theorem execFlashopBlankCheck_ok {s₀ s s' : State} (n : Fin 16) (t : Fin 16) (hK : Keeps s₀ s) (e : execFlashopBlankCheck n t s = .next s') : Keeps s₀ s' := by
  unfold execFlashopBlankCheck at e
  rw [← next_inj e]
  repeat' first
    | intro _
    | with_reducible assumption
    | with_reducible apply strand_ok
    | with_reducible apply flashBody_ok

theorem execFlashopMarginReadM0_ok {s₀ s s' : State} (n : Fin 16) (t : Fin 16) (hK : Keeps s₀ s) (e : execFlashopMarginReadM0 n t s = .next s') : Keeps s₀ s' := by
  unfold execFlashopMarginReadM0 at e
  rw [← next_inj e]
  repeat' first
    | intro _
    | with_reducible assumption
    | with_reducible apply strand_ok
    | with_reducible apply flashBody_ok

theorem execFlashopMarginReadM1_ok {s₀ s s' : State} (n : Fin 16) (t : Fin 16) (hK : Keeps s₀ s) (e : execFlashopMarginReadM1 n t s = .next s') : Keeps s₀ s' := by
  unfold execFlashopMarginReadM1 at e
  rw [← next_inj e]
  repeat' first
    | intro _
    | with_reducible assumption
    | with_reducible apply strand_ok
    | with_reducible apply flashBody_ok

theorem State.flashPut_ok {s₀ s : State} (a k v : Nat) (h : Keeps s₀ s) : Keeps s₀ (s.flashPut a k v) := h.flash (writeNat_wf _ _ _ _ _)

theorem State.flashErase_ok {s₀ s : State} (a k : Nat) (h : Keeps s₀ s) : Keeps s₀ (s.flashErase a k) := h.flash (tabDrop_wf _ _ _)

theorem State.freeDw_ok {s₀ s : State} (hK : Keeps s₀ s) : Keeps s₀ (State.freeDw s).2 := by
  unfold State.freeDw
  dsimp only
  repeat' first
    | with_reducible assumption
    | with_reducible apply State.drawn_ok

theorem State.freeDw_eq {s₀ s s' : State}  {v} (e : State.freeDw s = (v, s')) (hK : Keeps s₀ s) : Keeps s₀ s' := by
  have := State.freeDw_ok (s₀ := s₀) hK
  rw [e] at this
  exact this

theorem State.flashWeak_ok {s₀ s : State} (a : Nat) (hK : Keeps s₀ s) : Keeps s₀ (State.flashWeak s a) := by
  unfold State.flashWeak
  dsimp only
  repeat' first
    | with_reducible assumption
    | with_reducible apply Keeps.ite
  all_goals try with_reducible apply Keeps.free
  repeat' first
    | with_reducible assumption

theorem State.flashFree_ok {s₀ s : State} (a : Nat) (hK : Keeps s₀ s) : Keeps s₀ (State.flashFree s a) := by
  unfold State.flashFree
  dsimp only
  repeat' first
    | with_reducible assumption
    | with_reducible apply State.freeDw_ok
    | with_reducible apply State.flashPut_ok
    | with_reducible apply State.flashWeak_ok

theorem State.marginDw_ok {s₀ s : State} (m1 : Bool) (a : Nat) (hK : Keeps s₀ s) : Keeps s₀ (State.marginDw s m1 a).2 := by
  unfold State.marginDw
  dsimp only
  repeat' first
    | with_reducible assumption
    | with_reducible apply State.freeDw_ok
    | split

theorem State.marginDw_eq {s₀ s s' : State} {m1 : Bool} {a : Nat} {v} (e : State.marginDw s m1 a = (v, s')) (hK : Keeps s₀ s) : Keeps s₀ s' := by
  have := State.marginDw_ok (s₀ := s₀) m1 a hK
  rw [e] at this
  exact this

theorem State.bufDw_ok {s₀ s : State} (o : FlashOp) (i : Nat) (hK : Keeps s₀ s) : Keeps s₀ (State.bufDw s o i).2 := by
  unfold State.bufDw
  dsimp only
  repeat' first
    | with_reducible assumption
    | with_reducible apply State.fabricTurn_ok
    | with_reducible apply State.readGrans_ok
    | with_reducible apply State.freeDw_ok
    | split

theorem State.bufDw_eq {s₀ s s' : State} {o : FlashOp} {i : Nat} {v} (e : State.bufDw s o i = (v, s')) (hK : Keeps s₀ s) : Keeps s₀ s' := by
  have := State.bufDw_ok (s₀ := s₀) o i hK
  rw [e] at this
  exact this

theorem State.programDws_ok {s₀ s : State} (o : FlashOp) (k : Nat) (hK : Keeps s₀ s) : Keeps s₀ (State.programDws s o k) := by
  unfold State.programDws
  dsimp only
  repeat' first
    | intro _
    | with_reducible assumption
    | with_reducible apply State.bufDw_ok
    | with_reducible apply State.flashPut_ok
    | with_reducible apply iter_ok

theorem State.partialCode_ok {s₀ s : State} (o : FlashOp) (k : Nat) (code : Nat) (hK : Keeps s₀ s) : Keeps s₀ (State.partialCode s o k code).2 := by
  unfold State.partialCode
  repeat' first
    | with_reducible assumption
    | with_reducible apply State.offer_ok
    | split

theorem State.partialCode_eq {s₀ s s' : State} {o : FlashOp} {k : Nat} {code : Nat} {v} (e : State.partialCode s o k code = (v, s')) (hK : Keeps s₀ s) : Keeps s₀ s' := by
  have := State.partialCode_ok (s₀ := s₀) o k code hK
  rw [e] at this
  exact this

theorem State.flashRun_ok {s₀ s : State} (o : FlashOp) (res : FlashResult) (h : Keeps s₀ s) : Keeps s₀ (s.flashRun o res).2.2 := by
  unfold State.flashRun
  repeat' first
    | with_reducible assumption
    | intro _
    | with_reducible apply State.flashFree_ok
    | with_reducible apply State.flashErase_ok
    | with_reducible apply State.programDws_ok
    | with_reducible apply State.partialCode_ok
    | with_reducible apply State.fabricWrite_ok
    | with_reducible apply State.marginDw_ok
    | with_reducible apply iter_ok
    | dsimp only
    | split

theorem State.dropLines_ok {s₀ s : State} (a : Nat) (b : Nat) (hK : Keeps s₀ s) : Keeps s₀ (State.dropLines s a b) := by
  unfold State.dropLines
  dsimp only
  repeat' first
    | intro _
    | with_reducible assumption
    | with_reducible apply State.setCore_ok
    | with_reducible apply iter_ok

theorem State.flashNext_ok {s₀ s : State} (o : FlashOp) (hK : Keeps s₀ s) : Keeps s₀ (State.flashNext s o) := by
  unfold State.flashNext
  dsimp only
  repeat' first
    | with_reducible apply State.dropLines_ok
    | with_reducible apply Keeps.ite
  all_goals try with_reducible apply Keeps.free
  repeat' first
    | with_reducible assumption

theorem flashCompleteStep_ok {s₀ s : State} (res : FlashResult) (hK : Keeps s₀ s) : Keeps s₀ (flashCompleteStep res s) := by
  unfold flashCompleteStep
  dsimp only
  repeat' first
    | with_reducible assumption
    | with_reducible apply State.flashRun_ok
    | with_reducible apply State.flashNext_ok
    | with_reducible apply State.flashDone_ok
    | split

theorem execFlashopComplete_ok {s₀ s s' : State} (res : FlashResult) (hK : Keeps s₀ s) (e : execFlashopComplete res s = .next s') : Keeps s₀ s' := by
  unfold execFlashopComplete at e
  rw [← next_inj e]
  repeat' first
    | with_reducible assumption
    | with_reducible apply flashCompleteStep_ok
    | with_reducible apply Keeps.ite

theorem failParked_ok {s₀ s : State} (b : Nat) (g : Nat) (hK : Keeps s₀ s) : Keeps s₀ (failParked b g s) := by
  unfold failParked
  repeat' first
    | with_reducible assumption
    | with_reducible apply unparkBad_ok
    | with_reducible apply State.dropReq_ok
    | with_reducible apply Keeps.ite
    | split

theorem State.flashLost_ok {s₀ s : State} (o : FlashOp) (hK : Keeps s₀ s) : Keeps s₀ (State.flashLost s o) := by
  unfold State.flashLost
  dsimp only
  repeat' first
    | intro _
    | with_reducible assumption
    | with_reducible apply State.flashFree_ok
    | with_reducible apply State.drawn_ok
    | with_reducible apply State.partialCode_ok
    | with_reducible apply State.flashNext_ok
    | with_reducible apply State.flashDone_ok
    | with_reducible apply iter_ok
    | split

theorem State.refuseWaiting_ok {s₀ s : State} (b : Nat) (hK : Keeps s₀ s) : Keeps s₀ (State.refuseWaiting s b) := by
  unfold State.refuseWaiting
  dsimp only
  repeat' first
    | intro _
    | with_reducible assumption
    | with_reducible apply State.flashDone_ok
    | with_reducible apply foldl_ok
  all_goals try with_reducible apply Keeps.free
  repeat' first
    | with_reducible assumption

theorem flashTimeoutStep_ok {s₀ s : State} (b : Nat) (kind : Nat) (hK : Keeps s₀ s) : Keeps s₀ (flashTimeoutStep b kind s) := by
  unfold flashTimeoutStep
  dsimp only
  repeat' first
    | intro _
    | with_reducible assumption
    | with_reducible apply State.offer_ok
    | with_reducible apply State.refuseWaiting_ok
    | with_reducible apply State.flashLost_ok
    | with_reducible apply failParked_ok
    | with_reducible apply iter_ok
    | with_reducible apply Keeps.ite
    | split
  all_goals try with_reducible apply Keeps.free
  repeat' first
    | with_reducible assumption

theorem execFlashTimeout_ok {s₀ s s' : State} (bank : Fin 4) (kind : Nat) (hK : Keeps s₀ s) (e : execFlashTimeout bank kind s = .next s') : Keeps s₀ s' := by
  unfold execFlashTimeout at e
  rw [← next_inj e]
  repeat' first
    | with_reducible assumption
    | with_reducible apply flashTimeoutStep_ok
    | with_reducible apply Keeps.ite

theorem uldDone_ok {s₀ s : State} (c : Ctx) (q : Nat) (v : Nat) (hK : Keeps s₀ s) : Keeps s₀ (uldDone c q v s) := by
  unfold uldDone
  dsimp only
  repeat' first
    | with_reducible assumption
    | with_reducible apply Ctx.trap_ok
    | with_reducible apply State.drawn_ok
    | with_reducible apply Ctx.uopEnd_ok
    | split

theorem retryDone_ok {s₀ s : State} (n : Nat) (t : Nat) (p : Pend) (q : Nat) (v : Nat) (hK : Keeps s₀ s) : Keeps s₀ (retryDone n t p q v s) := by
  unfold retryDone
  dsimp only
  repeat' first
    | with_reducible assumption
    | with_reducible apply tqExe_ok
    | with_reducible apply flashExe_ok
    | with_reducible apply uldDone_ok
    | with_reducible apply State.readGrans_ok
    | with_reducible apply Ctx.operandDone_ok
    | with_reducible apply Keeps.ite

theorem retryStep_ok {s₀ s : State} (n : Nat) (t : Nat) (hK : Keeps s₀ s) : Keeps s₀ (retryStep n t s) := by
  unfold retryStep
  dsimp only
  repeat' first
    | with_reducible assumption
    | with_reducible apply State.seek_eq (by with_reducible assumption)
    | with_reducible apply State.setCore_ok
    | with_reducible apply State.setThr_ok
    | with_reducible apply State.storeBank_ok
    | with_reducible apply retryDone_ok
    | with_reducible apply State.stepDone_ok
    | with_reducible apply Keeps.ite
    | split

theorem execRetryService_ok {s₀ s s' : State} (n : Fin 16) (t : Fin 16) (hK : Keeps s₀ s) (e : execRetryService n t s = .next s') : Keeps s₀ s' := by
  unfold execRetryService at e
  rw [← next_inj e]
  repeat' first
    | with_reducible assumption
    | with_reducible apply retryStep_ok

end Sys2Proof.Machine
end

