-- ==== Sys2Proof/Laws/KeepHostBase.lean ====
section
/-! SUPPORT. The operations of Machine/HostBase.lean keep the queue and the invariant: one lemma each, for chains of `Keeps`. -/
namespace Sys2Proof.Machine

theorem State.setHost_ok {s₀ s : State} (h : HostIf) (hK : Keeps s₀ s) : Keeps s₀ (State.setHost s h) := by
  unfold State.setHost
  all_goals try with_reducible apply Keeps.free
  repeat' first
    | with_reducible assumption

theorem State.setSes_ok {s₀ s : State} (k : Nat) (x : Ses) (hK : Keeps s₀ s) : Keeps s₀ (State.setSes s k x) := by
  unfold State.setSes
  dsimp only
  repeat' first
    | with_reducible assumption
    | with_reducible apply State.setHost_ok

theorem State.setCdt_ok {s₀ s : State} (d : Nat) (x : Conduit) (hK : Keeps s₀ s) : Keeps s₀ (State.setCdt s d x) := by
  unfold State.setCdt
  dsimp only
  repeat' first
    | with_reducible assumption
    | with_reducible apply State.setHost_ok

theorem State.queueNotice_ok {s₀ s : State} (x : Notice) (hK : Keeps s₀ s) : Keeps s₀ (State.queueNotice s x) := by
  unfold State.queueNotice
  dsimp only
  repeat' first
    | with_reducible assumption
    | with_reducible apply State.setHost_ok
    | with_reducible apply Keeps.ite

theorem State.notify_ok {s₀ s : State} (feature : Nat) (x : Notice) (hK : Keeps s₀ s) : Keeps s₀ (State.notify s feature x) := by
  unfold State.notify
  repeat' first
    | with_reducible assumption
    | with_reducible apply State.queueNotice_ok
    | with_reducible apply Keeps.ite

theorem State.setCasc_ok {s₀ s : State} (c : Casc) (hK : Keeps s₀ s) : Keeps s₀ (State.setCasc s c) := by
  unfold State.setCasc
  all_goals try with_reducible apply Keeps.free
  repeat' first
    | with_reducible assumption

theorem State.setLport_ok {s₀ s : State} (p : Nat) (x : LPort) (hK : Keeps s₀ s) : Keeps s₀ (State.setLport s p x) := by
  unfold State.setLport
  dsimp only
  repeat' first
    | with_reducible assumption
    | with_reducible apply State.setCasc_ok

end Sys2Proof.Machine
end

