-- ==== Sys2Proof/Laws/KeepMorBase.lean ====
section
/-! SUPPORT. The operations of Machine/MorBase.lean keep the queue and the invariant: one lemma each, for chains of `Keeps`. -/
namespace Sys2Proof.Machine

theorem State.setMor_ok {s₀ s : State} {m : Mor} (h : Keeps s₀ s) (hm : s.mor.queue.length ≤ 32 → m.queue.length ≤ 32) :
    Keeps s₀ (s.setMor m) := h.mor hm

/-! The recorder's input queue is touched by offers and by its own removal alone. -/

theorem Mor.emit_queue (m : Mor) (tb : Nat) (e : MorEntry) : (m.emit tb e).queue = m.queue := by
  unfold Mor.emit
  dsimp only
  split <;> rfl

theorem Mor.overwrite_queue (m : Mor) (b : Nat) : (m.overwrite b).1.queue = m.queue := by
  unfold Mor.overwrite
  show (List.foldl (fun m _ => morCount m 4) m _).queue = m.queue
  generalize ((m.blockEntries b).filter fun e => decide (m.ack ≤ e.seq)) = l
  induction l generalizing m with
  | nil => rfl
  | cons a l ih => exact ih _

theorem Mor.alloc_queue {m m' : Mor} {keep tb k : Nat} {priv : Bool} (h : m.alloc keep tb priv = some (m', k)) : m'.queue = m.queue := by
  unfold Mor.alloc at h
  dsimp only at h
  split at h
  · cases h; rfl
  · split at h
    · cases h; rfl
    · split at h
      · rw [Option.map_eq_some_iff] at h
        obtain ⟨b, _, e⟩ := h
        have := Mor.overwrite_queue { m with blocks := m.blocks ++ [m.next / 64] } b
        rw [e] at this
        exact this
      · cases h

theorem Mor.store_queue (m : Mor) (keep tb : Nat) (e : MorEntry) : (m.store keep tb e).1.queue = m.queue := by
  unfold Mor.store
  split
  · exact Mor.emit_queue m tb e
  · split
    · rfl
    · next h => rw [Mor.emit_queue, Mor.emit_queue, Mor.alloc_queue h]

theorem Mor.writeDrops_queue (m : Mor) (keep tb : Nat) : (m.writeDrops keep tb).1.queue = m.queue := by
  unfold Mor.writeDrops
  exact Mor.store_queue _ _ _ _

theorem Mor.settleLoss_queue (m : Mor) (keep tb k : Nat) (fill : MorEntry → MorEntry) : (m.settleLoss keep tb k fill).queue = m.queue := by
  unfold Mor.settleLoss
  split
  · rfl
  · dsimp only
    rw [Mor.store_queue, Mor.writeDrops_queue]

theorem Mor.write_queue (m : Mor) (keep tb : Nat) (e : MorEntry) (fill : MorEntry → MorEntry) : (m.write keep tb e fill).queue = m.queue := by
  unfold Mor.write
  dsimp only
  rw [Mor.settleLoss_queue, Mor.store_queue]
  split
  · exact Mor.writeDrops_queue _ _ _
  · rfl

theorem State.morWrite_ok {s₀ s : State} (e : MorEntry) (fill : MorEntry → MorEntry) (h : Keeps s₀ s) : Keeps s₀ (s.morWrite e fill) := by
  unfold State.morWrite
  exact State.setMor_ok h (fun i => by rw [Mor.write_queue]; exact i)

theorem State.noteExport_ok {s₀ s : State} (seq : Nat) (hK : Keeps s₀ s) : Keeps s₀ (State.noteExport s seq) := by
  unfold State.noteExport
  repeat' first
    | with_reducible assumption
    | with_reducible apply State.eccNote_ok
    | split

theorem State.morGenesis_ok {s₀ s : State} (h : Keeps s₀ s) : Keeps s₀ s.morGenesis := by
  unfold State.morGenesis
  exact State.setMor_ok h (fun i => by rw [Mor.emit_queue]; exact i)

theorem State.morClose_ok {s₀ s : State} (c seq : Nat) (fill : MorEntry → MorEntry) (h : Keeps s₀ s) : Keeps s₀ (s.morClose c seq fill).2 := by
  unfold State.morClose
  dsimp only
  refine State.morWrite_ok _ _ (State.setMor_ok h fun i => ?_)
  rw [Mor.settleLoss_queue]
  split
  · rw [Mor.writeDrops_queue]; exact i
  · exact i

theorem State.morClose_eq {s₀ s s' : State} {c seq : Nat} {fill : MorEntry → MorEntry} {v} (e : s.morClose c seq fill = (v, s'))
    (h : Keeps s₀ s) : Keeps s₀ s' := by
  have := State.morClose_ok c seq fill h
  rw [e] at this
  exact this

theorem Mor.storeRun_queue (keep tb : Nat) (l : List MorEntry) (m : Mor) : (m.storeRun keep tb l).1.queue = m.queue := by
  unfold Mor.storeRun
  generalize hp : ((m, 0) : Mor × Nat) = p
  have hq : p.1.queue = m.queue := by rw [← hp]
  clear hp
  induction l generalizing p with
  | nil => exact hq
  | cons e l ih => exact ih _ ((Mor.store_queue _ _ _ _).trans hq)

theorem Mor.putRun_queue (keep tb seq : Nat) (rb : List Byte) (m : Mor) : (m.putRun keep tb seq rb).1.queue = m.queue :=
  Mor.storeRun_queue _ _ _ _

theorem State.morRun_ok {s₀ s : State} (seq : Nat) (rb : List Byte) (fill : MorEntry → MorEntry) (h : Keeps s₀ s) : Keeps s₀ (s.morRun seq rb fill) := by
  delta State.morRun
  refine State.setMor_ok h fun i => ?_
  show (Mor.settleLoss _ _ _ _ _).queue.length ≤ 32
  rw [Mor.settleLoss_queue, Mor.putRun_queue]
  exact i

theorem State.morAckTo_ok {s₀ s : State} (v : Nat) (h : Keeps s₀ s) : Keeps s₀ (s.morAckTo v) := by
  unfold State.morAckTo
  dsimp only
  split
  · exact State.setMor_ok h id
  · exact h

end Sys2Proof.Machine
end

