-- ==== Sys2Proof/Laws/KeepRecord.lean ====
section
/-! SUPPORT. The operations of Machine/Record.lean keep the queue and the invariant: one lemma each, for chains of `Keeps`. -/
namespace Sys2Proof.Machine

theorem foldStep_ok {s₀ s : State} (target : Nat) (b : Nat) (hK : Keeps s₀ s) : Keeps s₀ (foldStep target b s) := by
  unfold foldStep
  repeat' first
    | with_reducible assumption
    | with_reducible apply State.setMeas_ok
    | with_reducible apply Keeps.ite
    | split

theorem execTransactionFold_ok {s₀ s s' : State} (target : Fin 256) (b : Fin 2) (hK : Keeps s₀ s) (e : execTransactionFold target b s = .next s') : Keeps s₀ s' := by
  unfold execTransactionFold at e
  rw [← next_inj e]
  repeat' first
    | with_reducible assumption
    | with_reducible apply foldStep_ok
    | with_reducible apply Keeps.ite

theorem State.closeRecord_ok {s₀ s : State} (c : Nat) (fill : MorEntry → MorEntry) (hK : Keeps s₀ s) : Keeps s₀ (State.closeRecord s c fill) := by
  unfold State.closeRecord
  dsimp only
  repeat' first
    | with_reducible assumption
    | with_reducible apply State.morClose_ok
    | with_reducible apply State.setMeas_ok

theorem State.deliverRec_ok {s₀ s : State} (hK : Keeps s₀ s) : Keeps s₀ (State.deliverRec s) := by
  unfold State.deliverRec
  repeat' first
    | with_reducible assumption
    | with_reducible apply State.queueNotice_ok
    | with_reducible apply Keeps.ite
    | split

theorem State.signFail_ok {s₀ s : State} (seq : Nat) (hK : Keeps s₀ s) : Keeps s₀ (State.signFail s seq) := by
  unfold State.signFail
  dsimp only
  repeat' first
    | with_reducible assumption
    | with_reducible apply State.setMeas_ok
    | with_reducible apply State.offer_ok

theorem State.signLoss_ok {s₀ s : State} (seq : Nat) (hK : Keeps s₀ s) : Keeps s₀ (State.signLoss s seq) := by
  unfold State.signLoss
  repeat' first
    | with_reducible assumption
    | with_reducible apply State.signFail_ok
    | with_reducible apply State.offerEntry_ok

theorem State.ringStart_ok {s₀ s : State} (hK : Keeps s₀ s) : Keeps s₀ (State.ringStart s) := by
  unfold State.ringStart
  dsimp only
  all_goals try with_reducible apply Keeps.free
  repeat' first
    | with_reducible assumption

theorem State.signed_ok {s₀ s : State} (key : Digest) (r : Rec) (rest : List Rec) (fill : MorEntry → MorEntry) (hK : Keeps s₀ s) : Keeps s₀ (State.signed s key r rest fill) := by
  unfold State.signed
  dsimp only
  repeat' first
    | with_reducible assumption
    | with_reducible apply State.setMeas_ok
    | with_reducible apply State.morRun_ok
    | with_reducible apply State.ringStart_ok

theorem signStep_ok {s₀ s : State} (key : Option Digest) (fill : MorEntry → MorEntry) (hK : Keeps s₀ s) : Keeps s₀ (signStep key fill s) := by
  unfold signStep
  repeat' first
    | with_reducible assumption
    | with_reducible apply State.signLoss_ok
    | with_reducible apply State.signed_ok
    | with_reducible apply State.signFail_ok
    | with_reducible apply Keeps.ite
    | split

theorem State.ringPut_ok {s₀ s : State} (seq : Nat) (rb : List Byte) (hK : Keeps s₀ s) : Keeps s₀ (State.ringPut s seq rb) := by
  unfold State.ringPut
  dsimp only
  repeat' first
    | with_reducible assumption
    | with_reducible apply State.flashErase_ok
    | with_reducible apply State.flashPut_ok

theorem State.ringLost_ok {s₀ s : State} (seq : Nat) (hK : Keeps s₀ s) : Keeps s₀ (State.ringLost s seq) := by
  unfold State.ringLost
  repeat' first
    | intro _
    | with_reducible assumption
    | with_reducible apply State.flashFree_ok
    | with_reducible apply iter_ok

theorem State.closeOver_ok {s₀ s : State} (last : Nat) (hK : Keeps s₀ s) : Keeps s₀ (State.closeOver s last) := by
  unfold State.closeOver
  dsimp only
  repeat' first
    | with_reducible assumption
    | with_reducible apply State.setMeas_ok

theorem State.ringFail_ok {s₀ s : State} (seq : Nat) (fault : Bool) (hK : Keeps s₀ s) : Keeps s₀ (State.ringFail s seq fault) := by
  unfold State.ringFail
  dsimp only
  repeat' first
    | with_reducible assumption
    | with_reducible apply State.ringLost_ok
    | with_reducible apply State.closeOver_ok
    | with_reducible apply State.offer_ok
    | with_reducible apply State.setMeas_ok

theorem ringStep_ok {s₀ s : State} (ok : Bool) (hK : Keeps s₀ s) : Keeps s₀ (ringStep ok s) := by
  unfold ringStep
  dsimp only
  repeat' first
    | with_reducible assumption
    | with_reducible apply State.ringPut_ok
    | with_reducible apply State.closeOver_ok
    | with_reducible apply State.ringFail_ok
    | with_reducible apply State.deliverRec_ok
    | with_reducible apply Keeps.ite
    | split
  all_goals try with_reducible apply Keeps.free
  repeat' first
    | with_reducible assumption

theorem execRingWriteDone_ok {s₀ s s' : State} (ok : Bool) (hK : Keeps s₀ s) (e : execRingWriteDone ok s = .next s') : Keeps s₀ s' := by
  unfold execRingWriteDone at e
  rw [← next_inj e]
  repeat' first
    | with_reducible assumption
    | with_reducible apply ringStep_ok
    | with_reducible apply Keeps.ite

end Sys2Proof.Machine
end

