-- ==== Sys2Proof/Laws/KeepEnable.lean ====
section
/-! SUPPORT. The operations of Machine/Enable.lean keep the queue and the invariant: one lemma each, for chains of `Keeps`. -/
namespace Sys2Proof.Machine

theorem State.setSpanEn_ok {s₀ s : State} (n : Nat) (b : Bool) (hK : Keeps s₀ s) : Keeps s₀ (State.setSpanEn s n b) := by
  unfold State.setSpanEn
  repeat' first
    | with_reducible assumption
    | with_reducible apply State.setReg_ok

theorem pauseThr_ok {s₀ s : State} (n : Nat) (t : Nat) (hK : Keeps s₀ s) : Keeps s₀ (pauseThr n t s) := by
  unfold pauseThr
  dsimp only
  repeat' first
    | with_reducible assumption
    | with_reducible apply State.setThr_ok
    | with_reducible apply Keeps.ite

theorem dropPort_ok {s₀ s : State} (n : Nat) (p : Nat) (hK : Keeps s₀ s) : Keeps s₀ (dropPort n p s) := by
  unfold dropPort
  repeat' first
    | with_reducible assumption
    | with_reducible apply State.clearPort_ok

theorem State.dropPins_ok {s₀ s : State} (n : Nat) (hK : Keeps s₀ s) : Keeps s₀ (State.dropPins s n) := by
  unfold State.dropPins
  dsimp only
  repeat' first
    | with_reducible assumption
    | with_reducible apply State.setBank_ok
    | with_reducible apply State.keepAfter_ok

theorem spanStop_ok {s₀ s : State} (src : Src) (n : Nat) (hK : Keeps s₀ s) : Keeps s₀ (spanStop src n s) := by
  unfold spanStop
  dsimp only
  repeat' first
    | intro _
    | with_reducible assumption
    | with_reducible apply State.refuse_ok
    | with_reducible apply dropPort_ok
    | with_reducible apply pauseThr_ok
    | with_reducible apply State.dropPins_ok
    | with_reducible apply State.setCore_ok
    | with_reducible apply State.chanOff_ok
    | with_reducible apply State.setEngine_ok
    | with_reducible apply State.setSpanEn_ok
    | with_reducible apply iter_ok
    | with_reducible apply Keeps.ite
    | split

theorem execSpanDisable_ok {s₀ s s' : State} (n : Fin 16) (hK : Keeps s₀ s) (e : execSpanDisable n s = .next s') : Keeps s₀ s' := by
  unfold execSpanDisable at e
  rw [← next_inj e]
  repeat' first
    | with_reducible assumption
    | with_reducible apply spanStop_ok
    | with_reducible apply Keeps.ite

theorem startEngine_ok {s₀ s : State} (n : Nat) (e : Nat) (hK : Keeps s₀ s) : Keeps s₀ (startEngine n e s) := by
  unfold startEngine
  dsimp only
  repeat' first
    | with_reducible assumption
    | with_reducible apply State.setEngine_ok

theorem spanOn_ok {s₀ s : State} (src : Src) (n : Nat) (h : Keeps s₀ s) : Keeps s₀ (spanOn src n s) := by
  unfold spanOn
  split
  · exact State.refuse_ok _ _ _ _ h
  · dsimp only
    split
    · exact Keeps.clkFree (State.setSpanEn_ok _ _ (iter_ok (fun _ _ => startEngine_ok _ _) (State.setCore_ok _ _ h)))
    · exact State.setSpanEn_ok _ _ (iter_ok (fun _ _ => startEngine_ok _ _) (State.setCore_ok _ _ h))

theorem execSpanEnable_ok {s₀ s s' : State} (n : Fin 16) (hK : Keeps s₀ s) (e : execSpanEnable n s = .next s') : Keeps s₀ s' := by
  unfold execSpanEnable at e
  rw [← next_inj e]
  repeat' first
    | with_reducible assumption
    | with_reducible apply spanOn_ok
    | with_reducible apply Keeps.ite

theorem coreStopStep_ok {s₀ s : State} (n : Nat) (hK : Keeps s₀ s) : Keeps s₀ (coreStopStep n s) := by
  unfold coreStopStep
  dsimp only
  repeat' first
    | with_reducible assumption
    | with_reducible apply State.setCore_ok
    | with_reducible apply Keeps.ite

theorem execSpanCoreStop_ok {s₀ s s' : State} (n : Fin 16) (hK : Keeps s₀ s) (e : execSpanCoreStop n s = .next s') : Keeps s₀ s' := by
  unfold execSpanCoreStop at e
  rw [← next_inj e]
  repeat' first
    | with_reducible assumption
    | with_reducible apply coreStopStep_ok
    | with_reducible apply Keeps.ite

theorem spanEnWrite_ok {s₀ s : State} (src : Src) (v : Word) (hK : Keeps s₀ s) : Keeps s₀ (spanEnWrite src v s) := by
  unfold spanEnWrite
  repeat' first
    | intro _
    | with_reducible assumption
    | with_reducible apply spanOn_ok
    | with_reducible apply spanStop_ok
    | with_reducible apply iter_ok
    | with_reducible apply Keeps.ite

theorem State.clearEv_ok {s₀ s : State} (n : Nat) (v : Nat) (d : Nat) (hK : Keeps s₀ s) : Keeps s₀ (State.clearEv s n v d) := by
  unfold State.clearEv
  dsimp only
  repeat' first
    | intro _
    | with_reducible assumption
    | with_reducible apply State.setThr_ok
    | with_reducible apply iter_ok
    | with_reducible apply Keeps.ite

theorem chnCfgWrite_ok {s₀ s : State} (src : Src) (n : Nat) (e : Nat) (c : Nat) (v : Word) (hK : Keeps s₀ s) : Keeps s₀ (chnCfgWrite src n e c v s) := by
  unfold chnCfgWrite
  dsimp only
  repeat' first
    | with_reducible assumption
    | with_reducible apply stageFields_ok
    | with_reducible apply State.setReg_ok
    | with_reducible apply State.setChan_ok
    | with_reducible apply State.chanOff_ok
    | with_reducible apply State.refuse_ok
    | with_reducible apply State.clearEv_ok
    | with_reducible apply Keeps.ite
    | split

theorem execCloveChannelEnable_ok {s₀ s s' : State} (src : Src) (n : Fin 16) (e : Fin 12) (c : Fin 4) (v : Word) (hK : Keeps s₀ s) (e : execCloveChannelEnable src n e c v s = .next s') : Keeps s₀ s' := by
  unfold execCloveChannelEnable at e
  rw [← next_inj e]
  repeat' first
    | intro _
    | with_reducible assumption
    | with_reducible apply State.via_ok
    | with_reducible apply State.gate_ok
    | with_reducible apply chnCfgWrite_ok

theorem execCloveChannelDisable_ok {s₀ s s' : State} (src : Src) (n : Fin 16) (e : Fin 12) (c : Fin 4) (v : Word) (hK : Keeps s₀ s) (e : execCloveChannelDisable src n e c v s = .next s') : Keeps s₀ s' := by
  unfold execCloveChannelDisable at e
  rw [← next_inj e]
  repeat' first
    | intro _
    | with_reducible assumption
    | with_reducible apply State.via_ok
    | with_reducible apply State.gate_ok
    | with_reducible apply chnCfgWrite_ok

theorem chnStsWrite_ok {s₀ s : State} (n : Nat) (e : Nat) (c : Nat) (v : Word) (hK : Keeps s₀ s) : Keeps s₀ (chnStsWrite n e c v s) := by
  unfold chnStsWrite
  dsimp only
  repeat' first
    | with_reducible assumption
    | with_reducible apply State.setChan_ok

theorem seracCtlWrite_ok {s₀ s : State} (src : Src) (n : Nat) (v : Word) (hK : Keeps s₀ s) : Keeps s₀ (seracCtlWrite src n v s) := by
  unfold seracCtlWrite
  dsimp only
  repeat' first
    | with_reducible assumption
    | with_reducible apply State.setReg_ok
    | with_reducible apply State.refuse_ok
    | with_reducible apply Keeps.ite

theorem execSeracWdEnable_ok {s₀ s s' : State} (src : Src) (n : Fin 16) (v : Word) (hK : Keeps s₀ s) (e : execSeracWdEnable src n v s = .next s') : Keeps s₀ s' := by
  unfold execSeracWdEnable at e
  rw [← next_inj e]
  repeat' first
    | intro _
    | with_reducible assumption
    | with_reducible apply State.via_ok
    | with_reducible apply State.gate_ok
    | with_reducible apply seracCtlWrite_ok

end Sys2Proof.Machine
end

