-- ==== Sys2Proof/Laws/KeepLink.lean ====
section
/-! SUPPORT. The operations of Machine/Link.lean keep the queue and the invariant: one lemma each, for chains of `Keeps`. -/
namespace Sys2Proof.Machine

theorem State.enqueue_ok {s₀ s : State} (p : Nat) (f : Frame) (hK : Keeps s₀ s) : Keeps s₀ (State.enqueue s p f) := by
  unfold State.enqueue
  dsimp only
  repeat' first
    | with_reducible assumption
    | with_reducible apply State.setLport_ok
    | with_reducible apply Keeps.ite

theorem State.sendDown_ok {s₀ s : State} (f : Frame) (hK : Keeps s₀ s) : Keeps s₀ (State.sendDown s f) := by
  unfold State.sendDown
  repeat' first
    | intro _
    | with_reducible assumption
    | with_reducible apply State.enqueue_ok
    | with_reducible apply foldl_ok

theorem State.sendTo_ok {s₀ s : State} (f : Frame) (hK : Keeps s₀ s) : Keeps s₀ (State.sendTo s f) := by
  unfold State.sendTo
  repeat' first
    | with_reducible assumption
    | with_reducible apply State.enqueue_ok
    | with_reducible apply Keeps.ite
    | split

theorem State.received_ok {s₀ s : State} (p : Nat) (f : Frame) (hK : Keeps s₀ s) : Keeps s₀ (State.received s p f) := by
  unfold State.received
  dsimp only
  repeat' first
    | with_reducible assumption
    | with_reducible apply State.setLport_ok

theorem State.forward_ok {s₀ s : State} (p : Nat) (f : Frame) (hK : Keeps s₀ s) : Keeps s₀ (State.forward s p f) := by
  unfold State.forward
  dsimp only
  repeat' first
    | with_reducible assumption
    | with_reducible apply State.enqueue_ok
    | with_reducible apply State.setLport_ok
    | split

theorem State.cascEntry_ok {s₀ s : State} (code : Nat) (node : Nat) (a0 : Nat) (a1 : Nat) (a2 : Nat) (hK : Keeps s₀ s) : Keeps s₀ (State.cascEntry s code node a0 a1 a2) := by
  unfold State.cascEntry
  repeat' first
    | with_reducible assumption
    | with_reducible apply State.offer_ok

theorem State.setTimeOk_ok {s₀ s : State} (v : Bool) (hK : Keeps s₀ s) : Keeps s₀ (State.setTimeOk s v) := by
  unfold State.setTimeOk
  dsimp only
  repeat' first
    | with_reducible assumption
    | with_reducible apply State.setCasc_ok
    | with_reducible apply State.offer_ok
    | with_reducible apply Keeps.ite

theorem State.portState_ok {s₀ s : State} (p : Nat) (st : Nat) (hK : Keeps s₀ s) : Keeps s₀ (State.portState s p st) := by
  unfold State.portState
  dsimp only
  repeat' first
    | with_reducible assumption
    | with_reducible apply State.setLport_ok
    | with_reducible apply State.cascEntry_ok
    | with_reducible apply Keeps.ite

end Sys2Proof.Machine
end

