-- ==== Sys2Proof/Laws/KeepPins.lean ====
section
/-! SUPPORT. The operations of Machine/Pins.lean keep the queue and the invariant: one lemma each, for chains of `Keeps`. -/
namespace Sys2Proof.Machine

theorem gpioVal_ok {s₀ s : State} (n : Nat) (mask : BitVec 24 → BitVec 24) (val : BitVec 24 → BitVec 24) (hK : Keeps s₀ s) : Keeps s₀ (gpioVal n mask val s) := by
  unfold gpioVal
  dsimp only
  repeat' first
    | with_reducible assumption
    | with_reducible apply State.writeGpio_ok

theorem gpioEn_ok {s₀ s : State} (n : Nat) (mask : BitVec 24 → BitVec 24) (val : BitVec 24 → BitVec 24) (hK : Keeps s₀ s) : Keeps s₀ (gpioEn n mask val s) := by
  unfold gpioEn
  dsimp only
  repeat' first
    | with_reducible assumption
    | with_reducible apply State.writeGpio_ok

theorem execGpioOut_ok {s₀ s s' : State} (n : Fin 16) (v : Word) (hK : Keeps s₀ s) (e : execGpioOut n v s = .next s') : Keeps s₀ s' := by
  unfold execGpioOut at e
  rw [← next_inj e]
  repeat' first
    | intro _
    | with_reducible assumption
    | with_reducible apply State.gate_ok
    | with_reducible apply gpioVal_ok

theorem execGpioOutSet_ok {s₀ s s' : State} (n : Fin 16) (v : Word) (hK : Keeps s₀ s) (e : execGpioOutSet n v s = .next s') : Keeps s₀ s' := by
  unfold execGpioOutSet at e
  rw [← next_inj e]
  repeat' first
    | intro _
    | with_reducible assumption
    | with_reducible apply State.gate_ok
    | with_reducible apply gpioVal_ok

theorem execGpioOutClr_ok {s₀ s s' : State} (n : Fin 16) (v : Word) (hK : Keeps s₀ s) (e : execGpioOutClr n v s = .next s') : Keeps s₀ s' := by
  unfold execGpioOutClr at e
  rw [← next_inj e]
  repeat' first
    | intro _
    | with_reducible assumption
    | with_reducible apply State.gate_ok
    | with_reducible apply gpioVal_ok

theorem execGpioOutTgl_ok {s₀ s s' : State} (n : Fin 16) (v : Word) (hK : Keeps s₀ s) (e : execGpioOutTgl n v s = .next s') : Keeps s₀ s' := by
  unfold execGpioOutTgl at e
  rw [← next_inj e]
  repeat' first
    | intro _
    | with_reducible assumption
    | with_reducible apply State.gate_ok
    | with_reducible apply gpioVal_ok

theorem execGpioOe_ok {s₀ s s' : State} (n : Fin 16) (v : Word) (hK : Keeps s₀ s) (e : execGpioOe n v s = .next s') : Keeps s₀ s' := by
  unfold execGpioOe at e
  rw [← next_inj e]
  repeat' first
    | intro _
    | with_reducible assumption
    | with_reducible apply State.gate_ok
    | with_reducible apply gpioEn_ok

theorem execGpioOeSet_ok {s₀ s s' : State} (n : Fin 16) (v : Word) (hK : Keeps s₀ s) (e : execGpioOeSet n v s = .next s') : Keeps s₀ s' := by
  unfold execGpioOeSet at e
  rw [← next_inj e]
  repeat' first
    | intro _
    | with_reducible assumption
    | with_reducible apply State.gate_ok
    | with_reducible apply gpioEn_ok

theorem execGpioOeClr_ok {s₀ s s' : State} (n : Fin 16) (v : Word) (hK : Keeps s₀ s) (e : execGpioOeClr n v s = .next s') : Keeps s₀ s' := by
  unfold execGpioOeClr at e
  rw [← next_inj e]
  repeat' first
    | intro _
    | with_reducible assumption
    | with_reducible apply State.gate_ok
    | with_reducible apply gpioEn_ok

theorem execGpioOeTgl_ok {s₀ s s' : State} (n : Fin 16) (v : Word) (hK : Keeps s₀ s) (e : execGpioOeTgl n v s = .next s') : Keeps s₀ s' := by
  unfold execGpioOeTgl at e
  rw [← next_inj e]
  repeat' first
    | intro _
    | with_reducible assumption
    | with_reducible apply State.gate_ok
    | with_reducible apply gpioEn_ok

theorem pinDirectWrite_ok {s₀ s : State} (src : Src) (n : Nat) (p : Nat) (v : Word) (hK : Keeps s₀ s) : Keeps s₀ (pinDirectWrite src n p v s) := by
  unfold pinDirectWrite
  dsimp only
  repeat' first
    | with_reducible assumption
    | with_reducible apply State.refuse_ok
    | with_reducible apply State.setBank_ok
    | with_reducible apply State.drawn_ok
    | with_reducible apply State.setStg_ok
    | with_reducible apply Keeps.ite
    | split

theorem execPinDirect_ok {s₀ s s' : State} (src : Src) (n : Fin 16) (pin : Fin 24) (v : Word) (hK : Keeps s₀ s) (e : execPinDirect src n pin v s = .next s') : Keeps s₀ s' := by
  unfold execPinDirect at e
  rw [← next_inj e]
  repeat' first
    | intro _
    | with_reducible assumption
    | with_reducible apply State.via_ok
    | with_reducible apply State.gate_ok
    | with_reducible apply pinDirectWrite_ok

theorem directSwitchStep_ok {s₀ s : State} (n : Nat) (hK : Keeps s₀ s) : Keeps s₀ (directSwitchStep n s) := by
  unfold directSwitchStep
  dsimp only
  repeat' first
    | with_reducible assumption
    | with_reducible apply State.setBank_ok
    | with_reducible apply State.setReg_ok
    | with_reducible apply State.freezePaths_ok
    | with_reducible apply State.keepAfter_ok
    | with_reducible apply Keeps.ite
    | split

theorem execDirectSwitch_ok {s₀ s s' : State} (n : Fin 16) (hK : Keeps s₀ s) (e : execDirectSwitch n s = .next s') : Keeps s₀ s' := by
  unfold execDirectSwitch at e
  rw [← next_inj e]
  repeat' first
    | with_reducible assumption
    | with_reducible apply directSwitchStep_ok
    | with_reducible apply Keeps.ite

theorem keeperStep_ok {s₀ s : State} (n : Nat) (p : Nat) (hK : Keeps s₀ s) : Keeps s₀ (keeperStep n p s) := by
  unfold keeperStep
  dsimp only
  repeat' first
    | with_reducible assumption
    | with_reducible apply State.setBank_ok
    | with_reducible apply Keeps.ite

theorem execKeeperRelease_ok {s₀ s s' : State} (n : Fin 16) (pin : Fin 24) (hK : Keeps s₀ s) (e : execKeeperRelease n pin s = .next s') : Keeps s₀ s' := by
  unfold execKeeperRelease at e
  rw [← next_inj e]
  repeat' first
    | with_reducible assumption
    | with_reducible apply keeperStep_ok

theorem State.sendPads_ok {s₀ s : State} (n : Nat) (t : Nat) (pins : List Nat) (bank : Bool) (hK : Keeps s₀ s) : Keeps s₀ (State.sendPads s n t pins bank) := by
  unfold State.sendPads
  dsimp only
  repeat' first
    | with_reducible assumption
    | with_reducible apply State.setBank_ok
    | with_reducible apply Keeps.ite

theorem State.rimeFail_ok {s₀ s : State} (n : Nat) (hK : Keeps s₀ s) : Keeps s₀ (State.rimeFail s n) := by
  unfold State.rimeFail
  dsimp only
  repeat' first
    | with_reducible assumption
    | with_reducible apply State.setBank_ok
    | with_reducible apply State.offer_ok

theorem rimeTimeoutStep_ok {s₀ s : State} (n : Nat) (hK : Keeps s₀ s) : Keeps s₀ (rimeTimeoutStep n s) := by
  unfold rimeTimeoutStep
  dsimp only
  repeat' first
    | with_reducible assumption
    | with_reducible apply State.rimeFail_ok
    | with_reducible apply Keeps.ite

theorem execRimeTimeout_ok {s₀ s s' : State} (n : Fin 16) (hK : Keeps s₀ s) (e : execRimeTimeout n s = .next s') : Keeps s₀ s' := by
  unfold execRimeTimeout at e
  rw [← next_inj e]
  repeat' first
    | with_reducible assumption
    | with_reducible apply rimeTimeoutStep_ok
    | with_reducible apply Keeps.ite

theorem rimeKeyPut_ok {s₀ s : State} (n : Nat) (v : Word) (hK : Keeps s₀ s) : Keeps s₀ (rimeKeyPut n v s) := by
  unfold rimeKeyPut
  dsimp only
  repeat' first
    | with_reducible assumption
    | with_reducible apply State.setBank_ok
    | with_reducible apply State.rimeFail_ok
    | with_reducible apply Keeps.ite

theorem rimeKeyWrite_ok {s₀ s : State} (n : Nat) (v : Word) (hK : Keeps s₀ s) : Keeps s₀ (rimeKeyWrite n v s) := by
  unfold rimeKeyWrite
  repeat' first
    | with_reducible assumption
    | with_reducible apply rimeKeyPut_ok
    | with_reducible apply rimeTimeoutStep_ok

theorem execRimeKey_ok {s₀ s s' : State} (n : Fin 16) (v : Word) (hK : Keeps s₀ s) (e : execRimeKey n v s = .next s') : Keeps s₀ s' := by
  unfold execRimeKey at e
  rw [← next_inj e]
  repeat' first
    | intro _
    | with_reducible assumption
    | with_reducible apply State.gate_ok
    | with_reducible apply rimeKeyWrite_ok

theorem lockPin_ok {s₀ s : State} (n : Nat) (p : Nat) (hK : Keeps s₀ s) : Keeps s₀ (lockPin n p s) := by
  unfold lockPin
  dsimp only
  all_goals try with_reducible apply Keeps.free
  repeat' first
    | with_reducible apply State.setStg_ok
  all_goals try with_reducible apply Keeps.free
  repeat' first
    | with_reducible assumption
    | with_reducible apply State.setStg_ok

theorem rimeSetPut_ok {s₀ s : State} (n : Nat) (v : Word) (hK : Keeps s₀ s) : Keeps s₀ (rimeSetPut n v s) := by
  unfold rimeSetPut
  dsimp only
  repeat' first
    | intro _
    | with_reducible assumption
    | with_reducible apply State.setBank_ok
    | with_reducible apply lockPin_ok
    | with_reducible apply State.offer_ok
    | with_reducible apply State.rimeFail_ok
    | with_reducible apply iter_ok
    | with_reducible apply Keeps.ite

theorem rimeSetWrite_ok {s₀ s : State} (n : Nat) (v : Word) (hK : Keeps s₀ s) : Keeps s₀ (rimeSetWrite n v s) := by
  unfold rimeSetWrite
  repeat' first
    | with_reducible assumption
    | with_reducible apply rimeSetPut_ok
    | with_reducible apply rimeTimeoutStep_ok

theorem execRimeSet_ok {s₀ s s' : State} (n : Fin 16) (v : Word) (hK : Keeps s₀ s) (e : execRimeSet n v s = .next s') : Keeps s₀ s' := by
  unfold execRimeSet at e
  rw [← next_inj e]
  repeat' first
    | intro _
    | with_reducible assumption
    | with_reducible apply State.gate_ok
    | with_reducible apply rimeSetWrite_ok

end Sys2Proof.Machine
end

