-- ==== Sys2Proof/Laws/KeepFreezeBase.lean ====
section
/-! SUPPORT. The operations of Machine/FreezeBase.lean keep the queue and the invariant: one lemma each, for chains of `Keeps`. -/
namespace Sys2Proof.Machine

theorem State.setFrz_ok {s₀ s : State} (z : Frz) (hK : Keeps s₀ s) : Keeps s₀ (State.setFrz s z) := by
  unfold State.setFrz
  all_goals try with_reducible apply Keeps.free
  repeat' first
    | with_reducible assumption

theorem State.frzEnd_ok {s₀ s : State} (last : FrzLast) (code : Nat) (hK : Keeps s₀ s) : Keeps s₀ (State.frzEnd s last code) :=
  (State.setFrz_ok _ hK).banks (tabMap_wf _ _ _ _)

theorem State.frzAbort_ok {s₀ s : State} (code : Nat) (detail : Word) (h : Keeps s₀ s) : Keeps s₀ (s.frzAbort code detail) :=
  State.setFrz_ok _ (State.frzEnd_ok _ _ (State.offer_ok _ _ _ _ _ (State.refuse_ok _ _ _ _ h)))

theorem State.frzCheckFail_ok {s₀ s : State} (code : Nat) (detail : Word) (hK : Keeps s₀ s) : Keeps s₀ (State.frzCheckFail s code detail) := by
  unfold State.frzCheckFail
  repeat' first
    | with_reducible assumption
    | with_reducible apply State.refuse_ok
    | with_reducible apply State.frzEnd_ok

theorem State.frzArm_ok {s₀ s : State} (f : Nat) (hK : Keeps s₀ s) : Keeps s₀ (State.frzArm s f) := by
  unfold State.frzArm
  dsimp only
  repeat' first
    | with_reducible assumption
    | with_reducible apply State.setReg_ok
    | with_reducible apply State.setFrz_ok

theorem State.frzChoose_ok {s₀ s : State} (hK : Keeps s₀ s) : Keeps s₀ (State.frzChoose s) := by
  unfold State.frzChoose
  dsimp only
  repeat' first
    | with_reducible assumption
    | with_reducible apply State.setFrz_ok
    | with_reducible apply State.frzAbort_ok
    | with_reducible apply State.frzArm_ok
    | with_reducible apply Keeps.ite

theorem restartChan_ok {s₀ s : State} (n : Nat) (e : Nat) (c : Nat) (hK : Keeps s₀ s) : Keeps s₀ (restartChan s n e c) := by
  unfold restartChan
  dsimp only
  repeat' first
    | with_reducible assumption
    | with_reducible apply State.setChan_ok

theorem restartEngine_ok {s₀ s : State} (f : Nat) (n : Nat) (e : Nat) (imem : Bool) (hK : Keeps s₀ s) : Keeps s₀ (restartEngine f n e imem s) := by
  unfold restartEngine
  dsimp only
  repeat' first
    | intro _
    | with_reducible assumption
    | with_reducible apply State.setEngine_ok
    | with_reducible apply restartChan_ok
    | with_reducible apply iter_ok

theorem restartEngines_ok {s₀ s : State} (f : Nat) (old : State) (hK : Keeps s₀ s) : Keeps s₀ (restartEngines old f s) := by
  unfold restartEngines
  dsimp only
  repeat' first
    | intro _
    | with_reducible assumption
    | with_reducible apply restartEngine_ok
    | with_reducible apply iter_ok
    | with_reducible apply Keeps.ite

theorem restartTimer_ok {s₀ s : State} (f : Nat) (n : Nat) (k : Nat) (old : State) (hK : Keeps s₀ s) : Keeps s₀ (restartTimer old f n k s) := by
  unfold restartTimer
  dsimp only
  repeat' first
    | with_reducible assumption
    | with_reducible apply State.setTimer_ok
    | with_reducible apply Keeps.ite

theorem swapTable_ok {s₀ s : State} (n : Nat) (old : State) (hK : Keeps s₀ s) : Keeps s₀ (swapTable old n s) := by
  unfold swapTable
  dsimp only
  repeat' first
    | with_reducible assumption
    | with_reducible apply State.setCore_ok

theorem replaceDirect_ok {s₀ s : State} (f : Nat) (n : Nat) (old : State) (hK : Keeps s₀ s) : Keeps s₀ (replaceDirect old f n s) := by
  unfold replaceDirect
  dsimp only
  repeat' first
    | intro _
    | with_reducible assumption
    | with_reducible apply State.offer_ok
    | with_reducible apply State.setBank_ok
    | with_reducible apply iter_ok
    | with_reducible apply foldl_ok
    | with_reducible apply Keeps.ite

theorem switchPins_ok {s₀ s : State} (f : Nat) (n : Nat) (old : State) (hK : Keeps s₀ s) : Keeps s₀ (switchPins old f n s) := by
  unfold switchPins
  dsimp only
  repeat' first
    | with_reducible assumption
    | with_reducible apply replaceDirect_ok
    | with_reducible apply State.freezePaths_ok
    | with_reducible apply State.keepAfter_ok
    | with_reducible apply State.sendPads_ok

theorem swapRegion_ok {s₀ s old : State} (ho : Keeps s₀ old) (h : Keeps s₀ s) : Keeps s₀ (swapRegion old s) := by
  unfold swapRegion
  split
  · refine ⟨h.1, fun i => ?_⟩
    obtain ⟨a, ⟨b0, b1, b2, b3, b4⟩, c⟩ := h.2 i
    obtain ⟨_, ⟨_, _, d2, d3, _⟩, _⟩ := ho.2 i
    refine ⟨a, ⟨b0, b1, b2, ?_, b4⟩, c⟩
    dsimp only
    split <;> assumption
  · exact h

theorem State.optPut_ok {s₀ s : State} (a k v : Nat) (h : Keeps s₀ s) : Keeps s₀ (s.optPut a k v) := h.opt (writeNat_wf _ _ _ _ _)

theorem chargeOne_ok {s₀ s : State} (k : Nat) (hK : Keeps s₀ s) : Keeps s₀ (chargeOne s k) := by
  unfold chargeOne
  dsimp only
  repeat' first
    | with_reducible assumption
    | with_reducible apply State.optPut_ok
    | with_reducible apply State.setFrz_ok
    | with_reducible apply State.offer_ok

theorem markCharges_ok {s₀ s : State} (j : Nat) (hK : Keeps s₀ s) : Keeps s₀ (markCharges j s) := by
  unfold markCharges
  dsimp only
  repeat' first
    | intro _
    | with_reducible assumption
    | with_reducible apply State.optPut_ok
    | with_reducible apply iter_ok

theorem State.applyEntry_ok {s₀ s : State} (f : Nat) (old : State) (hK : Keeps s₀ s) : Keeps s₀ (State.applyEntry s old f) := by
  unfold State.applyEntry
  dsimp only
  repeat' first
    | with_reducible assumption
    | with_reducible apply State.offerEntry_ok

theorem State.cascApplied_ok {s₀ s : State} (f : Nat) (hK : Keeps s₀ s) : Keeps s₀ (State.cascApplied s f) := by
  unfold State.cascApplied
  dsimp only
  repeat' first
    | with_reducible assumption
    | with_reducible apply State.setCasc_ok
    | with_reducible apply State.cascEntry_ok
    | with_reducible apply State.setReg_ok
    | split

theorem State.readStaged_ok {s₀ s : State} (hK : Keeps s₀ s) : Keeps s₀ (State.readStaged s) := by
  unfold State.readStaged
  repeat' first
    | with_reducible assumption
    | with_reducible apply State.readRegion_ok
    | with_reducible apply State.readFirn_ok

theorem State.frzApply_ok {s₀ start : State} (f : Nat) (hK : Keeps s₀ start) : Keeps s₀ (State.frzApply start f) := by
  unfold State.frzApply
  dsimp only
  repeat' first
    | intro _
    | with_reducible assumption
    | with_reducible apply State.readFirn_ok
    | with_reducible apply State.applied_ok
    | with_reducible apply switchPins_ok
    | with_reducible apply restartTimer_ok
    | with_reducible apply restartEngines_ok
    | with_reducible apply swapRegion_ok
    | with_reducible apply swapTable_ok
    | with_reducible apply markCharges_ok
    | with_reducible apply State.applyEntry_ok
    | with_reducible apply State.setFrz_ok
    | with_reducible apply State.cascApplied_ok
    | with_reducible apply iter_ok

end Sys2Proof.Machine
end

