-- ==== Sys2Proof/Laws/KeepOptionBase.lean ====
section
/-! SUPPORT. The operations of Machine/OptionBase.lean keep the queue and the invariant: one lemma each, for chains of `Keeps`. -/
namespace Sys2Proof.Machine

theorem State.cascInit_ok {s₀ s : State} (hK : Keeps s₀ s) : Keeps s₀ (State.cascInit s).2 := by
  unfold State.cascInit
  dsimp only
  repeat' first
    | with_reducible assumption
    | with_reducible apply State.setCasc_ok

theorem State.cascInit_eq {s₀ s s' : State}  {v} (e : State.cascInit s = (v, s')) (hK : Keeps s₀ s) : Keeps s₀ s' := by
  have := State.cascInit_ok (s₀ := s₀) hK
  rw [e] at this
  exact this

theorem State.optionLoad_ok {s₀ s : State} (hK : Keeps s₀ s) : Keeps s₀ (State.optionLoad s).2 := by
  unfold State.optionLoad
  dsimp only
  repeat' first
    | with_reducible apply State.setFrz_ok
    | with_reducible apply State.setReg_ok
    | with_reducible apply State.setStg_ok
    | with_reducible apply State.cascInit_ok
  all_goals try with_reducible apply Keeps.free
  repeat' first
    | with_reducible assumption

theorem State.optionLoad_eq {s₀ s s' : State}  {v} (e : State.optionLoad s = (v, s')) (hK : Keeps s₀ s) : Keeps s₀ s' := by
  have := State.optionLoad_ok (s₀ := s₀) hK
  rw [e] at this
  exact this

end Sys2Proof.Machine
end

