-- ==== Sys2Proof/Laws/KeepTimers.lean ====
section
/-! SUPPORT. The operations of Machine/Timers.lean keep the queue and the invariant: one lemma each, for chains of `Keeps`. -/
namespace Sys2Proof.Machine

theorem State.tmEvent_ok {s₀ s : State} (n : Nat) (k : Nat) (src : Nat) (hK : Keeps s₀ s) : Keeps s₀ (State.tmEvent s n k src) := by
  unfold State.tmEvent
  dsimp only
  repeat' first
    | with_reducible assumption
    | with_reducible apply State.setTimer_ok
    | with_reducible apply State.raiseEv_ok
    | with_reducible apply Keeps.ite

theorem State.endSleep_ok {s₀ s : State} (h : Keeps s₀ s) : Keeps s₀ s.endSleep := by
  unfold State.endSleep
  split
  · exact h.clkFree
  · exact h

theorem State.tmMatch_ok {s₀ s : State} (n : Nat) (k : Nat) (hK : Keeps s₀ s) : Keeps s₀ (State.tmMatch s n k) := by
  unfold State.tmMatch
  dsimp only
  repeat' first
    | with_reducible assumption
    | with_reducible apply State.setTimer_ok
    | with_reducible apply State.tmEvent_ok
    | with_reducible apply State.endSleep_ok
    | with_reducible apply Keeps.ite

theorem State.tmTop_ok {s₀ s : State} (n : Nat) (k : Nat) (hK : Keeps s₀ s) : Keeps s₀ (State.tmTop s n k) := by
  unfold State.tmTop
  dsimp only
  repeat' first
    | with_reducible assumption
    | with_reducible apply State.setTimer_ok
    | with_reducible apply State.tmEvent_ok

theorem State.tmCarry_ok {s₀ s : State} (n : Nat) (k : Nat) (hK : Keeps s₀ s) : Keeps s₀ (State.tmCarry s n k) := by
  unfold State.tmCarry
  dsimp only
  repeat' first
    | with_reducible assumption
    | with_reducible apply State.setTimer_ok
    | with_reducible apply Keeps.ite

theorem State.tmInc_ok {s₀ s : State} (n : Nat) (k : Nat) (hK : Keeps s₀ s) : Keeps s₀ (State.tmInc s n k) := by
  unfold State.tmInc
  dsimp only
  repeat' first
    | with_reducible assumption
    | with_reducible apply State.setTimer_ok
    | with_reducible apply State.tmCarry_ok
    | with_reducible apply State.tmTop_ok
    | with_reducible apply State.tmMatch_ok
    | with_reducible apply Keeps.ite

theorem State.tmIncAt_ok {s₀ s : State} (n : Nat) (k : Nat) (d : Nat) (hK : Keeps s₀ s) : Keeps s₀ (State.tmIncAt s n k d) := by
  unfold State.tmIncAt
  dsimp only
  repeat' first
    | with_reducible assumption
    | with_reducible apply State.tmInc_ok
    | with_reducible apply State.setTimer_ok

theorem tmIncrementStep_ok {s₀ s : State} (n : Nat) (k : Nat) (hK : Keeps s₀ s) : Keeps s₀ (tmIncrementStep n k s) := by
  unfold tmIncrementStep
  repeat' first
    | with_reducible assumption
    | with_reducible apply State.tmIncAt_ok
    | with_reducible apply Keeps.ite
    | split

theorem execTimerIncrement_ok {s₀ s s' : State} (n : Fin 16) (k : Fin 8) (hK : Keeps s₀ s) (e : execTimerIncrement n k s = .next s') : Keeps s₀ s' := by
  unfold execTimerIncrement at e
  rw [← next_inj e]
  repeat' first
    | with_reducible assumption
    | with_reducible apply tmIncrementStep_ok

theorem tmCatch_ok {s₀ : State} (n : Nat) (k : Nat) (t : Nat) : ∀ (z0 : Nat)  {s : State}, Keeps s₀ s → Keeps s₀ (tmCatch n k t z0 s)
  | 0, s, hK => by
    unfold tmCatch
    repeat' first
      | with_reducible assumption
  | z0 + 1, s, hK => by
    unfold tmCatch
    repeat' first
      | with_reducible apply tmCatch_ok
      | with_reducible assumption
      | with_reducible apply State.tmIncAt_ok
      | with_reducible apply Keeps.ite
      | split

theorem State.tmCatchAll_ok {s₀ s : State} (d : Nat) (hK : Keeps s₀ s) : Keeps s₀ (State.tmCatchAll s d) := by
  unfold State.tmCatchAll
  repeat' first
    | intro _
    | with_reducible assumption
    | with_reducible apply tmCatch_ok
    | with_reducible apply iter_ok

theorem State.tmLand_ok {s₀ s : State} (n : Nat) (k : Nat) (hK : Keeps s₀ s) : Keeps s₀ (State.tmLand s n k) := by
  unfold State.tmLand
  repeat' first
    | with_reducible assumption
    | with_reducible apply tmCatch_ok

theorem tmCmpPut_ok {s₀ s0 : State} (n : Nat) (k : Nat) (v : Word) (hK : Keeps s₀ s0) : Keeps s₀ (tmCmpPut n k v s0) := by
  unfold tmCmpPut
  dsimp only
  repeat' first
    | with_reducible assumption
    | with_reducible apply State.tmLand_ok
    | with_reducible apply State.setTimer_ok
    | with_reducible apply Keeps.ite

theorem execTmCmp_ok {s₀ s s' : State} (n : Fin 16) (k : Fin 8) (v : Word) (hK : Keeps s₀ s) (e : execTmCmp n k v s = .next s') : Keeps s₀ s' := by
  unfold execTmCmp at e
  rw [← next_inj e]
  repeat' first
    | intro _
    | with_reducible assumption
    | with_reducible apply State.gate_ok
    | with_reducible apply tmCmpPut_ok

theorem tmCmpNowPut_ok {s₀ s : State} (n : Nat) (k : Nat) (v : Word) (hK : Keeps s₀ s) : Keeps s₀ (tmCmpNowPut n k v s) := by
  unfold tmCmpNowPut
  dsimp only
  repeat' first
    | with_reducible assumption
    | with_reducible apply tmCmpPut_ok
    | with_reducible apply State.tmMatch_ok
    | with_reducible apply Keeps.ite

theorem execTmCmpNow_ok {s₀ s s' : State} (n : Fin 16) (k : Fin 8) (v : Word) (hK : Keeps s₀ s) (e : execTmCmpNow n k v s = .next s') : Keeps s₀ s' := by
  unfold execTmCmpNow at e
  rw [← next_inj e]
  repeat' first
    | intro _
    | with_reducible assumption
    | with_reducible apply State.gate_ok
    | with_reducible apply tmCmpNowPut_ok

theorem tmCountPut_ok {s₀ s0 : State} (n : Nat) (k : Nat) (v : Word) (hK : Keeps s₀ s0) : Keeps s₀ (tmCountPut n k v s0) := by
  unfold tmCountPut
  dsimp only
  repeat' first
    | with_reducible assumption
    | with_reducible apply State.tmLand_ok
    | with_reducible apply State.setTimer_ok
    | with_reducible apply Keeps.ite

theorem execTmCountWrite_ok {s₀ s s' : State} (n : Fin 16) (k : Fin 8) (v : Word) (hK : Keeps s₀ s) (e : execTmCountWrite n k v s = .next s') : Keeps s₀ s' := by
  unfold execTmCountWrite at e
  rw [← next_inj e]
  repeat' first
    | intro _
    | with_reducible assumption
    | with_reducible apply State.gate_ok
    | with_reducible apply tmCountPut_ok

theorem State.tmCountRead_ok {s₀ s : State} (n : Nat) (k : Nat) (hK : Keeps s₀ s) : Keeps s₀ (State.tmCountRead s n k) := by
  unfold State.tmCountRead
  dsimp only
  repeat' first
    | with_reducible assumption
    | with_reducible apply State.setTimer_ok
    | with_reducible apply Keeps.ite

theorem execTmCountRead_ok {s₀ s s' : State} (n : Fin 16) (k : Fin 8) (hK : Keeps s₀ s) (e : execTmCountRead n k s = .next s') : Keeps s₀ s' := by
  unfold execTmCountRead at e
  rw [← next_inj e]
  dsimp only
  repeat' first
    | intro _
    | with_reducible assumption
    | with_reducible apply State.gate_ok
  all_goals try with_reducible apply Keeps.free
  repeat' first
    | with_reducible assumption
    | with_reducible apply State.tmCountRead_ok

theorem State.tmCapture_ok {s₀ s : State} (n : Nat) (k : Nat) (hK : Keeps s₀ s) : Keeps s₀ (State.tmCapture s n k) := by
  unfold State.tmCapture
  dsimp only
  repeat' first
    | with_reducible assumption
    | with_reducible apply State.tmInc_ok
    | with_reducible apply State.setTimer_ok
    | with_reducible apply State.tmEvent_ok
    | with_reducible apply Keeps.ite

theorem State.tmEdge_ok {s₀ s : State} (n : Nat) (k : Nat) (hK : Keeps s₀ s) : Keeps s₀ (State.tmEdge s n k) := by
  unfold State.tmEdge
  dsimp only
  repeat' first
    | with_reducible assumption
    | with_reducible apply State.setTimer_ok
    | with_reducible apply State.tmCapture_ok
    | with_reducible apply Keeps.ite

theorem State.tmSample_ok {s₀ s : State} (n : Nat) (k : Nat) (v : Bool) (hK : Keeps s₀ s) : Keeps s₀ (State.tmSample s n k v) := by
  unfold State.tmSample
  dsimp only
  repeat' first
    | with_reducible assumption
    | with_reducible apply State.setTimer_ok
    | with_reducible apply State.tmEdge_ok
    | with_reducible apply Keeps.ite

theorem captureStep_ok {s₀ s : State} (n : Nat) (k : Nat) (level : Bool) (hK : Keeps s₀ s) : Keeps s₀ (captureStep n k level s) := by
  unfold captureStep
  dsimp only
  repeat' first
    | with_reducible assumption
    | with_reducible apply State.setTimer_ok
    | with_reducible apply State.tmSample_ok
    | with_reducible apply Keeps.ite

theorem execCaptureSample_ok {s₀ s s' : State} (n : Fin 16) (k : Fin 8) (level : Bool) (hK : Keeps s₀ s) (e : execCaptureSample n k level s = .next s') : Keeps s₀ s' := by
  unfold execCaptureSample at e
  rw [← next_inj e]
  repeat' first
    | with_reducible assumption
    | with_reducible apply captureStep_ok

theorem tmCfgWrite_ok {s₀ s : State} (src : Src) (n : Nat) (k : Nat) (v : Word) (hK : Keeps s₀ s) : Keeps s₀ (tmCfgWrite src n k v s) := by
  unfold tmCfgWrite
  dsimp only
  repeat' first
    | with_reducible assumption
    | with_reducible apply stageFields_ok
    | with_reducible apply State.tmLand_ok
    | with_reducible apply State.setReg_ok
    | with_reducible apply State.keepAfter_ok
    | with_reducible apply State.refuse_ok
    | with_reducible apply State.setTimer_ok
    | with_reducible apply State.letGo_ok
    | with_reducible apply Keeps.ite
    | split

theorem execTimerEnable_ok {s₀ s s' : State} (src : Src) (n : Fin 16) (k : Fin 8) (v : Word) (hK : Keeps s₀ s) (e : execTimerEnable src n k v s = .next s') : Keeps s₀ s' := by
  unfold execTimerEnable at e
  rw [← next_inj e]
  repeat' first
    | intro _
    | with_reducible assumption
    | with_reducible apply State.via_ok
    | with_reducible apply State.gate_ok
    | with_reducible apply tmCfgWrite_ok

theorem execTimerDisable_ok {s₀ s s' : State} (src : Src) (n : Fin 16) (k : Fin 8) (v : Word) (hK : Keeps s₀ s) (e : execTimerDisable src n k v s = .next s') : Keeps s₀ s' := by
  unfold execTimerDisable at e
  rw [← next_inj e]
  repeat' first
    | intro _
    | with_reducible assumption
    | with_reducible apply State.via_ok
    | with_reducible apply State.gate_ok
    | with_reducible apply tmCfgWrite_ok

theorem tmStsWrite_ok {s₀ s : State} (n : Nat) (k : Nat) (v : Word) (hK : Keeps s₀ s) : Keeps s₀ (tmStsWrite n k v s) := by
  unfold tmStsWrite
  dsimp only
  repeat' first
    | with_reducible assumption
    | with_reducible apply State.setTimer_ok

theorem State.tbLoRead_ok {s₀ s : State} (q : Nat) (h : Keeps s₀ s) : Keeps s₀ (s.tbLoRead q).2 := h.clkFree

theorem State.tbLoRead_eq {s₀ s s' : State} {q : Nat} {v} (e : s.tbLoRead q = (v, s')) (h : Keeps s₀ s) : Keeps s₀ s' := by
  have := State.tbLoRead_ok q h
  rw [e] at this
  exact this

theorem State.lfLoRead_ok {s₀ s : State} (q : Nat) (h : Keeps s₀ s) : Keeps s₀ (s.lfLoRead q).2 := h.clkFree

theorem State.lfLoRead_eq {s₀ s s' : State} {q : Nat} {v} (e : s.lfLoRead q = (v, s')) (h : Keeps s₀ s) : Keeps s₀ s' := by
  have := State.lfLoRead_ok q h
  rw [e] at this
  exact this

theorem State.answer_ok {s₀ : State} (r : Word × State) (h : Keeps s₀ r.2) : Keeps s₀ (State.answer r) := h.free

theorem execTbLoRead_ok {s₀ s s' : State} (src : Src) (hK : Keeps s₀ s) (e : execTbLoRead src s = .next s') : Keeps s₀ s' := by
  unfold execTbLoRead at e
  rw [← next_inj e]
  repeat' first
    | intro _
    | with_reducible assumption
    | with_reducible apply State.via_ok
    | with_reducible apply State.answer_ok
    | with_reducible apply State.tbLoRead_ok

theorem execLfLoRead_ok {s₀ s s' : State} (src : Src) (hK : Keeps s₀ s) (e : execLfLoRead src s = .next s') : Keeps s₀ s' := by
  unfold execLfLoRead at e
  rw [← next_inj e]
  repeat' first
    | intro _
    | with_reducible assumption
    | with_reducible apply State.via_ok
    | with_reducible apply State.answer_ok
    | with_reducible apply State.lfLoRead_ok

end Sys2Proof.Machine
end

