-- ==== Sys2Proof/Laws/KeepReset.lean ====
section
/-! SUPPORT. The operations of Machine/Reset.lean keep the queue and the invariant: one lemma each, for chains of `Keeps`. -/
namespace Sys2Proof.Machine

theorem State.setClk_gen {s₀ s : State} {c : Clk} (h : Keeps s₀ s)
    (hc : s.clk.tb < 2 ^ 64 ∧ s.clk.lf < 2 ^ 48 ∧ s.clk.acc < 64 → c.tb < 2 ^ 64 ∧ c.lf < 2 ^ 48 ∧ c.acc < 64) :
    Keeps s₀ (s.setClk c) := h.clk hc

theorem State.setClk_ok {s₀ s : State} {lfMode lfDebug lfEntries sleeping sleepDeny sleepAck mainRst backupRst backupEdges pok rstPin vHeld
    cause clks tbSnap lfSnap sensed bootExc tbEdge awaits} (h : Keeps s₀ s) : Keeps s₀ (s.setClk { s.clk with
      lfMode := lfMode, lfDebug := lfDebug, lfEntries := lfEntries, sleeping := sleeping, sleepDeny := sleepDeny, sleepAck := sleepAck
      mainRst := mainRst, backupRst := backupRst, backupEdges := backupEdges, pok := pok, rstPin := rstPin, vHeld := vHeld
      cause := cause, clks := clks, tbSnap := tbSnap, lfSnap := lfSnap, sensed := sensed, bootExc := bootExc, tbEdge := tbEdge, awaits := awaits }) :=
  h.clkFree

theorem State.tornProgram_ok {s₀ s : State} (o : FlashOp) (hK : Keeps s₀ s) : Keeps s₀ (State.tornProgram s o) := by
  unfold State.tornProgram
  dsimp only
  repeat' first
    | with_reducible assumption
    | with_reducible apply State.programDws_ok
    | with_reducible apply State.drawn_ok
    | with_reducible apply State.freeDw_ok
    | with_reducible apply State.flashPut_ok
    | with_reducible apply State.flashWeak_ok
    | with_reducible apply Keeps.ite

theorem State.tornFlash_ok {s₀ s : State} (hK : Keeps s₀ s) : Keeps s₀ (State.tornFlash s) := by
  unfold State.tornFlash
  repeat' first
    | intro _
    | with_reducible assumption
    | with_reducible apply State.tornProgram_ok
    | with_reducible apply State.flashFree_ok
    | with_reducible apply iter_ok
    | with_reducible apply Keeps.ite
    | split

theorem State.tornRing_ok {s₀ s : State} (hK : Keeps s₀ s) : Keeps s₀ (State.tornRing s) := by
  unfold State.tornRing
  repeat' first
    | with_reducible assumption
    | with_reducible apply State.ringPut_ok
    | with_reducible apply State.drawn_ok
    | with_reducible apply State.ringLost_ok
    | with_reducible apply State.flashErase_ok
    | with_reducible apply Keeps.ite
    | split

theorem optFree_ok {s₀ s : State} (i : Nat) (hK : Keeps s₀ s) : Keeps s₀ (optFree i s) :=
  (State.optPut_ok _ _ _ (State.drawn_ok (State.freeDw_ok hK))).upset (tabSet_wf _ _ _ _)

theorem State.tornOption_ok {s₀ s : State} (hK : Keeps s₀ s) : Keeps s₀ (State.tornOption s) := by
  unfold State.tornOption
  repeat' first
    | intro _
    | with_reducible assumption
    | with_reducible apply optFree_ok
    | with_reducible apply iter_ok
    | with_reducible apply Keeps.ite

theorem State.drainAll_ok {s₀ s : State} (n : Nat) (h : Keeps s₀ s) : Keeps s₀ (s.drainAll n) := by
  unfold State.drainAll
  refine iter_ok (fun i t ht => ?_) (State.setCore_ok _ _ (h.mem fun hm => ?_))
  · repeat' first
      | with_reducible assumption
      | with_reducible apply State.memWrite_ok
      | split
  · generalize (s.core n).sb = l
    revert hm
    generalize s.mem = m
    intro hm
    induction l generalizing m with
    | nil => exact hm
    | cons e l ih => exact ih _ (sbPutBytes_wf _ _ _ hm)

theorem State.drainSpans_ok {s₀ s : State} (hK : Keeps s₀ s) : Keeps s₀ (State.drainSpans s) := by
  unfold State.drainSpans
  repeat' first
    | intro _
    | with_reducible assumption
    | with_reducible apply State.drainAll_ok
    | with_reducible apply iter_ok

/-- The empty tables of a reset are canonical. -/

theorem tabWf_nil {α : Type} [DecidableEq α] (d : α) : tabWf d ([] : Tab α) = true := rfl

theorem State.mainReset_ok {s₀ s : State} (cause : Nat) (h : Keeps s₀ s) : Keeps s₀ (s.mainReset cause) := by
  have h1 : Keeps s₀ s.tornFlash.tornRing.tornOption.drainSpans :=
    State.drainSpans_ok (State.tornOption_ok (State.tornRing_ok (State.tornFlash_ok h)))
  unfold State.mainReset
  generalize s.tornFlash.tornRing.tornOption.drainSpans = t at h1
  refine ⟨h1.1, fun i => ?_⟩
  obtain ⟨⟨a, b, c⟩, ⟨_, _, _, _, _, _, _, _, _, _, _, _, _, u⟩, ⟨w1, w2, _, _⟩⟩ := h1.2 i
  refine ⟨⟨?_, b, c⟩, ⟨rfl, rfl, rfl, rfl, rfl, rfl, rfl, rfl, rfl, rfl, rfl, rfl, rfl, tabDrop_wf _ _ _ u⟩, w1, w2, Nat.succ_pos 63, Nat.zero_le 32⟩
  dsimp only
  split
  · exact a
  · rfl

theorem State.resetKey_ok {s₀ s : State} (v : Word) (cause : Nat) (refused : State → State) (hrefused : ∀ x, Keeps s₀ x → Keeps s₀ (refused x)) (hK : Keeps s₀ s) : Keeps s₀ (State.resetKey s v cause refused) := by
  unfold State.resetKey
  repeat' first
    | with_reducible assumption
    | with_reducible apply State.mainReset_ok
    | with_reducible apply hrefused
    | with_reducible apply Keeps.ite

theorem rstCtrlWrite_ok {s₀ s : State} (v : Word) (hK : Keeps s₀ s) : Keeps s₀ (rstCtrlWrite v s) := by
  unfold rstCtrlWrite
  repeat' first
    | intro _
    | with_reducible assumption
    | with_reducible apply State.resetKey_ok
    | with_reducible apply State.offer_ok

theorem execMainResetRequest_ok {s₀ s s' : State} (v : Word) (hK : Keeps s₀ s) (e : execMainResetRequest v s = .next s') : Keeps s₀ s' := by
  unfold execMainResetRequest at e
  rw [← next_inj e]
  repeat' first
    | with_reducible assumption
    | with_reducible apply rstCtrlWrite_ok
    | with_reducible apply Keeps.ite

theorem rstPinStep_ok {s₀ s : State} (hK : Keeps s₀ s) : Keeps s₀ (rstPinStep s) := by
  unfold rstPinStep
  dsimp only
  repeat' first
    | with_reducible assumption
    | with_reducible apply State.mainReset_ok
    | with_reducible apply State.setClk_ok
    | with_reducible apply Keeps.ite

theorem execRstMainN_ok {s₀ s s' : State} (hK : Keeps s₀ s) (e : execRstMainN s = .next s') : Keeps s₀ s' := by
  unfold execRstMainN at e
  rw [← next_inj e]
  repeat' first
    | with_reducible assumption
    | with_reducible apply rstPinStep_ok

theorem backupResetStep_ok {s₀ s : State} (h : Keeps s₀ s) : Keeps s₀ (backupResetStep s) := by
  have h1 := State.mainReset_ok 0 h
  unfold backupResetStep
  generalize s.mainReset 0 = t at h1
  refine ⟨h1.1, fun i => ?_⟩
  obtain ⟨m, r, ⟨a, _, c⟩⟩ := h1.2 i
  exact ⟨m, r, a, Nat.two_pow_pos 48, c⟩

theorem execBackupReset_ok {s₀ s s' : State} (hK : Keeps s₀ s) (e : execBackupReset s = .next s') : Keeps s₀ s' := by
  unfold execBackupReset at e
  rw [← next_inj e]
  repeat' first
    | with_reducible assumption
    | with_reducible apply backupResetStep_ok

theorem pokFallStep_ok {s₀ s : State} (hK : Keeps s₀ s) : Keeps s₀ (pokFallStep s) := by
  unfold pokFallStep
  dsimp only
  repeat' first
    | with_reducible assumption
    | with_reducible apply State.mainReset_ok
    | with_reducible apply State.setClk_ok
    | with_reducible apply Keeps.ite

theorem execMainPokFall_ok {s₀ s s' : State} (hK : Keeps s₀ s) (e : execMainPokFall s = .next s') : Keeps s₀ s' := by
  unfold execMainPokFall at e
  rw [← next_inj e]
  repeat' first
    | with_reducible assumption
    | with_reducible apply pokFallStep_ok

theorem pokRiseStep_ok {s₀ s : State} (h : Keeps s₀ s) : Keeps s₀ (pokRiseStep s) := by
  unfold pokRiseStep
  exact (h.clkFree (pok := true)).free

theorem execMainPokRise_ok {s₀ s s' : State} (hK : Keeps s₀ s) (e : execMainPokRise s = .next s') : Keeps s₀ s' := by
  unfold execMainPokRise at e
  rw [← next_inj e]
  repeat' first
    | with_reducible assumption
    | with_reducible apply pokRiseStep_ok

theorem State.replay_ok {s₀ s : State} (hK : Keeps s₀ s) : Keeps s₀ (State.replay s) := by
  unfold State.replay
  repeat' first
    | intro _
    | with_reducible assumption
    | with_reducible apply State.morWrite_ok
    | with_reducible apply foldl_ok

theorem State.eraseAll_ok {s₀ s : State} (k : Nat) (h : Keeps s₀ s) : Keeps s₀ (s.eraseAll k) := by
  unfold State.eraseAll
  refine State.optPut_ok _ _ _ ?_
  refine ⟨h.1, fun i => ?_⟩
  obtain ⟨⟨_, _, c⟩, ⟨b0, b1, b2, b3, b4, b5, b6, b7, b8, b9, b10, b11, b12, u⟩, w⟩ := h.2 i
  exact ⟨⟨rfl, rfl, tabDrop_wf _ _ _ c⟩, ⟨b0, b1, b2, b3, b4, b5, b6, b7, b8, b9, b10, b11, b12, tabDrop_wf _ _ _ u⟩, w⟩

theorem State.resumeLowering_ok {s₀ s : State} (hK : Keeps s₀ s) : Keeps s₀ (State.resumeLowering s) := by
  unfold State.resumeLowering
  dsimp only
  repeat' first
    | with_reducible assumption
    | with_reducible apply State.eraseAll_ok
    | with_reducible apply State.setClk_ok
    | with_reducible apply Keeps.ite

theorem State.startBoot_ok {s₀ s : State} (h : Keeps s₀ s) : Keeps s₀ s.startBoot := by
  have h1 := Keeps.threads h (tabSet_wf ({} : Thread) s.threads 0 { ({} : Thread) with pc := 0x1F000000, st := .service })
  exact ⟨h1.1, h1.2⟩

theorem leaveRst_ok {s₀ s : State} (n : Nat) (hK : Keeps s₀ s) : Keeps s₀ (leaveRst n s) := by
  unfold leaveRst
  dsimp only
  repeat' first
    | with_reducible assumption
    | with_reducible apply State.setCore_ok

theorem optEccNote_ok {s₀ s : State} (i : Nat) (hK : Keeps s₀ s) : Keeps s₀ (optEccNote s i) := by
  unfold optEccNote
  dsimp only
  repeat' first
    | with_reducible apply State.offer_ok
  all_goals try with_reducible apply Keeps.free
  repeat' first
    | with_reducible assumption

theorem State.loadReports_ok {s₀ s : State} (resumed : Bool) (r : Option Nat × List (Nat × Nat × Nat) × Bool) (hK : Keeps s₀ s) : Keeps s₀ (State.loadReports s resumed r) := by
  unfold State.loadReports
  dsimp only
  repeat' first
    | intro _
    | with_reducible assumption
    | with_reducible apply optEccNote_ok
    | with_reducible apply State.offer_ok
    | with_reducible apply State.cascEntry_ok
    | with_reducible apply foldl_ok
    | with_reducible apply Keeps.ite
    | split

theorem mainReleaseStep_ok {s₀ s : State} (clks : BitVec 12) (vsense : BitVec 16) (h : Keeps s₀ s) : Keeps s₀ (mainReleaseStep clks vsense s) := by
  unfold mainReleaseStep
  split
  · exact h
  · dsimp only
    refine State.startBoot_ok (iter_ok (fun _ _ => leaveRst_ok _) (State.loadReports_ok _ _ ?_))
    refine iter_ok (fun _ _ => State.sendPads_ok _ _ _ _) ?_
    repeat' first
      | with_reducible apply Keeps.ite
      | with_reducible apply State.offer_ok
      | with_reducible apply State.replay_ok
      | with_reducible apply State.morGenesis_ok
      | with_reducible apply State.optionLoad_ok
      | with_reducible apply State.resumeLowering_ok
      | exact State.setClk_gen h fun i => ⟨Nat.mod_lt _ (by decide), i.2.1, Nat.mod_lt _ (by decide)⟩

theorem execMainResetRelease_ok {s₀ s s' : State} (clks : BitVec 12) (vsense : BitVec 16) (hK : Keeps s₀ s) (e : execMainResetRelease clks s vsense = .next s') : Keeps s₀ s' := by
  unfold execMainResetRelease at e
  rw [← next_inj e]
  repeat' first
    | with_reducible assumption
    | with_reducible apply mainReleaseStep_ok

theorem State.dropHash_ok {s₀ s : State} (n : Nat) (hK : Keeps s₀ s) : Keeps s₀ (State.dropHash s n) := by
  unfold State.dropHash
  dsimp only
  repeat' first
    | intro _
    | with_reducible assumption
    | with_reducible apply State.dropBytes_ok
    | with_reducible apply State.endTxns_ok
    | with_reducible apply State.setMeas_ok
    | with_reducible apply foldl_ok
    | with_reducible apply Keeps.ite

theorem State.freeLock_ok {s₀ s : State} (n : Nat) (hK : Keeps s₀ s) : Keeps s₀ (State.freeLock s n) := by
  unfold State.freeLock
  dsimp only
  repeat' first
    | with_reducible assumption
    | with_reducible apply State.setFrz_ok
    | with_reducible apply State.offer_ok
    | with_reducible apply Keeps.ite

theorem State.clearSpan_ok {s₀ s : State} (n : Nat) (h : Keeps s₀ s) : Keeps s₀ (s.clearSpan n) := by
  unfold State.clearSpan
  dsimp only
  refine ⟨h.1, fun i => ?_⟩
  obtain ⟨m, ⟨b0, b1, b2, b3, b4, b5, b6, b7, b8, b9, b10, b11, b12, u⟩, w⟩ := h.2 i
  have c4 := tabSet_wf ({} : Core) s.cores n ((s.core n).reset s.clk.tb) b4
  have c10 := tabSet_wf ({} : Bank) s.banks n (s.bank n).reset b10
  exact ⟨m, ⟨tabDrop_wf _ _ _ b0, b1, b2, b3, c4, tabDrop_wf _ _ _ b5, tabDrop_wf _ _ _ b6, tabMap_wf _ _ _ _ b7,
    tabMap_wf _ _ _ _ b8, tabDrop_wf _ _ _ b9, c10, tabDrop_wf _ _ _ b11, b12, u⟩, w⟩

theorem State.spanReset_ok {s₀ s : State} (n : Nat) (hK : Keeps s₀ s) : Keeps s₀ (State.spanReset s n) := by
  unfold State.spanReset
  dsimp only
  repeat' first
    | with_reducible assumption
    | with_reducible apply State.setCore_ok
    | with_reducible apply State.drainAll_ok
    | with_reducible apply State.dropHash_ok
    | with_reducible apply State.endTxns_ok
    | with_reducible apply State.freeLock_ok
    | with_reducible apply State.clearSpan_ok
    | with_reducible apply State.keepAfter_ok
    | with_reducible apply Keeps.ite

theorem State.askSpanReset_ok {s₀ s : State} (n : Nat) (hK : Keeps s₀ s) : Keeps s₀ (State.askSpanReset s n) := by
  unfold State.askSpanReset
  repeat' first
    | with_reducible assumption
    | with_reducible apply State.mainReset_ok
    | with_reducible apply State.spanReset_ok
    | with_reducible apply Keeps.ite

theorem spanRstWrite_ok {s₀ s : State} (mask : BitVec 16) (hK : Keeps s₀ s) : Keeps s₀ (spanRstWrite mask s) := by
  unfold spanRstWrite
  repeat' first
    | intro _
    | with_reducible assumption
    | with_reducible apply State.mainReset_ok
    | with_reducible apply State.spanReset_ok
    | with_reducible apply iter_ok
    | with_reducible apply Keeps.ite

theorem execSpanResetPulse_ok {s₀ s s' : State} (mask : BitVec 16) (hK : Keeps s₀ s) (e : execSpanResetPulse mask s = .next s') : Keeps s₀ s' := by
  unfold execSpanResetPulse at e
  rw [← next_inj e]
  repeat' first
    | with_reducible assumption
    | with_reducible apply spanRstWrite_ok
    | with_reducible apply Keeps.ite

theorem spanReleaseStep_ok {s₀ s : State} (n : Nat) (hK : Keeps s₀ s) : Keeps s₀ (spanReleaseStep n s) := by
  unfold spanReleaseStep
  dsimp only
  repeat' first
    | intro _
    | with_reducible assumption
    | with_reducible apply leaveRst_ok
    | with_reducible apply startEngine_ok
    | with_reducible apply State.startBoot_ok
    | with_reducible apply iter_ok
    | with_reducible apply Keeps.ite
    | split

theorem execSpanResetRelease_ok {s₀ s s' : State} (n : Fin 16) (hK : Keeps s₀ s) (e : execSpanResetRelease n s = .next s') : Keeps s₀ s' := by
  unfold execSpanResetRelease at e
  rw [← next_inj e]
  repeat' first
    | with_reducible assumption
    | with_reducible apply spanReleaseStep_ok
    | with_reducible apply Keeps.ite

theorem sleepReqStep_ok {s₀ s : State} (hK : Keeps s₀ s) : Keeps s₀ (sleepReqStep s) := by
  unfold sleepReqStep
  dsimp only
  repeat' first
    | with_reducible assumption
    | with_reducible apply State.setClk_ok
    | with_reducible apply Keeps.ite

theorem execSleepReq_ok {s₀ s s' : State} (hK : Keeps s₀ s) (e : execSleepReq s = .next s') : Keeps s₀ s' := by
  unfold execSleepReq at e
  rw [← next_inj e]
  repeat' first
    | with_reducible assumption
    | with_reducible apply sleepReqStep_ok
    | with_reducible apply Keeps.ite

theorem execWake_ok {s₀ s s' : State} (hK : Keeps s₀ s) (e : execWake s = .next s') : Keeps s₀ s' := by
  unfold execWake at e
  rw [← next_inj e]
  repeat' first
    | with_reducible assumption
    | with_reducible apply State.endSleep_ok
    | with_reducible apply Keeps.ite

theorem Clk.edge_wf (c : Clk) : c.tb < 2 ^ 64 ∧ c.lf < 2 ^ 48 ∧ c.acc < 64 → c.edge.tb < 2 ^ 64 ∧ c.edge.lf < 2 ^ 48 ∧ c.edge.acc < 64 :=
  fun i => ⟨i.1, Nat.mod_lt _ (by decide), Nat.mod_lt _ (by decide)⟩

theorem lfEdgeStep_ok {s₀ s : State} (clks : BitVec 12) (h : Keeps s₀ s) : Keeps s₀ (lfEdgeStep clks s) := by
  unfold lfEdgeStep
  dsimp only
  split
  · exact State.setClk_gen h id
  · split
    · exact State.setClk_gen h fun i => ⟨i.1, Nat.mod_lt _ (by decide), i.2.2⟩
    · split
      · exact h
      · exact State.setClk_gen h (Clk.edge_wf _)

theorem execLfEdge_ok {s₀ s s' : State} (clks : BitVec 12) (hK : Keeps s₀ s) (e : execLfEdge s clks = .next s') : Keeps s₀ s' := by
  unfold execLfEdge at e
  rw [← next_inj e]
  repeat' first
    | with_reducible assumption
    | with_reducible apply lfEdgeStep_ok

theorem State.setTimeOk_clk (s : State) (v : Bool) : (s.setTimeOk v).clk = s.clk := by
  unfold State.setTimeOk State.offer State.offerEntry
  split
  · rfl
  · dsimp only
    split <;> rfl

theorem lfEntryStep_ok {s₀ s : State} (clks : BitVec 12) (h : Keeps s₀ s) : Keeps s₀ (lfEntryStep clks s) := by
  unfold lfEntryStep
  split
  · exact h
  · exact State.setClk_gen (State.setTimeOk_ok _ h) fun i => by
      rw [State.setTimeOk_clk] at i
      exact Clk.edge_wf _ i

theorem execLfModeEntry_ok {s₀ s s' : State} (clks : BitVec 12) (hK : Keeps s₀ s) (e : execLfModeEntry s clks = .next s') : Keeps s₀ s' := by
  unfold execLfModeEntry at e
  rw [← next_inj e]
  repeat' first
    | with_reducible assumption
    | with_reducible apply lfEntryStep_ok

theorem State.lfAdvance_ok {s₀ s : State} (clks : BitVec 12) (h : Keeps s₀ s) : Keeps s₀ (s.lfAdvance clks) := by
  unfold State.lfAdvance
  exact State.tmCatchAll_ok _ (State.setClk_gen h fun i => ⟨Nat.mod_lt _ (by decide), (Clk.edge_wf _ i).2⟩)

theorem lfStep_ok {s₀ s : State} (clks : BitVec 12) (hK : Keeps s₀ s) : Keeps s₀ (lfStep clks s) := by
  unfold lfStep
  repeat' first
    | with_reducible assumption
    | with_reducible apply State.lfAdvance_ok
    | with_reducible apply Keeps.ite

theorem execLfModeStep_ok {s₀ s s' : State} (clks : BitVec 12) (hK : Keeps s₀ s) (e : execLfModeStep s clks = .next s') : Keeps s₀ s' := by
  unfold execLfModeStep at e
  rw [← next_inj e]
  repeat' first
    | with_reducible assumption
    | with_reducible apply lfStep_ok

theorem skipSteps_ok {s₀ s : State} (n : Nat) (e : Nat) (hK : Keeps s₀ s) : Keeps s₀ (skipSteps n e s) := by
  unfold skipSteps
  dsimp only
  repeat' first
    | with_reducible assumption
    | with_reducible apply State.setEngine_ok
    | with_reducible apply Keeps.ite

theorem lateQueues_ok {s₀ s : State} (k : Nat) (hK : Keeps s₀ s) : Keeps s₀ (lateQueues k s) := by
  unfold lateQueues
  dsimp only
  repeat' first
    | with_reducible assumption
    | with_reducible apply State.setPort_ok
    | with_reducible apply Keeps.ite

theorem State.clearHist_ok {s₀ s : State} (h : Keeps s₀ s) : Keeps s₀ s.clearHist := h.timers (tabMap_wf _ _ _ _)

theorem State.skipAll_ok {s₀ s : State} (hK : Keeps s₀ s) : Keeps s₀ (State.skipAll s) := by
  unfold State.skipAll
  repeat' first
    | intro _
    | with_reducible assumption
    | with_reducible apply skipSteps_ok
    | with_reducible apply iter_ok

theorem State.endDevHalt_ok {s₀ s : State} (hK : Keeps s₀ s) : Keeps s₀ (State.endDevHalt s) := by
  unfold State.endDevHalt
  dsimp only
  repeat' first
    | with_reducible apply State.dbgEnd_ok
  all_goals try with_reducible apply Keeps.free
  repeat' first
    | intro _
    | with_reducible assumption
    | with_reducible apply lateQueues_ok
    | with_reducible apply iter_ok

theorem State.leaveLf_ok {s₀ s : State} (hK : Keeps s₀ s) : Keeps s₀ (State.leaveLf s) := by
  unfold State.leaveLf
  dsimp only
  repeat' first
    | with_reducible assumption
    | with_reducible apply State.setClk_ok
    | with_reducible apply State.skipAll_ok
    | with_reducible apply State.clearHist_ok
    | with_reducible apply State.endDevHalt_ok
    | with_reducible apply Keeps.ite

theorem lfExitStep_ok {s₀ s : State} (clks : BitVec 12) (hK : Keeps s₀ s) : Keeps s₀ (lfExitStep clks s) := by
  unfold lfExitStep
  repeat' first
    | with_reducible assumption
    | with_reducible apply State.lfAdvance_ok
    | with_reducible apply State.leaveLf_ok
    | with_reducible apply Keeps.ite

theorem execLfModeExit_ok {s₀ s s' : State} (clks : BitVec 12) (hK : Keeps s₀ s) (e : execLfModeExit s clks = .next s') : Keeps s₀ s' := by
  unfold execLfModeExit at e
  rw [← next_inj e]
  repeat' first
    | with_reducible assumption
    | with_reducible apply lfExitStep_ok

end Sys2Proof.Machine
end

