-- ==== Sys2Proof/Laws/KeepAlarm.lean ====
section
/-! SUPPORT. The operations of Machine/Alarm.lean keep the queue and the invariant: one lemma each, for chains of `Keeps`. -/
namespace Sys2Proof.Machine

theorem State.setAlm_ok {s₀ s : State} (a : Alm) (hK : Keeps s₀ s) : Keeps s₀ (State.setAlm s a) := by
  unfold State.setAlm
  all_goals try with_reducible apply Keeps.free
  repeat' first
    | with_reducible assumption

theorem State.setAlarm_ok {s₀ s : State} (k : Nat) (a : Alarm) (hK : Keeps s₀ s) : Keeps s₀ (State.setAlarm s k a) := by
  unfold State.setAlarm
  dsimp only
  repeat' first
    | with_reducible assumption
    | with_reducible apply State.setAlm_ok

theorem State.setBk_ok {s₀ s : State} (b : Bkup) (hK : Keeps s₀ s) : Keeps s₀ (State.setBk s b) := by
  unfold State.setBk
  all_goals try with_reducible apply Keeps.free
  repeat' first
    | with_reducible assumption

theorem backupWriteStep_ok {s₀ s : State} (hK : Keeps s₀ s) : Keeps s₀ (backupWriteStep s) := by
  unfold backupWriteStep
  dsimp only
  repeat' first
    | with_reducible assumption
    | with_reducible apply State.setBk_ok
    | split

theorem execBackupRingWrite_ok {s₀ s s' : State} (hK : Keeps s₀ s) (e : execBackupRingWrite s = .next s') : Keeps s₀ s' := by
  unfold execBackupRingWrite at e
  rw [← next_inj e]
  repeat' first
    | with_reducible assumption
    | with_reducible apply backupWriteStep_ok
    | with_reducible apply Keeps.ite

theorem bkAckWrite_ok {s₀ s : State} (v : Word) (hK : Keeps s₀ s) : Keeps s₀ (bkAckWrite v s) := by
  unfold bkAckWrite
  dsimp only
  repeat' first
    | with_reducible assumption
    | with_reducible apply State.setBk_ok

theorem execBkAck_ok {s₀ s s' : State} (v : Word) (hK : Keeps s₀ s) (e : execBkAck v s = .next s') : Keeps s₀ s' := by
  unfold execBkAck at e
  rw [← next_inj e]
  repeat' first
    | with_reducible assumption
    | with_reducible apply bkAckWrite_ok
    | with_reducible apply Keeps.ite

theorem wipeSpan_ok {s₀ s : State} (all : Bool) (n : Nat) (h : Keeps s₀ s) : Keeps s₀ (wipeSpan all n s) := by
  unfold wipeSpan
  dsimp only
  refine ⟨h.1, fun i => ?_⟩
  obtain ⟨⟨a, b, c⟩, ⟨b0, b1, b2, b3, b4, b5, b6, b7, b8, b9, b10, b11, b12, u⟩, w⟩ := h.2 i
  exact ⟨⟨tabDrop_wf _ _ _ a, b, c⟩, ⟨b0, b1, b2, b3, by exact tabSet_wf _ _ _ _ b4, b5, b6, b7, b8, b9, b10, b11, b12, tabDrop_wf _ _ _ u⟩, w⟩

theorem State.abandonSign_ok {s₀ s : State} (hK : Keeps s₀ s) : Keeps s₀ (State.abandonSign s) := by
  unfold State.abandonSign
  repeat' first
    | with_reducible assumption
    | with_reducible apply State.signLoss_ok
    | with_reducible apply Keeps.ite
    | split

theorem State.clearKeys_ok {s₀ s : State} (hK : Keeps s₀ s) : Keeps s₀ (State.clearKeys s) := by
  unfold State.clearKeys
  dsimp only
  repeat' first
    | with_reducible assumption
    | with_reducible apply State.abandonSign_ok
    | with_reducible apply State.setAlm_ok

theorem State.avalanche_ok {s₀ s : State} (l : Nat) (all : Bool) (begun : Bool) (hK : Keeps s₀ s) : Keeps s₀ (State.avalanche s l all begun) := by
  unfold State.avalanche
  dsimp only
  repeat' first
    | intro _
    | with_reducible assumption
    | with_reducible apply State.clearKeys_ok
    | with_reducible apply State.setAlm_ok
    | with_reducible apply wipeSpan_ok
    | with_reducible apply iter_ok
    | with_reducible apply Keeps.ite

theorem wipeLoss_ok {s₀ s : State} (n : Nat) (hK : Keeps s₀ s) : Keeps s₀ (wipeLoss n s) := by
  unfold wipeLoss
  dsimp only
  repeat' first
    | with_reducible assumption
    | with_reducible apply State.offerEntry_ok
    | with_reducible apply State.setCore_ok
    | split

theorem wipeDoneStep_ok {s₀ s : State} (hK : Keeps s₀ s) : Keeps s₀ (wipeDoneStep s) := by
  unfold wipeDoneStep
  dsimp only
  repeat' first
    | intro _
    | with_reducible assumption
    | with_reducible apply wipeLoss_ok
    | with_reducible apply State.setAlm_ok
    | with_reducible apply State.offer_ok
    | with_reducible apply State.mainReset_ok
    | with_reducible apply iter_ok
    | with_reducible apply Keeps.ite
    | split

theorem execWipeDone_ok {s₀ s s' : State} (hK : Keeps s₀ s) (e : execWipeDone s = .next s') : Keeps s₀ s' := by
  unfold execWipeDone at e
  rw [← next_inj e]
  repeat' first
    | with_reducible assumption
    | with_reducible apply wipeDoneStep_ok
    | with_reducible apply Keeps.ite

theorem keyEraseStep_ok {s₀ s : State} (hK : Keeps s₀ s) : Keeps s₀ (keyEraseStep s) := by
  unfold keyEraseStep
  dsimp only
  repeat' first
    | with_reducible assumption
    | with_reducible apply State.setAlm_ok
    | with_reducible apply Keeps.ite
    | split

theorem execKeyEraseEnd_ok {s₀ s s' : State} (hK : Keeps s₀ s) (e : execKeyEraseEnd s = .next s') : Keeps s₀ s' := by
  unfold execKeyEraseEnd at e
  rw [← next_inj e]
  repeat' first
    | with_reducible assumption
    | with_reducible apply keyEraseStep_ok

theorem alarmEvent_ok {s₀ s : State} (k : Nat) (g : Nat) (hK : Keeps s₀ s) : Keeps s₀ (alarmEvent k g s) := by
  unfold alarmEvent
  dsimp only
  repeat' first
    | with_reducible assumption
    | with_reducible apply State.setThr_ok
    | with_reducible apply State.raiseEv_ok

theorem State.notifyAll_ok {s₀ s : State} (k : Nat) (hK : Keeps s₀ s) : Keeps s₀ (State.notifyAll s k) := by
  unfold State.notifyAll
  repeat' first
    | intro _
    | with_reducible assumption
    | with_reducible apply alarmEvent_ok
    | with_reducible apply iter_ok
    | with_reducible apply Keeps.ite

theorem haltOne_ok {s₀ s : State} (g : Nat) (hK : Keeps s₀ s) : Keeps s₀ (haltOne g s) := by
  unfold haltOne
  dsimp only
  repeat' first
    | with_reducible assumption
    | with_reducible apply State.stopThr_ok
    | with_reducible apply State.setThr_ok
    | with_reducible apply Keeps.ite

theorem State.respond_ok {s₀ s : State} (k : Nat) (l : Nat) (mask : BitVec 4) (hK : Keeps s₀ s) : Keeps s₀ (State.respond s k l mask) := by
  unfold State.respond
  dsimp only
  repeat' first
    | intro _
    | with_reducible assumption
    | with_reducible apply State.notifyAll_ok
    | with_reducible apply haltOne_ok
    | with_reducible apply State.avalanche_ok
    | with_reducible apply iter_ok
    | with_reducible apply Keeps.ite

theorem State.latchAlarm_ok {s₀ s : State} (k : Nat) (hK : Keeps s₀ s) : Keeps s₀ (State.latchAlarm s k) := by
  unfold State.latchAlarm
  dsimp only
  repeat' first
    | with_reducible assumption
    | with_reducible apply State.setAlarm_ok
    | with_reducible apply State.setBk_ok
    | with_reducible apply State.offerAt_ok
    | with_reducible apply State.endSleep_ok
    | with_reducible apply State.respond_ok

theorem filterSample_ok {s₀ s : State} (k : Nat) (ev : Bool) (hK : Keeps s₀ s) : Keeps s₀ (filterSample k ev s) := by
  unfold filterSample
  dsimp only
  repeat' first
    | with_reducible assumption
    | with_reducible apply State.setAlarm_ok
    | with_reducible apply State.latchAlarm_ok
    | with_reducible apply Keeps.ite

theorem sampleOne_ok {s₀ s : State} (levels : BitVec 8) (k : Nat) (hK : Keeps s₀ s) : Keeps s₀ (sampleOne levels k s) := by
  unfold sampleOne
  dsimp only
  repeat' first
    | with_reducible assumption
    | with_reducible apply State.setAlarm_ok
    | with_reducible apply filterSample_ok
    | with_reducible apply Keeps.ite

theorem alarmSampleStep_ok {s₀ s : State} (levels : BitVec 8) (hK : Keeps s₀ s) : Keeps s₀ (alarmSampleStep levels s) := by
  unfold alarmSampleStep
  dsimp only
  repeat' first
    | intro _
    | with_reducible assumption
    | with_reducible apply sampleOne_ok
    | with_reducible apply State.setAlm_ok
    | with_reducible apply iter_ok
    | with_reducible apply Keeps.ite

theorem execAlarmSample_ok {s₀ s s' : State} (levels : BitVec 8) (hK : Keeps s₀ s) (e : execAlarmSample levels s = .next s') : Keeps s₀ s' := by
  unfold execAlarmSample at e
  rw [← next_inj e]
  repeat' first
    | with_reducible assumption
    | with_reducible apply alarmSampleStep_ok

theorem alarmClearStep_ok {s₀ s : State} (k : Nat) (hK : Keeps s₀ s) : Keeps s₀ (alarmClearStep k s) := by
  unfold alarmClearStep
  dsimp only
  repeat' first
    | with_reducible assumption
    | with_reducible apply State.setAlarm_ok

theorem execAlarmClear_ok {s₀ s s' : State} (k : Fin 8) (hK : Keeps s₀ s) (e : execAlarmClear k s = .next s') : Keeps s₀ s' := by
  unfold execAlarmClear at e
  rw [← next_inj e]
  repeat' first
    | with_reducible assumption
    | with_reducible apply alarmClearStep_ok
    | with_reducible apply Keeps.ite

theorem almTestWrite_ok {s₀ s : State} (v : Word) (hK : Keeps s₀ s) : Keeps s₀ (almTestWrite v s) := by
  unfold almTestWrite
  dsimp only
  repeat' first
    | with_reducible assumption
    | with_reducible apply State.setReg_ok
    | with_reducible apply State.setAlarm_ok
    | with_reducible apply State.setAlm_ok
    | with_reducible apply Keeps.ite

theorem execAlarmTest_ok {s₀ s s' : State} (v : Word) (hK : Keeps s₀ s) (e : execAlarmTest v s = .next s') : Keeps s₀ s' := by
  unfold execAlarmTest at e
  rw [← next_inj e]
  repeat' first
    | with_reducible assumption
    | with_reducible apply almTestWrite_ok
    | with_reducible apply Keeps.ite

theorem almTestEndStep_ok {s₀ s : State} (hK : Keeps s₀ s) : Keeps s₀ (almTestEndStep s) := by
  unfold almTestEndStep
  dsimp only
  repeat' first
    | with_reducible assumption
    | with_reducible apply State.setAlarm_ok
    | with_reducible apply State.setAlm_ok
    | with_reducible apply State.offer_ok
    | with_reducible apply Keeps.ite
    | split

theorem execAlarmTestEnd_ok {s₀ s s' : State} (hK : Keeps s₀ s) (e : execAlarmTestEnd s = .next s') : Keeps s₀ s' := by
  unfold execAlarmTestEnd at e
  rw [← next_inj e]
  repeat' first
    | with_reducible assumption
    | with_reducible apply almTestEndStep_ok
    | with_reducible apply Keeps.ite

theorem almCfgWrite_ok {s₀ s : State} (src : Src) (off : Nat) (v : Word) (hK : Keeps s₀ s) : Keeps s₀ (almCfgWrite src off v s) := by
  unfold almCfgWrite
  repeat' first
    | with_reducible assumption
    | with_reducible apply State.offer_ok
    | with_reducible apply State.plainWrite_ok
    | with_reducible apply Keeps.ite

theorem State.backupLatch_ok {s₀ s : State} (k : Nat) (hK : Keeps s₀ s) : Keeps s₀ (State.backupLatch s k) := by
  unfold State.backupLatch
  dsimp only
  repeat' first
    | with_reducible assumption
    | with_reducible apply State.drawn_ok
    | with_reducible apply State.setBk_ok
    | with_reducible apply State.setAlm_ok

theorem backupSampleStep_ok {s₀ s : State} (levels : BitVec 8) (hK : Keeps s₀ s) : Keeps s₀ (backupSampleStep levels s) := by
  unfold backupSampleStep
  dsimp only
  repeat' first
    | intro _
    | with_reducible assumption
    | with_reducible apply State.backupLatch_ok
    | with_reducible apply State.setBk_ok
    | with_reducible apply iter_ok
    | with_reducible apply Keeps.ite

theorem execBackupAlarmSample_ok {s₀ s s' : State} (levels : BitVec 8) (hK : Keeps s₀ s) (e : execBackupAlarmSample levels s = .next s') : Keeps s₀ s' := by
  unfold execBackupAlarmSample at e
  rw [← next_inj e]
  repeat' first
    | with_reducible assumption
    | with_reducible apply backupSampleStep_ok

end Sys2Proof.Machine
end

