-- ==== Sys2Proof/Laws/KeepCascFreeze.lean ====
section
/-! SUPPORT. The operations of Machine/CascFreeze.lean keep the queue and the invariant: one lemma each, for chains of `Keeps`. -/
namespace Sys2Proof.Machine

theorem State.sendCf_ok {s₀ s : State} (p : Nat) (sub : Nat) (yes : Bool) (z : CFrz) (tick : Nat) (node : Nat) (code : Nat) (hK : Keeps s₀ s) : Keeps s₀ (State.sendCf s p sub yes z tick node code) := by
  unfold State.sendCf
  repeat' first
    | with_reducible assumption
    | with_reducible apply State.enqueue_ok

theorem State.cfDown_ok {s₀ s : State} (sub : Nat) (z : CFrz) (tick : Nat) (node : Nat) (code : Nat) (hK : Keeps s₀ s) : Keeps s₀ (State.cfDown s sub z tick node code) := by
  unfold State.cfDown
  repeat' first
    | intro _
    | with_reducible assumption
    | with_reducible apply State.sendCf_ok
    | with_reducible apply foldl_ok

theorem State.setCf_ok {s₀ s : State} (z : CFrz) (hK : Keeps s₀ s) : Keeps s₀ (State.setCf s z) := by
  unfold State.setCf
  dsimp only
  repeat' first
    | with_reducible assumption
    | with_reducible apply State.setCasc_ok

theorem State.cascAbortHere_ok {s₀ s : State} (z : CFrz) (code : Nat) (node : Nat) (hK : Keeps s₀ s) : Keeps s₀ (State.cascAbortHere s z code node) := by
  unfold State.cascAbortHere
  dsimp only
  repeat' first
    | with_reducible assumption
    | with_reducible apply State.setCasc_ok
    | with_reducible apply State.frzAbort_ok
    | with_reducible apply State.cascEntry_ok
    | with_reducible apply State.setReg_ok

theorem State.cascAbort_ok {s₀ s : State} (z : CFrz) (code : Nat) (node : Nat) (hK : Keeps s₀ s) : Keeps s₀ (State.cascAbort s z code node) := by
  unfold State.cascAbort
  repeat' first
    | with_reducible assumption
    | with_reducible apply State.cfDown_ok
    | with_reducible apply State.cascAbortHere_ok

theorem State.cascCommit_ok {s₀ s : State} (z : CFrz) (f : Nat) (hK : Keeps s₀ s) : Keeps s₀ (State.cascCommit s z f) := by
  unfold State.cascCommit
  repeat' first
    | with_reducible assumption
    | with_reducible apply State.cfDown_ok
    | with_reducible apply State.frzArm_ok

theorem State.cascAllYes_ok {s₀ s : State} (z : CFrz) (hK : Keeps s₀ s) : Keeps s₀ (State.cascAllYes s z) := by
  unfold State.cascAllYes
  dsimp only
  repeat' first
    | with_reducible assumption
    | with_reducible apply State.setCf_ok
    | with_reducible apply State.cfDown_ok
    | with_reducible apply State.setFrz_ok
    | with_reducible apply State.cascAbort_ok
    | with_reducible apply State.cascCommit_ok
    | with_reducible apply Keeps.ite

theorem State.cascVotes_ok {s₀ s : State} (z : CFrz) (hK : Keeps s₀ s) : Keeps s₀ (State.cascVotes s z) := by
  unfold State.cascVotes
  dsimp only
  repeat' first
    | with_reducible assumption
    | with_reducible apply State.cascAbort_ok
    | with_reducible apply State.cascAllYes_ok
    | with_reducible apply State.setCf_ok
    | with_reducible apply State.sendCf_ok
    | with_reducible apply Keeps.ite
    | split

theorem State.cascStart_ok {s₀ s : State} (hK : Keeps s₀ s) : Keeps s₀ (State.cascStart s) := by
  unfold State.cascStart
  dsimp only
  repeat' first
    | with_reducible assumption
    | with_reducible apply State.setCasc_ok
    | with_reducible apply State.setFrz_ok
    | with_reducible apply State.cfDown_ok
    | with_reducible apply State.cascVotes_ok

theorem cfPrepare_ok {s₀ start : State} (p : Nat) (f : Frame) (hK : Keeps s₀ start) : Keeps s₀ (cfPrepare p f start) := by
  unfold cfPrepare
  dsimp only
  repeat' first
    | with_reducible assumption
    | with_reducible apply State.readStaged_ok
    | with_reducible apply State.sendCf_ok
    | with_reducible apply State.setCasc_ok
    | with_reducible apply State.setFrz_ok
    | with_reducible apply State.cfDown_ok
    | with_reducible apply State.cascVotes_ok
    | with_reducible apply Keeps.ite

theorem cfVote_ok {s₀ s : State} (p : Nat) (f : Frame) (hK : Keeps s₀ s) : Keeps s₀ (cfVote p f s) := by
  unfold cfVote
  dsimp only
  repeat' first
    | with_reducible assumption
    | with_reducible apply State.cascAbort_ok
    | with_reducible apply State.setCf_ok
    | with_reducible apply State.setCasc_ok
    | with_reducible apply State.cascVotes_ok
    | with_reducible apply Keeps.ite
    | split

theorem State.cascDrains_ok {s₀ s : State} (z : CFrz) (hK : Keeps s₀ s) : Keeps s₀ (State.cascDrains s z) := by
  unfold State.cascDrains
  dsimp only
  repeat' first
    | with_reducible assumption
    | with_reducible apply State.cascAbort_ok
    | with_reducible apply State.cascCommit_ok
    | with_reducible apply State.sendCf_ok
    | with_reducible apply Keeps.ite
    | split

theorem cfDrain_ok {s₀ s : State} (f : Frame) (hK : Keeps s₀ s) : Keeps s₀ (cfDrain f s) := by
  unfold cfDrain
  dsimp only
  repeat' first
    | with_reducible assumption
    | with_reducible apply State.setCf_ok
    | with_reducible apply State.cfDown_ok
    | split

theorem cfDrained_ok {s₀ s : State} (p : Nat) (f : Frame) (hK : Keeps s₀ s) : Keeps s₀ (cfDrained p f s) := by
  unfold cfDrained
  dsimp only
  repeat' first
    | with_reducible assumption
    | with_reducible apply State.cascAbort_ok
    | with_reducible apply State.setCf_ok
    | with_reducible apply State.cascDrains_ok
    | with_reducible apply Keeps.ite
    | split

theorem cfCommit_ok {s₀ s : State} (f : Frame) (hK : Keeps s₀ s) : Keeps s₀ (cfCommit f s) := by
  unfold cfCommit
  dsimp only
  repeat' first
    | with_reducible assumption
    | with_reducible apply State.cfDown_ok
    | with_reducible apply State.frzArm_ok
    | with_reducible apply State.cascEntry_ok
    | with_reducible apply Keeps.ite
    | split

theorem cfAbort_ok {s₀ s : State} (f : Frame) (hK : Keeps s₀ s) : Keeps s₀ (cfAbort f s) := by
  unfold cfAbort
  repeat' first
    | with_reducible assumption
    | with_reducible apply State.cascAbort_ok
    | split

theorem cfVoteLimit_ok {s₀ s : State} (hK : Keeps s₀ s) : Keeps s₀ (cfVoteLimit s) := by
  unfold cfVoteLimit
  repeat' first
    | with_reducible assumption
    | with_reducible apply State.cascAbort_ok
    | with_reducible apply Keeps.ite
    | split

theorem cfOrphan_ok {s₀ s : State} (hK : Keeps s₀ s) : Keeps s₀ (cfOrphan s) := by
  unfold cfOrphan
  dsimp only
  repeat' first
    | with_reducible assumption
    | with_reducible apply State.cascAbortHere_ok
    | with_reducible apply State.cascEntry_ok
    | with_reducible apply State.setCasc_ok
    | with_reducible apply Keeps.ite
    | split

theorem cfOwnDrained_ok {s₀ s : State} (z : CFrz) (hK : Keeps s₀ s) : Keeps s₀ (cfOwnDrained z s) := by
  unfold cfOwnDrained
  dsimp only
  repeat' first
    | with_reducible assumption
    | with_reducible apply State.setCf_ok
    | with_reducible apply State.cascDrains_ok
    | with_reducible apply Keeps.ite

theorem cfOwnFailed_ok {s₀ s : State} (z : CFrz) (hK : Keeps s₀ s) : Keeps s₀ (cfOwnFailed z s) := by
  unfold cfOwnFailed
  dsimp only
  repeat' first
    | with_reducible assumption
    | with_reducible apply State.setCf_ok
    | with_reducible apply State.cascDrains_ok
    | with_reducible apply Keeps.ite

end Sys2Proof.Machine
end

