-- ==== Sys2Proof/Laws/KeepFreeze.lean ====
section
/-! SUPPORT. The operations of Machine/Freeze.lean keep the queue and the invariant: one lemma each, for chains of `Keeps`. -/
namespace Sys2Proof.Machine

theorem State.startDiscard_ok {s₀ s : State} (hK : Keeps s₀ s) : Keeps s₀ (State.startDiscard s) := by
  unfold State.startDiscard
  dsimp only
  all_goals try with_reducible apply Keeps.free
  repeat' first
    | with_reducible assumption
    | with_reducible apply State.setFrz_ok

theorem State.startCheck_ok {s₀ s : State} (src : Src) (v : Word) (hK : Keeps s₀ s) : Keeps s₀ (State.startCheck s src v) := by
  unfold State.startCheck
  dsimp only
  repeat' first
    | with_reducible assumption
    | with_reducible apply State.setFrz_ok

theorem frzCtlWrite_ok {s₀ s : State} (src : Src) (v : Word) (hK : Keeps s₀ s) : Keeps s₀ (frzCtlWrite src v s) := by
  unfold frzCtlWrite
  dsimp only
  repeat' first
    | with_reducible assumption
    | with_reducible apply State.setFrz_ok
    | with_reducible apply State.refuse_ok
    | with_reducible apply State.startDiscard_ok
    | with_reducible apply State.startCheck_ok
    | with_reducible apply Keeps.ite
    | split

theorem execFreezeCheck_ok {s₀ s s' : State} (src : Src) (v : Word) (hK : Keeps s₀ s) (e : execFreezeCheck src v s = .next s') : Keeps s₀ s' := by
  unfold execFreezeCheck at e
  rw [← next_inj e]
  repeat' first
    | intro _
    | with_reducible assumption
    | with_reducible apply State.via_ok
    | with_reducible apply frzCtlWrite_ok

theorem execFreezeCommit_ok {s₀ s s' : State} (src : Src) (v : Word) (hK : Keeps s₀ s) (e : execFreezeCommit src v s = .next s') : Keeps s₀ s' := by
  unfold execFreezeCommit at e
  rw [← next_inj e]
  repeat' first
    | intro _
    | with_reducible assumption
    | with_reducible apply State.via_ok
    | with_reducible apply frzCtlWrite_ok

theorem execFreezeDiscard_ok {s₀ s s' : State} (src : Src) (v : Word) (hK : Keeps s₀ s) (e : execFreezeDiscard src v s = .next s') : Keeps s₀ s' := by
  unfold execFreezeDiscard at e
  rw [← next_inj e]
  repeat' first
    | intro _
    | with_reducible assumption
    | with_reducible apply State.via_ok
    | with_reducible apply frzCtlWrite_ok

theorem State.frzGo_ok {s₀ s : State} (hK : Keeps s₀ s) : Keeps s₀ (State.frzGo s) := by
  unfold State.frzGo
  repeat' first
    | with_reducible assumption
    | with_reducible apply State.cascStart_ok
    | with_reducible apply State.frzChoose_ok
    | with_reducible apply Keeps.ite

theorem checkDoneStep_ok {s₀ start : State} (hK : Keeps s₀ start) : Keeps s₀ (checkDoneStep start) := by
  unfold checkDoneStep
  dsimp only
  repeat' first
    | with_reducible assumption
    | with_reducible apply State.readStaged_ok
    | with_reducible apply State.frzCheckFail_ok
    | with_reducible apply State.frzEnd_ok
    | with_reducible apply State.frzGo_ok
    | with_reducible apply State.frzAbort_ok
    | with_reducible apply State.setFrz_ok
    | with_reducible apply Keeps.ite
    | split

theorem execCheckDone_ok {s₀ s s' : State} (hK : Keeps s₀ s) (e : execCheckDone s = .next s') : Keeps s₀ s' := by
  unfold execCheckDone at e
  rw [← next_inj e]
  repeat' first
    | with_reducible assumption
    | with_reducible apply checkDoneStep_ok
    | with_reducible apply Keeps.ite

theorem persistDoneStep_ok {s₀ s : State} (ok : Bool) (hK : Keeps s₀ s) : Keeps s₀ (persistDoneStep ok s) := by
  unfold persistDoneStep
  dsimp only
  repeat' first
    | intro _
    | with_reducible assumption
    | with_reducible apply chargeOne_ok
    | with_reducible apply State.frzChoose_ok
    | with_reducible apply State.setFrz_ok
    | with_reducible apply State.frzAbort_ok
    | with_reducible apply foldl_ok
    | with_reducible apply Keeps.ite

theorem execPersistDone_ok {s₀ s s' : State} (ok : Bool) (hK : Keeps s₀ s) (e : execPersistDone ok s = .next s') : Keeps s₀ s' := by
  unfold execPersistDone at e
  rw [← next_inj e]
  repeat' first
    | with_reducible assumption
    | with_reducible apply persistDoneStep_ok
    | with_reducible apply Keeps.ite

theorem freezeApplyStep_ok {s₀ s : State} (hK : Keeps s₀ s) : Keeps s₀ (freezeApplyStep s) := by
  unfold freezeApplyStep
  dsimp only
  repeat' first
    | with_reducible assumption
    | with_reducible apply State.setFrz_ok
    | with_reducible apply State.frzApply_ok
    | with_reducible apply Keeps.ite

theorem execFreezeApply_ok {s₀ s s' : State} (hK : Keeps s₀ s) (e : execFreezeApply s = .next s') : Keeps s₀ s' := by
  unfold execFreezeApply at e
  rw [← next_inj e]
  repeat' first
    | with_reducible assumption
    | with_reducible apply freezeApplyStep_ok
    | with_reducible apply Keeps.ite

theorem drainDoneStep_ok {s₀ s : State} (hK : Keeps s₀ s) : Keeps s₀ (drainDoneStep s) := by
  unfold drainDoneStep
  repeat' first
    | with_reducible assumption
    | with_reducible apply cfOwnDrained_ok
    | with_reducible apply State.frzApply_ok
    | with_reducible apply Keeps.ite
    | split

theorem execFreezeDrainDone_ok {s₀ s s' : State} (hK : Keeps s₀ s) (e : execFreezeDrainDone s = .next s') : Keeps s₀ s' := by
  unfold execFreezeDrainDone at e
  rw [← next_inj e]
  repeat' first
    | with_reducible assumption
    | with_reducible apply drainDoneStep_ok
    | with_reducible apply Keeps.ite

theorem drainLimitStep_ok {s₀ s : State} (hK : Keeps s₀ s) : Keeps s₀ (drainLimitStep s) := by
  unfold drainLimitStep
  repeat' first
    | with_reducible assumption
    | with_reducible apply cfOwnFailed_ok
    | with_reducible apply State.frzAbort_ok
    | with_reducible apply Keeps.ite
    | split

theorem execDrainLimit_ok {s₀ s s' : State} (hK : Keeps s₀ s) (e : execDrainLimit s = .next s') : Keeps s₀ s' := by
  unfold execDrainLimit at e
  rw [← next_inj e]
  repeat' first
    | with_reducible assumption
    | with_reducible apply drainLimitStep_ok
    | with_reducible apply Keeps.ite

theorem State.syncStaged_ok {s₀ s : State} (h : Keeps s₀ s) : Keeps s₀ s.syncStaged := by
  unfold State.syncStaged
  have h1 := State.freshGrans_ok 1 s.inStagedImem (State.freshGrans_ok 4 (fun _ => true) h)
  refine ⟨h1.1, fun i => ?_⟩
  have i1 := h1.2 i
  obtain ⟨m, ⟨_, _, b⟩, w⟩ := i1
  exact ⟨m, ⟨(h.2 i).2.1.1, (h.2 i).2.1.1, b⟩, w⟩

theorem syncDoneStep_ok {s₀ s : State} (hK : Keeps s₀ s) : Keeps s₀ (syncDoneStep s) := by
  unfold syncDoneStep
  repeat' first
    | with_reducible assumption
    | with_reducible apply State.frzEnd_ok
    | with_reducible apply State.syncStaged_ok
    | with_reducible apply Keeps.ite

theorem execFreezeSyncDone_ok {s₀ s s' : State} (hK : Keeps s₀ s) (e : execFreezeSyncDone s = .next s') : Keeps s₀ s' := by
  unfold execFreezeSyncDone at e
  rw [← next_inj e]
  repeat' first
    | with_reducible assumption
    | with_reducible apply syncDoneStep_ok
    | with_reducible apply Keeps.ite

theorem discardDoneStep_ok {s₀ s : State} (hK : Keeps s₀ s) : Keeps s₀ (discardDoneStep s) := by
  unfold discardDoneStep
  dsimp only
  repeat' first
    | with_reducible assumption
    | with_reducible apply State.syncStaged_ok
    | with_reducible apply State.setFrz_ok
    | with_reducible apply Keeps.ite

theorem execDiscardDone_ok {s₀ s s' : State} (hK : Keeps s₀ s) (e : execDiscardDone s = .next s') : Keeps s₀ s' := by
  unfold execDiscardDone at e
  rw [← next_inj e]
  repeat' first
    | with_reducible assumption
    | with_reducible apply discardDoneStep_ok
    | with_reducible apply Keeps.ite

theorem firnClaim_ok {s₀ s : State} (src : Src) (hK : Keeps s₀ s) : Keeps s₀ (firnClaim src s) := by
  unfold firnClaim
  dsimp only
  repeat' first
    | with_reducible assumption
    | with_reducible apply State.setFrz_ok
    | with_reducible apply Keeps.ite

theorem execFirnClaim_ok {s₀ s s' : State} (src : Src) (hK : Keeps s₀ s) (e : execFirnClaim src s = .next s') : Keeps s₀ s' := by
  unfold execFirnClaim at e
  rw [← next_inj e]
  repeat' first
    | intro _
    | with_reducible assumption
    | with_reducible apply State.via_ok
    | with_reducible apply firnClaim_ok

theorem firnRelease_ok {s₀ s : State} (src : Src) (hK : Keeps s₀ s) : Keeps s₀ (firnRelease src s) := by
  unfold firnRelease
  dsimp only
  repeat' first
    | with_reducible assumption
    | with_reducible apply State.setFrz_ok
    | with_reducible apply Keeps.ite

theorem execFirnRelease_ok {s₀ s s' : State} (src : Src) (hK : Keeps s₀ s) (e : execFirnRelease src s = .next s') : Keeps s₀ s' := by
  unfold execFirnRelease at e
  rw [← next_inj e]
  repeat' first
    | intro _
    | with_reducible assumption
    | with_reducible apply State.via_ok
    | with_reducible apply firnRelease_ok

theorem frzLockWrite_ok {s₀ s : State} (src : Src) (v : Word) (hK : Keeps s₀ s) : Keeps s₀ (frzLockWrite src v s) := by
  unfold frzLockWrite
  dsimp only
  repeat' first
    | with_reducible assumption
    | with_reducible apply firnClaim_ok
    | with_reducible apply firnRelease_ok
    | with_reducible apply Keeps.ite

end Sys2Proof.Machine
end

