-- ==== Sys2Proof/Laws/KeepGuard.lean ====
section
/-! SUPPORT. The operations of Machine/Guard.lean keep the queue and the invariant: one lemma each, for chains of `Keeps`. -/
namespace Sys2Proof.Machine

theorem State.setTgt_ok {s₀ s : State} (t : Nat) (x : Target) (hK : Keeps s₀ s) : Keeps s₀ (State.setTgt s t x) := by
  unfold State.setTgt
  dsimp only
  all_goals try with_reducible apply Keeps.free
  repeat' first
    | with_reducible assumption

theorem guardLookupStep_ok {s₀ s0 : State} (n : Nat) (hK : Keeps s₀ s0) : Keeps s₀ (guardLookupStep n s0) := by
  unfold guardLookupStep
  dsimp only
  repeat' first
    | with_reducible assumption
    | with_reducible apply State.readRegion_ok
    | with_reducible apply State.setSlice_ok
    | with_reducible apply State.setTgt_ok
    | split

theorem execGuardLookup_ok {s₀ s s' : State} (n : Fin 16) (hK : Keeps s₀ s) (e : execGuardLookup n s = .next s') : Keeps s₀ s' := by
  unfold execGuardLookup at e
  rw [← next_inj e]
  repeat' first
    | with_reducible assumption
    | with_reducible apply guardLookupStep_ok
    | with_reducible apply Keeps.ite

theorem State.guardConduit_ok {s₀ s : State} (q : Post) (hK : Keeps s₀ s) : Keeps s₀ (State.guardConduit s q) := by
  unfold State.guardConduit
  repeat' first
    | with_reducible assumption
    | with_reducible apply State.setCdt_ok
    | with_reducible apply Keeps.ite
    | split

theorem State.guardEntry_ok {s₀ s : State} (q : Post) (code : Nat) (hK : Keeps s₀ s) : Keeps s₀ (State.guardEntry s q code) := by
  unfold State.guardEntry
  repeat' first
    | with_reducible assumption
    | with_reducible apply State.offerAt_ok

theorem State.guardRecord_ok {s₀ s : State} (q : Post) (hK : Keeps s₀ s) : Keeps s₀ (State.guardRecord s q) := by
  unfold State.guardRecord
  dsimp only
  repeat' first
    | with_reducible assumption
    | with_reducible apply State.guardEntry_ok
    | with_reducible apply State.setMeas_ok
    | with_reducible apply State.guardConduit_ok
    | with_reducible apply State.notify_ok
    | with_reducible apply Keeps.ite

theorem State.answerOn_ok {s₀ s : State} (k : Nat) (mask : BitVec 16) (code : Nat) (hK : Keeps s₀ s) : Keeps s₀ (State.answerOn s k mask code) := by
  unfold State.answerOn
  dsimp only
  repeat' first
    | with_reducible assumption
    | with_reducible apply State.setChan_ok

theorem guardAnswerStep_ok {s₀ s : State} (n : Nat) (hK : Keeps s₀ s) : Keeps s₀ (guardAnswerStep n s) := by
  unfold guardAnswerStep
  dsimp only
  repeat' first
    | with_reducible assumption
    | with_reducible apply State.setSlice_ok
    | with_reducible apply State.answerOn_ok
    | with_reducible apply State.openTxn_ok
    | with_reducible apply State.guardRecord_ok
    | with_reducible apply Keeps.ite
    | split

theorem execGuardAnswer_ok {s₀ s s' : State} (n : Fin 16) (hK : Keeps s₀ s) (e : execGuardAnswer n s = .next s') : Keeps s₀ s' := by
  unfold execGuardAnswer at e
  rw [← next_inj e]
  repeat' first
    | with_reducible assumption
    | with_reducible apply guardAnswerStep_ok
    | with_reducible apply Keeps.ite

theorem gtCfgWrite_ok {s₀ s : State} (src : Src) (t : Nat) (v : Word) (hK : Keeps s₀ s) : Keeps s₀ (gtCfgWrite src t v s) := by
  unfold gtCfgWrite
  dsimp only
  repeat' first
    | with_reducible assumption
    | with_reducible apply stageFields_ok
    | with_reducible apply State.refuse_ok
    | with_reducible apply State.setReg_ok
    | with_reducible apply State.endTxns_ok
    | with_reducible apply State.setTgt_ok
    | with_reducible apply Keeps.ite
    | split

theorem execGuardTargetEnable_ok {s₀ s s' : State} (src : Src) (target : Fin 256) (v : Word) (hK : Keeps s₀ s) (e : execGuardTargetEnable src target v s = .next s') : Keeps s₀ s' := by
  unfold execGuardTargetEnable at e
  rw [← next_inj e]
  repeat' first
    | intro _
    | with_reducible assumption
    | with_reducible apply State.via_ok
    | with_reducible apply gtCfgWrite_ok

theorem execGuardTargetDisable_ok {s₀ s s' : State} (src : Src) (target : Fin 256) (v : Word) (hK : Keeps s₀ s) (e : execGuardTargetDisable src target v s = .next s') : Keeps s₀ s' := by
  unfold execGuardTargetDisable at e
  rw [← next_inj e]
  repeat' first
    | intro _
    | with_reducible assumption
    | with_reducible apply State.via_ok
    | with_reducible apply gtCfgWrite_ok

theorem gdDataPut_ok {s₀ s : State} (k : Nat) (v : Word) (hK : Keeps s₀ s) : Keeps s₀ (gdDataPut k v s) := by
  unfold gdDataPut
  dsimp only
  all_goals try with_reducible apply Keeps.free
  repeat' first
    | with_reducible assumption

theorem execGdDataWrite_ok {s₀ s s' : State} (k : Fin 3) (v : Word) (hK : Keeps s₀ s) (e : execGdDataWrite k v s = .next s') : Keeps s₀ s' := by
  unfold execGdDataWrite at e
  rw [← next_inj e]
  repeat' first
    | with_reducible assumption
    | with_reducible apply gdDataPut_ok
    | with_reducible apply Keeps.ite

theorem State.gdAdvance_ok {s₀ s : State} (hK : Keeps s₀ s) : Keeps s₀ (State.gdAdvance s) := by
  unfold State.gdAdvance
  repeat' first
    | with_reducible assumption
    | with_reducible apply State.setReg_ok
    | with_reducible apply Keeps.ite

theorem State.stageEntry_ok {s₀ s : State} (src : Src) (i : Nat) (e : BitVec 128) (h : Keeps s₀ s) : Keeps s₀ (s.stageEntry src i e) := by
  unfold State.stageEntry
  split
  · exact State.refuse_ok _ _ _ _ h
  · split
    · exact h
    · split
      · exact State.refuse_ok _ _ _ _ h
      · exact (State.freshGrans_ok 2 (· == 32768 * b2n (!s.gd.liveBank) + i) h).tabs rfl id
          (fun ⟨a, b, c, d, r⟩ => ⟨a, b, c, tabSet_wf _ _ _ _ d, r⟩) id

theorem gdData3Put_ok {s₀ s : State} (src : Src) (v : Word) (hK : Keeps s₀ s) : Keeps s₀ (gdData3Put src v s) := by
  unfold gdData3Put
  repeat' first
    | with_reducible assumption
    | with_reducible apply State.stageEntry_ok
    | with_reducible apply State.gdAdvance_ok

theorem execGdData3Write_ok {s₀ s s' : State} (src : Src) (v : Word) (hK : Keeps s₀ s) (e : execGdData3Write src v s = .next s') : Keeps s₀ s' := by
  unfold execGdData3Write at e
  rw [← next_inj e]
  repeat' first
    | intro _
    | with_reducible assumption
    | with_reducible apply State.via_ok
    | with_reducible apply gdData3Put_ok

theorem execGdData3Read_ok {s₀ s s' : State} (hK : Keeps s₀ s) (e : execGdData3Read s = .next s') : Keeps s₀ s' := by
  unfold execGdData3Read at e
  rw [← next_inj e]
  dsimp only
  repeat' first
    | with_reducible assumption
    | with_reducible apply Keeps.ite
  all_goals try with_reducible apply Keeps.free
  repeat' first
    | with_reducible assumption
    | with_reducible apply State.gdAdvance_ok

theorem regionSyncStep_ok {s₀ s : State} (h : Keeps s₀ s) : Keeps s₀ (regionSyncStep s) := by
  unfold regionSyncStep
  split
  · refine ⟨h.1, fun i => ?_⟩
    obtain ⟨a, ⟨b0, b1, b2, b3, b4⟩, c⟩ := (State.freshGrans_ok 2 (inRegionBank !s.gd.liveBank) h).2 i
    exact ⟨a, ⟨b0, b1, b2, b2, b4⟩, c⟩
  · exact h

theorem execRegionSyncDone_ok {s₀ s s' : State} (hK : Keeps s₀ s) (e : execRegionSyncDone s = .next s') : Keeps s₀ s' := by
  unfold execRegionSyncDone at e
  rw [← next_inj e]
  repeat' first
    | with_reducible assumption
    | with_reducible apply regionSyncStep_ok
    | with_reducible apply Keeps.ite

theorem sealGuard_ok {s₀ s : State} (hK : Keeps s₀ s) : Keeps s₀ (sealGuard s) := by
  unfold sealGuard
  dsimp only
  all_goals try with_reducible apply Keeps.free
  repeat' first
    | with_reducible assumption

theorem execGuardSeal_ok {s₀ s s' : State} (hK : Keeps s₀ s) (e : execGuardSeal s = .next s') : Keeps s₀ s' := by
  unfold execGuardSeal at e
  rw [← next_inj e]
  repeat' first
    | with_reducible assumption
    | with_reducible apply sealGuard_ok
    | with_reducible apply Keeps.ite

theorem gdProbeWrite_ok {s₀ s : State} (v : Word) (hK : Keeps s₀ s) : Keeps s₀ (gdProbeWrite v s) := by
  unfold gdProbeWrite
  dsimp only
  repeat' first
    | with_reducible assumption
    | with_reducible apply State.setReg_ok
    | with_reducible apply Keeps.ite
  all_goals try with_reducible apply Keeps.free
  repeat' first
    | with_reducible assumption
    | with_reducible apply State.setReg_ok

theorem execGdProbe_ok {s₀ s s' : State} (v : Word) (hK : Keeps s₀ s) (e : execGdProbe v s = .next s') : Keeps s₀ s' := by
  unfold execGdProbe at e
  rw [← next_inj e]
  repeat' first
    | with_reducible assumption
    | with_reducible apply gdProbeWrite_ok
    | with_reducible apply Keeps.ite

theorem probeDoneStep_ok {s₀ s : State} (hK : Keeps s₀ s) : Keeps s₀ (probeDoneStep s) := by
  unfold probeDoneStep
  dsimp only
  repeat' first
    | with_reducible assumption
    | split
  all_goals try with_reducible apply Keeps.free
  repeat' first
    | with_reducible assumption

theorem execProbeDone_ok {s₀ s s' : State} (hK : Keeps s₀ s) (e : execProbeDone s = .next s') : Keeps s₀ s' := by
  unfold execProbeDone at e
  rw [← next_inj e]
  repeat' first
    | with_reducible assumption
    | with_reducible apply probeDoneStep_ok
    | with_reducible apply Keeps.ite

end Sys2Proof.Machine
end

