-- ==== Sys2Proof/Laws/KeepChannels.lean ====
section
/-! SUPPORT. The operations of Machine/Channels.lean keep the queue and the invariant: one lemma each, for chains of `Keeps`. -/
namespace Sys2Proof.Machine

theorem Ctx.misuse_ok {s₀ s : State} (c : Ctx) (hK : Keeps s₀ s) : Keeps s₀ (Ctx.misuse c s) := by
  unfold Ctx.misuse
  repeat' first
    | with_reducible assumption
    | with_reducible apply Ctx.fin_ok
    | with_reducible apply State.offer_ok

theorem cinBody_ok {s₀ s : State} (c : Ctx) (hK : Keeps s₀ s) : Keeps s₀ (cinBody c s) := by
  unfold cinBody
  dsimp only
  repeat' first
    | with_reducible assumption
    | with_reducible apply Ctx.misuse_ok
    | with_reducible apply State.fillEnd_ok
    | with_reducible apply State.setEnd_ok
    | with_reducible apply Ctx.finLoad_ok
    | with_reducible apply Ctx.fin_ok
    | with_reducible apply Ctx.wait_ok
    | with_reducible apply Keeps.ite
    | split

theorem execCin_ok {s₀ s s' : State} (n : Fin 16) (t : Fin 16) (hK : Keeps s₀ s) (e : execCin n t s = .next s') : Keeps s₀ s' := by
  unfold execCin at e
  rw [← next_inj e]
  repeat' first
    | intro _
    | with_reducible assumption
    | with_reducible apply strand_ok
    | with_reducible apply cinBody_ok

theorem waiteBody_ok {s₀ s : State} (c : Ctx) (hK : Keeps s₀ s) : Keeps s₀ (waiteBody c s) := by
  unfold waiteBody
  dsimp only
  repeat' first
    | with_reducible assumption
    | with_reducible apply Ctx.misuse_ok
    | with_reducible apply State.fillEnd_ok
    | with_reducible apply State.seeTb_ok
    | with_reducible apply Ctx.fin_ok
    | with_reducible apply Ctx.wait_ok
    | with_reducible apply Keeps.ite

theorem execWaite_ok {s₀ s s' : State} (n : Fin 16) (t : Fin 16) (hK : Keeps s₀ s) (e : execWaite n t s = .next s') : Keeps s₀ s' := by
  unfold execWaite at e
  rw [← next_inj e]
  repeat' first
    | intro _
    | with_reducible assumption
    | with_reducible apply strand_ok
    | with_reducible apply waiteBody_ok

theorem Ctx.releaseEnd_ok {s₀ s : State} (c : Ctx) (hK : Keeps s₀ s) : Keeps s₀ (Ctx.releaseEnd c s) := by
  unfold Ctx.releaseEnd
  repeat' first
    | with_reducible assumption
    | with_reducible apply moveWords_ok
    | with_reducible apply State.release_ok

theorem coutBody_ok {s₀ s : State} (fin : Bool) (c : Ctx) (hK : Keeps s₀ s) : Keeps s₀ (coutBody fin c s) := by
  unfold coutBody
  dsimp only
  repeat' first
    | with_reducible assumption
    | with_reducible apply Ctx.misuse_ok
    | with_reducible apply moveWords_ok
    | with_reducible apply Ctx.fin_ok
    | with_reducible apply State.setEnd_ok
    | with_reducible apply Ctx.hold_ok
    | with_reducible apply Ctx.releaseEnd_ok
    | with_reducible apply Keeps.ite

theorem execCout_ok {s₀ s s' : State} (n : Fin 16) (t : Fin 16) (hK : Keeps s₀ s) (e : execCout n t s = .next s') : Keeps s₀ s' := by
  unfold execCout at e
  rw [← next_inj e]
  repeat' first
    | intro _
    | with_reducible assumption
    | with_reducible apply strand_ok
    | with_reducible apply coutBody_ok

theorem execCoute_ok {s₀ s s' : State} (n : Fin 16) (t : Fin 16) (hK : Keeps s₀ s) (e : execCoute n t s = .next s') : Keeps s₀ s' := by
  unfold execCoute at e
  rw [← next_inj e]
  repeat' first
    | intro _
    | with_reducible assumption
    | with_reducible apply strand_ok
    | with_reducible apply coutBody_ok

theorem cendBody_ok {s₀ s : State} (c : Ctx) (hK : Keeps s₀ s) : Keeps s₀ (cendBody c s) := by
  unfold cendBody
  dsimp only
  repeat' first
    | with_reducible assumption
    | with_reducible apply Ctx.misuse_ok
    | with_reducible apply Ctx.fin_ok
    | with_reducible apply State.setEnd_ok
    | with_reducible apply Ctx.releaseEnd_ok
    | with_reducible apply Keeps.ite

theorem execCend_ok {s₀ s s' : State} (n : Fin 16) (t : Fin 16) (hK : Keeps s₀ s) (e : execCend n t s = .next s') : Keeps s₀ s' := by
  unfold execCend at e
  rw [← next_inj e]
  repeat' first
    | intro _
    | with_reducible assumption
    | with_reducible apply strand_ok
    | with_reducible apply cendBody_ok

theorem State.wdEndOff_ok {s₀ s : State} (n : Nat) (e : Nat) (hK : Keeps s₀ s) : Keeps s₀ (State.wdEndOff s n e) := by
  unfold State.wdEndOff
  dsimp only
  repeat' first
    | with_reducible assumption
    | with_reducible apply State.setReg_ok
    | with_reducible apply State.offer_ok
    | with_reducible apply Keeps.ite

theorem State.endOff_ok {s₀ s : State} (n : Nat) (e : Nat) (out : Bool) (hK : Keeps s₀ s) : Keeps s₀ (State.endOff s n e out) := by
  unfold State.endOff
  dsimp only
  repeat' first
    | with_reducible assumption
    | with_reducible apply State.setEnd_ok
    | with_reducible apply State.addDrops_ok
    | with_reducible apply Keeps.ite

theorem cheCfgWrite_ok {s₀ s : State} (src : Src) (n : Nat) (e : Nat) (v : Word) (hK : Keeps s₀ s) : Keeps s₀ (cheCfgWrite src n e v s) := by
  unfold cheCfgWrite
  dsimp only
  repeat' first
    | with_reducible assumption
    | with_reducible apply State.refuse_ok
    | with_reducible apply State.endOff_ok
    | with_reducible apply State.setReg_ok
    | with_reducible apply State.wdEndOff_ok
    | with_reducible apply State.setEnd_ok
    | with_reducible apply Keeps.ite
    | split

theorem chePeerWrite_ok {s₀ s : State} (src : Src) (n : Nat) (e : Nat) (v : Word) (hK : Keeps s₀ s) : Keeps s₀ (chePeerWrite src n e v s) := by
  unfold chePeerWrite
  dsimp only
  repeat' first
    | with_reducible assumption
    | with_reducible apply State.refuse_ok
    | with_reducible apply State.setReg_ok
    | with_reducible apply Keeps.ite

theorem abortMsg_ok {s₀ s : State} (n : Nat) (e : Nat) (hK : Keeps s₀ s) : Keeps s₀ (abortMsg n e s) := by
  unfold abortMsg
  dsimp only
  repeat' first
    | with_reducible assumption
    | with_reducible apply State.setEnd_ok
    | with_reducible apply State.offer_ok

theorem State.fifoPut_ok {s₀ s : State} (n : Nat) (e : Nat) (c : Nat) (w : Word) (hK : Keeps s₀ s) : Keeps s₀ (State.fifoPut s n e c w) := by
  unfold State.fifoPut
  dsimp only
  repeat' first
    | with_reducible assumption
    | with_reducible apply State.setChan_ok

theorem fifoOut_ok {s₀ s : State} (n : Nat) (e : Nat) (c : Nat) (hK : Keeps s₀ s) : Keeps s₀ (fifoOut n e c s) := by
  unfold fifoOut
  dsimp only
  repeat' first
    | with_reducible assumption
    | with_reducible apply State.setChan_ok
    | with_reducible apply State.bufPut_ok
    | with_reducible apply Keeps.ite
    | split

end Sys2Proof.Machine
end

