-- ==== Sys2Proof/Laws/KeepHostPort.lean ====
section
/-! SUPPORT. The operations of Machine/HostPort.lean keep the queue and the invariant: one lemma each, for chains of `Keeps`. -/
namespace Sys2Proof.Machine

theorem State.hostEvent_ok {s₀ s : State} (d : Nat) (hK : Keeps s₀ s) : Keeps s₀ (State.hostEvent s d) := by
  unfold State.hostEvent
  dsimp only
  repeat' first
    | with_reducible assumption
    | with_reducible apply State.raiseEv_ok
    | with_reducible apply Keeps.ite

theorem State.attachEvents_ok {s₀ s : State} (k : Nat) (hK : Keeps s₀ s) : Keeps s₀ (State.attachEvents s k) := by
  unfold State.attachEvents
  repeat' first
    | intro _
    | with_reducible assumption
    | with_reducible apply State.hostEvent_ok
    | with_reducible apply foldl_ok
    | with_reducible apply Keeps.ite

theorem State.moveSes_ok {s₀ s : State} (k : Nat) (st : SesState) (hK : Keeps s₀ s) : Keeps s₀ (State.moveSes s k st) := by
  unfold State.moveSes
  dsimp only
  repeat' first
    | with_reducible assumption
    | with_reducible apply State.setSes_ok
    | with_reducible apply State.offer_ok
    | with_reducible apply State.attachEvents_ok
    | with_reducible apply Keeps.ite

theorem State.faultSes_ok {s₀ s : State} (k : Nat) (code : Nat) (hK : Keeps s₀ s) : Keeps s₀ (State.faultSes s k code) := by
  unfold State.faultSes
  dsimp only
  repeat' first
    | with_reducible assumption
    | with_reducible apply State.setSes_ok
    | with_reducible apply State.moveSes_ok
    | with_reducible apply State.setHost_ok
    | with_reducible apply State.queueNotice_ok
    | with_reducible apply Keeps.ite

theorem State.hostPut_ok {s₀ s : State} (a : Nat) (l : List Byte) (hK : Keeps s₀ s) : Keeps s₀ (State.hostPut s a l) := by
  unfold State.hostPut
  dsimp only
  repeat' first
    | with_reducible assumption
    | with_reducible apply State.setHost_ok

theorem State.putStatus_ok {s₀ s : State} (k : Nat) (hK : Keeps s₀ s) : Keeps s₀ (State.putStatus s k) := by
  unfold State.putStatus
  dsimp only
  repeat' first
    | with_reducible assumption
    | with_reducible apply State.hostPut_ok
    | with_reducible apply State.setHost_ok
    | with_reducible apply Keeps.ite

theorem State.putSlots_ok {s₀ : State} (k : Nat) : ∀ (z0 : Nat) (z1 : List Byte) {s : State}, Keeps s₀ s → Keeps s₀ (State.putSlots s k z0 z1)
  | 0, z1, s, hK => by
    unfold State.putSlots
    repeat' first
      | with_reducible assumption
  | z0 + 1, z1, s, hK => by
    unfold State.putSlots
    dsimp only
    repeat' first
      | with_reducible apply State.putSlots_ok
      | with_reducible assumption
      | with_reducible apply State.hostPut_ok
      | with_reducible apply State.setSes_ok

theorem State.putRsp_ok {s₀ s : State} (k : Nat) (r : Rsp) (hK : Keeps s₀ s) : Keeps s₀ (State.putRsp s k r) := by
  unfold State.putRsp
  repeat' first
    | with_reducible assumption
    | with_reducible apply State.putSlots_ok
    | with_reducible apply State.putStatus_ok
    | with_reducible apply Keeps.ite

theorem State.complete_ok {s₀ s : State} (k : Nat) (i : Nat) (r : Rsp) (hK : Keeps s₀ s) : Keeps s₀ (State.complete s k i r) := by
  unfold State.complete
  dsimp only
  repeat' first
    | with_reducible assumption
    | with_reducible apply State.putRsp_ok
    | with_reducible apply State.setSes_ok
    | split

theorem State.failCmd_ok {s₀ s : State} (k : Nat) (i : Nat) (code : Nat) (hK : Keeps s₀ s) : Keeps s₀ (State.failCmd s k i code) := by
  unfold State.failCmd
  repeat' first
    | with_reducible assumption
    | with_reducible apply State.complete_ok

theorem cancelRecvs_ok {s₀ : State} (k : Nat) (p : Cmd → Bool) (withData : Bool) : ∀ (f : Nat) {s : State}, Keeps s₀ s →
    Keeps s₀ (cancelRecvs k p withData f s).2
  | 0, _, h => h
  | f + 1, s, h => by
    unfold cancelRecvs
    split
    · exact h
    · split
      · exact h
      · next c _ =>
        dsimp only
        repeat' first
          | with_reducible assumption
          | with_reducible apply cancelRecvs_ok
          | with_reducible apply State.failCmd_ok
          | with_reducible apply State.complete_ok
          | split

theorem cancelRecvs_eq {s₀ s s' : State} {k : Nat} {p : Cmd → Bool} {withData : Bool} {f : Nat} {v} (e : cancelRecvs k p withData f s = (v, s'))
    (h : Keeps s₀ s) : Keeps s₀ s' := by
  have := cancelRecvs_ok k p withData f h
  rw [e] at this
  exact this

theorem State.cancelIn_ok {s₀ s : State} (k : Nat) (p : Cmd → Bool) (withData : Bool) (hK : Keeps s₀ s) : Keeps s₀ (State.cancelIn s k p withData).2 := by
  unfold State.cancelIn
  repeat' first
    | with_reducible assumption
    | with_reducible apply cancelRecvs_ok

theorem State.cancelIn_eq {s₀ s s' : State} {k : Nat} {p : Cmd → Bool} {withData : Bool} {v} (e : State.cancelIn s k p withData = (v, s')) (hK : Keeps s₀ s) : Keeps s₀ s' := by
  have := State.cancelIn_ok (s₀ := s₀) k p withData hK
  rw [e] at this
  exact this

theorem State.unbind_ok {s₀ s : State} (d : Nat) (hK : Keeps s₀ s) : Keeps s₀ (State.unbind s d) := by
  unfold State.unbind
  dsimp only
  repeat' first
    | with_reducible assumption
    | with_reducible apply State.hostEvent_ok
    | with_reducible apply State.setCdt_ok
    | with_reducible apply State.peerLost_ok
    | with_reducible apply Keeps.ite

theorem State.endUnbind_ok {s₀ s : State} (i : Nat) (c : Cmd) (hK : Keeps s₀ s) : Keeps s₀ (State.endUnbind s i c) := by
  unfold State.endUnbind
  dsimp only
  repeat' first
    | with_reducible assumption
    | with_reducible apply State.cancelIn_ok
    | with_reducible apply State.complete_ok
    | with_reducible apply State.unbind_ok

theorem settleSes_ok {s₀ : State} (k : Nat) : ∀ (z0 : Nat)  {s : State}, Keeps s₀ s → Keeps s₀ (settleSes k z0 s)
  | 0, s, hK => by
    unfold settleSes
    repeat' first
      | with_reducible assumption
  | z0 + 1, s, hK => by
    unfold settleSes
    dsimp only
    repeat' first
      | with_reducible apply settleSes_ok
      | with_reducible assumption
      | with_reducible apply State.failCmd_ok
      | with_reducible apply State.endUnbind_ok
      | with_reducible apply State.complete_ok
      | with_reducible apply State.setSes_ok
      | with_reducible apply State.moveSes_ok
      | with_reducible apply Keeps.ite
      | split

theorem State.hostSettle_ok {s₀ s : State} (k : Nat) (hK : Keeps s₀ s) : Keeps s₀ (State.hostSettle s k) := by
  unfold State.hostSettle
  dsimp only
  repeat' first
    | with_reducible assumption
    | with_reducible apply settleSes_ok
    | with_reducible apply Keeps.ite

theorem State.setGroup_ok {s₀ s : State} (g : Nat) (x : Group) (hK : Keeps s₀ s) : Keeps s₀ (State.setGroup s g x) := by
  unfold State.setGroup
  dsimp only
  repeat' first
    | with_reducible assumption
    | with_reducible apply State.setHost_ok

theorem State.doorbell_ok {s₀ s : State} (k : Nat) (e : DWord) (hK : Keeps s₀ s) : Keeps s₀ (State.doorbell s k e) := by
  unfold State.doorbell
  dsimp only
  repeat' first
    | with_reducible assumption
    | with_reducible apply State.setSes_ok
    | with_reducible apply State.faultSes_ok
    | with_reducible apply Keeps.ite

theorem State.readLine_ok {s₀ s : State} (g : Nat) (line : Option (List DWord)) (hK : Keeps s₀ s) : Keeps s₀ (State.readLine s g line) := by
  unfold State.readLine
  dsimp only
  repeat' first
    | intro _
    | with_reducible assumption
    | with_reducible apply State.setGroup_ok
    | with_reducible apply State.setHost_ok
    | with_reducible apply State.doorbell_ok
    | with_reducible apply State.faultSes_ok
    | with_reducible apply iter_ok
    | split

theorem doorbellStep_ok {s₀ s : State} (g : Nat) (line : Option (List DWord)) (hK : Keeps s₀ s) : Keeps s₀ (doorbellStep g line s) := by
  unfold doorbellStep
  repeat' first
    | with_reducible assumption
    | with_reducible apply State.readLine_ok
    | with_reducible apply Keeps.ite

theorem execDoorbellPoll_ok {s₀ s s' : State} (g : Fin 128) (line : Option (List DWord)) (hK : Keeps s₀ s) (e : execDoorbellPoll g line s = .next s') : Keeps s₀ s' := by
  unfold execDoorbellPoll at e
  rw [← next_inj e]
  repeat' first
    | with_reducible assumption
    | with_reducible apply doorbellStep_ok
    | with_reducible apply Keeps.ite

theorem kickWrite_ok {s₀ s : State} (k : Nat) (hK : Keeps s₀ s) : Keeps s₀ (kickWrite k s) := by
  unfold kickWrite
  dsimp only
  repeat' first
    | with_reducible assumption
    | with_reducible apply State.setGroup_ok
    | with_reducible apply State.setHost_ok
    | with_reducible apply Keeps.ite

theorem execKick_ok {s₀ s s' : State} (k : Fin 1024) (hK : Keeps s₀ s) (e : execKick k s = .next s') : Keeps s₀ s' := by
  unfold execKick at e
  rw [← next_inj e]
  repeat' first
    | with_reducible assumption
    | with_reducible apply kickWrite_ok
    | with_reducible apply Keeps.ite

theorem State.noteTurn_ok {s₀ s : State} (k : Nat) (hK : Keeps s₀ s) : Keeps s₀ (State.noteTurn s k) := by
  unfold State.noteTurn
  dsimp only
  repeat' first
    | with_reducible assumption
    | with_reducible apply State.setHost_ok

theorem State.readIn_ok {s₀ s : State} (k : Nat) (c : Cmd) (hK : Keeps s₀ s) : Keeps s₀ (State.readIn s k c) := by
  unfold State.readIn
  dsimp only
  repeat' first
    | with_reducible assumption
    | with_reducible apply State.setSes_ok
    | with_reducible apply State.moveSes_ok
    | with_reducible apply State.cancelIn_ok
    | with_reducible apply Keeps.ite

theorem serviceStep_ok {s₀ s : State} (k : Nat) (l : List Byte) (hK : Keeps s₀ s) : Keeps s₀ (serviceStep k l s) := by
  unfold serviceStep
  dsimp only
  repeat' first
    | with_reducible assumption
    | with_reducible apply State.noteTurn_ok
    | with_reducible apply State.readIn_ok
    | with_reducible apply State.hostSettle_ok
    | with_reducible apply Keeps.ite

theorem execServiceTurn_ok {s₀ s s' : State} (k : Fin 1024) (slots : List Byte) (hK : Keeps s₀ s) (e : execServiceTurn k slots s = .next s') : Keeps s₀ s' := by
  unfold execServiceTurn at e
  rw [← next_inj e]
  repeat' first
    | with_reducible assumption
    | with_reducible apply serviceStep_ok
    | with_reducible apply Keeps.ite

theorem State.recGiven_ok {s₀ s : State} (x : Notice) (hK : Keeps s₀ s) : Keeps s₀ (State.recGiven s x) := by
  unfold State.recGiven
  dsimp only
  repeat' first
    | with_reducible assumption
    | with_reducible apply State.setMeas_ok
    | with_reducible apply Keeps.ite

theorem noticeStep_ok {s₀ s : State} (hK : Keeps s₀ s) : Keeps s₀ (noticeStep s) := by
  unfold noticeStep
  dsimp only
  repeat' first
    | intro _
    | with_reducible assumption
    | with_reducible apply State.setHost_ok
    | with_reducible apply State.putRsp_ok
    | with_reducible apply State.recGiven_ok
    | with_reducible apply foldl_ok
    | with_reducible apply Keeps.ite
    | split

theorem State.hostFail_ok {s₀ s : State} (z0 : HostUnit) (hK : Keeps s₀ s) : Keeps s₀ (State.hostFail s z0) := by
  unfold State.hostFail
  repeat' first
    | intro _
    | with_reducible assumption
    | with_reducible apply State.faultSes_ok
    | with_reducible apply iter_ok
    | split

theorem State.ifaceEntry_ok {s₀ s : State} (unit : Nat) (hK : Keeps s₀ s) : Keeps s₀ (State.ifaceEntry s unit) := by
  unfold State.ifaceEntry
  repeat' first
    | with_reducible assumption
    | with_reducible apply State.offer_ok
    | with_reducible apply State.drawn_ok

theorem hostFailStep_ok {s₀ s : State} (u : HostUnit) (timeout : Bool) (hK : Keeps s₀ s) : Keeps s₀ (hostFailStep u timeout s) := by
  unfold hostFailStep
  repeat' first
    | with_reducible assumption
    | with_reducible apply State.ifaceEntry_ok
    | with_reducible apply State.hostFail_ok
    | with_reducible apply Keeps.ite

theorem execHostAccessFail_ok {s₀ s s' : State} (unit : HostUnit) (timeout : Bool) (hK : Keeps s₀ s) (e : execHostAccessFail unit timeout s = .next s') : Keeps s₀ s' := by
  unfold execHostAccessFail at e
  rw [← next_inj e]
  repeat' first
    | with_reducible assumption
    | with_reducible apply hostFailStep_ok
    | with_reducible apply Keeps.ite

theorem State.readySes_ok {s₀ s : State} (k : Nat) (hK : Keeps s₀ s) : Keeps s₀ (State.readySes s k) := by
  unfold State.readySes
  dsimp only
  repeat' first
    | with_reducible assumption
    | with_reducible apply State.setGroup_ok
    | with_reducible apply State.setSes_ok
    | with_reducible apply State.moveSes_ok
    | with_reducible apply Keeps.ite

theorem sesCtlWrite_ok {s₀ s : State} (src : Src) (k : Nat) (v : Word) (hK : Keeps s₀ s) : Keeps s₀ (sesCtlWrite src k v s) := by
  unfold sesCtlWrite
  dsimp only
  repeat' first
    | with_reducible assumption
    | with_reducible apply State.setReg_ok
    | with_reducible apply State.setSes_ok
    | with_reducible apply State.moveSes_ok
    | with_reducible apply State.refuse_ok
    | with_reducible apply State.readySes_ok
    | with_reducible apply Keeps.ite
    | split

theorem execSessionEnable_ok {s₀ s s' : State} (k : Fin 1024) (v : Word) (hK : Keeps s₀ s) (e : execSessionEnable k v s = .next s') : Keeps s₀ s' := by
  unfold execSessionEnable at e
  rw [← next_inj e]
  repeat' first
    | with_reducible assumption
    | with_reducible apply sesCtlWrite_ok
    | with_reducible apply Keeps.ite

theorem execSessionDisable_ok {s₀ s s' : State} (k : Fin 1024) (v : Word) (hK : Keeps s₀ s) (e : execSessionDisable k v s = .next s') : Keeps s₀ s' := by
  unfold execSessionDisable at e
  rw [← next_inj e]
  repeat' first
    | with_reducible assumption
    | with_reducible apply sesCtlWrite_ok
    | with_reducible apply Keeps.ite

theorem ringAddrWrite_ok {s₀ s : State} (src : Src) (off : Nat) (v : Word) (hK : Keeps s₀ s) : Keeps s₀ (ringAddrWrite src off v s) := by
  unfold ringAddrWrite
  dsimp only
  repeat' first
    | with_reducible assumption
    | with_reducible apply State.refuse_ok
    | with_reducible apply State.plainWrite_ok
    | with_reducible apply Keeps.ite

theorem quiescedStep_ok {s₀ s : State} (k : Nat) (hK : Keeps s₀ s) : Keeps s₀ (quiescedStep k s) := by
  unfold quiescedStep
  dsimp only
  repeat' first
    | with_reducible assumption
    | with_reducible apply State.setSes_ok
    | with_reducible apply State.moveSes_ok
    | with_reducible apply Keeps.ite

theorem execSessionQuiesced_ok {s₀ s s' : State} (k : Fin 1024) (hK : Keeps s₀ s) (e : execSessionQuiesced k s = .next s') : Keeps s₀ s' := by
  unfold execSessionQuiesced at e
  rw [← next_inj e]
  repeat' first
    | with_reducible assumption
    | with_reducible apply quiescedStep_ok
    | with_reducible apply Keeps.ite

theorem hiCtlWrite_ok {s₀ s : State} (src : Src) (v : Word) (hK : Keeps s₀ s) : Keeps s₀ (hiCtlWrite src v s) := by
  unfold hiCtlWrite
  repeat' first
    | with_reducible assumption
    | with_reducible apply State.refuse_ok
    | with_reducible apply State.setReg_ok
    | with_reducible apply Keeps.ite

theorem execHiCtl_ok {s₀ s s' : State} (v : Word) (hK : Keeps s₀ s) (e : execHiCtl v s = .next s') : Keeps s₀ s' := by
  unfold execHiCtl at e
  rw [← next_inj e]
  repeat' first
    | with_reducible assumption
    | with_reducible apply hiCtlWrite_ok
    | with_reducible apply Keeps.ite

theorem hiSetupWrite_ok {s₀ s : State} (src : Src) (off : Nat) (v : Word) (hK : Keeps s₀ s) : Keeps s₀ (hiSetupWrite src off v s) := by
  unfold hiSetupWrite
  dsimp only
  repeat' first
    | with_reducible assumption
    | with_reducible apply State.refuse_ok
    | with_reducible apply State.plainWrite_ok
    | with_reducible apply State.setHost_ok
    | with_reducible apply Keeps.ite

theorem hiStsWrite_ok {s₀ s : State} (v : Word) (hK : Keeps s₀ s) : Keeps s₀ (hiStsWrite v s) := by
  unfold hiStsWrite
  dsimp only
  repeat' first
    | with_reducible assumption
    | with_reducible apply State.setHost_ok
    | with_reducible apply Keeps.ite

end Sys2Proof.Machine
end

