-- ==== Sys2Proof/Laws/KeepDeliver.lean ====
section
/-! SUPPORT. The operations of Machine/Deliver.lean keep the queue and the invariant: one lemma each, for chains of `Keeps`. -/
namespace Sys2Proof.Machine

theorem State.setCmd_ok {s₀ s : State} (k : Nat) (i : Nat) (c : Cmd) (hK : Keeps s₀ s) : Keeps s₀ (State.setCmd s k i c) := by
  unfold State.setCmd
  dsimp only
  repeat' first
    | with_reducible assumption
    | with_reducible apply State.setSes_ok

theorem State.settleEnd_ok {s₀ s : State} (k : Nat) (w : Nat) (fail : Bool) (hK : Keeps s₀ s) : Keeps s₀ (State.settleEnd s k w fail) := by
  unfold State.settleEnd
  dsimp only
  repeat' first
    | with_reducible assumption
    | with_reducible apply State.setEnd_ok
    | with_reducible apply State.peerLost_ok
    | with_reducible apply State.offer_ok
    | with_reducible apply Keeps.ite
    | split

theorem State.settleCdt_ok {s₀ s : State} (d : Nat) (w : Nat) (fail : Bool) (hK : Keeps s₀ s) : Keeps s₀ (State.settleCdt s d w fail) := by
  unfold State.settleCdt
  dsimp only
  repeat' first
    | with_reducible assumption
    | with_reducible apply State.setCdt_ok
    | with_reducible apply State.setCmd_ok
    | split

theorem State.settleReply_ok {s₀ s : State} (nak : Bool) (w : Nat) (kind : Nat) (id : Nat) (hK : Keeps s₀ s) : Keeps s₀ (State.settleReply s nak w kind id) := by
  unfold State.settleReply
  repeat' first
    | with_reducible assumption
    | with_reducible apply State.settleEnd_ok
    | with_reducible apply State.settleCdt_ok
    | with_reducible apply Keeps.ite

theorem State.reply_ok {s₀ s : State} (node : Nat) (nak : Bool) (w : Nat) (kind : Nat) (id : Nat) (hK : Keeps s₀ s) : Keeps s₀ (State.reply s node nak w kind id) := by
  unfold State.reply
  repeat' first
    | with_reducible assumption
    | with_reducible apply State.settleReply_ok
    | with_reducible apply State.sendTo_ok
    | with_reducible apply Keeps.ite

theorem moveLanding_ok {s₀ : State} (n : Nat) (e : Nat) : ∀ (z0 : Nat)  {s : State}, Keeps s₀ s → Keeps s₀ (moveLanding n e z0 s)
  | 0, s, hK => by
    unfold moveLanding
    repeat' first
      | with_reducible assumption
  | z0 + 1, s, hK => by
    unfold moveLanding
    dsimp only
    repeat' first
      | with_reducible apply moveLanding_ok
      | with_reducible assumption
      | with_reducible apply State.setEnd_ok
      | with_reducible apply State.bufPut_ok
      | with_reducible apply State.reply_ok
      | with_reducible apply Keeps.ite
      | split

theorem State.arrive_ok {s₀ s : State} (node : Nat) (sk : Nat) (sid : Nat) (dk : Nat) (did : Nat) (ws : List Word) (hK : Keeps s₀ s) : Keeps s₀ (State.arrive s node sk sid dk did ws) := by
  unfold State.arrive
  dsimp only
  repeat' first
    | with_reducible assumption
    | with_reducible apply moveLanding_ok
    | with_reducible apply State.setEnd_ok
    | with_reducible apply State.reply_ok
    | with_reducible apply State.setCdt_ok
    | with_reducible apply Keeps.ite

theorem State.sendMsg_ok {s₀ s : State} (node : Nat) (sk : Nat) (sid : Nat) (dk : Nat) (did : Nat) (ws : List Word) (hK : Keeps s₀ s) : Keeps s₀ (State.sendMsg s node sk sid dk did ws) := by
  unfold State.sendMsg
  repeat' first
    | with_reducible assumption
    | with_reducible apply State.arrive_ok
    | with_reducible apply State.sendTo_ok
    | with_reducible apply Keeps.ite

theorem State.popStores_ok {s₀ : State} (n : Nat) (e : Nat) : ∀ (z0 : Nat)  {s : State}, Keeps s₀ s → Keeps s₀ (State.popStores n e z0 s)
  | 0, s, hK => by
    unfold State.popStores
    repeat' first
      | with_reducible assumption
  | z0 + 1, s, hK => by
    unfold State.popStores
    repeat' first
      | with_reducible apply State.popStores_ok
      | with_reducible assumption
      | with_reducible apply State.popStore_ok

theorem sendMsgs_ok {s₀ : State} (n : Nat) (e : Nat) : ∀ (z0 : Nat)  {s : State}, Keeps s₀ s → Keeps s₀ (sendMsgs n e z0 s)
  | 0, s, hK => by
    unfold sendMsgs
    repeat' first
      | with_reducible assumption
  | z0 + 1, s, hK => by
    unfold sendMsgs
    dsimp only
    repeat' first
      | with_reducible apply sendMsgs_ok
      | with_reducible assumption
      | with_reducible apply State.popStores_ok
      | with_reducible apply State.setEnd_ok
      | with_reducible apply State.sendMsg_ok
      | with_reducible apply Keeps.ite
      | split

theorem dropUnbound_ok {s₀ : State} (n : Nat) (e : Nat) : ∀ (z0 : Nat)  {s : State}, Keeps s₀ s → Keeps s₀ (dropUnbound n e z0 s)
  | 0, s, hK => by
    unfold dropUnbound
    repeat' first
      | with_reducible assumption
  | z0 + 1, s, hK => by
    unfold dropUnbound
    repeat' first
      | with_reducible apply dropUnbound_ok
      | with_reducible assumption
      | with_reducible apply State.popStore_ok
      | with_reducible apply State.peerLost_ok
      | with_reducible apply Keeps.ite
      | split

theorem sendToEnd_ok {s₀ : State} (d n e : Nat) : ∀ (f : Nat) (c : Cmd) {s : State}, Keeps s₀ s → Keeps s₀ (sendToEnd d n e f c s).2
  | 0, _, _, h => h
  | f + 1, c, s, h => by
    unfold sendToEnd
    repeat' first
      | with_reducible assumption
      | with_reducible apply sendToEnd_ok
      | with_reducible apply State.bufPut_ok
      | split

theorem sendToEnd_eq {s₀ s s' : State} {d n e f : Nat} {c : Cmd} {v} (q : sendToEnd d n e f c s = (v, s')) (h : Keeps s₀ s) : Keeps s₀ s' := by
  have := sendToEnd_ok d n e f c h
  rw [q] at this
  exact this

theorem sendToFifo_ok {s₀ : State} (n e ch : Nat) : ∀ (f : Nat) (c : Cmd) {s : State}, Keeps s₀ s → Keeps s₀ (sendToFifo n e ch f c s).2
  | 0, _, _, h => h
  | f + 1, c, s, h => by
    unfold sendToFifo
    repeat' first
      | with_reducible assumption
      | with_reducible apply sendToFifo_ok
      | with_reducible apply State.fifoPut_ok
      | split

theorem sendToFifo_eq {s₀ s s' : State} {n e ch f : Nat} {c : Cmd} {v} (q : sendToFifo n e ch f c s = (v, s')) (h : Keeps s₀ s) : Keeps s₀ s' := by
  have := sendToFifo_ok n e ch f c h
  rw [q] at this
  exact this

theorem sendToNode_ok {s₀ : State} (d : Nat) : ∀ (z0 : Nat)  {s : State}, Keeps s₀ s → Keeps s₀ (sendToNode d z0 s)
  | 0, s, hK => by
    unfold sendToNode
    repeat' first
      | with_reducible assumption
  | z0 + 1, s, hK => by
    unfold sendToNode
    dsimp only
    repeat' first
      | with_reducible apply sendToNode_ok
      | with_reducible assumption
      | with_reducible apply State.setCdt_ok
      | with_reducible apply State.setCmd_ok
      | with_reducible apply State.sendMsg_ok
      | with_reducible apply Keeps.ite
      | split

theorem State.sendSome_ok {s₀ s : State} (d : Nat) (hK : Keeps s₀ s) : Keeps s₀ (State.sendSome s d) := by
  unfold State.sendSome
  dsimp only
  repeat' first
    | with_reducible assumption
    | with_reducible apply sendToNode_ok
    | with_reducible apply sendToEnd_ok
    | with_reducible apply sendToFifo_ok
    | with_reducible apply State.setCmd_ok
    | with_reducible apply Keeps.ite
    | split

theorem pumpCdt_ok {s₀ : State} (d : Nat) : ∀ (z0 : Nat)  {s : State}, Keeps s₀ s → Keeps s₀ (pumpCdt d z0 s)
  | 0, s, hK => by
    unfold pumpCdt
    repeat' first
      | with_reducible assumption
  | z0 + 1, s, hK => by
    unfold pumpCdt
    dsimp only
    repeat' first
      | with_reducible apply pumpCdt_ok
      | with_reducible assumption
      | with_reducible apply State.sendSome_ok
      | with_reducible apply State.complete_ok
      | with_reducible apply State.hostSettle_ok
      | with_reducible apply Keeps.ite
      | split

theorem State.pump_ok {s₀ s : State} (d : Nat) (hK : Keeps s₀ s) : Keeps s₀ (State.pump s d) := by
  unfold State.pump
  repeat' first
    | with_reducible assumption
    | with_reducible apply pumpCdt_ok

theorem State.pumpWhere_ok {s₀ s : State} (p : Conduit → Bool) (hK : Keeps s₀ s) : Keeps s₀ (State.pumpWhere s p) := by
  unfold State.pumpWhere
  repeat' first
    | intro _
    | with_reducible assumption
    | with_reducible apply State.pump_ok
    | with_reducible apply foldl_ok
    | with_reducible apply Keeps.ite

theorem State.pumpEnd_ok {s₀ s : State} (n : Nat) (e : Nat) (hK : Keeps s₀ s) : Keeps s₀ (State.pumpEnd s n e) := by
  unfold State.pumpEnd
  repeat' first
    | with_reducible assumption
    | with_reducible apply State.pumpWhere_ok

theorem deliverStep_ok {s₀ s : State} (n : Nat) (e : Nat) (hK : Keeps s₀ s) : Keeps s₀ (deliverStep n e s) := by
  unfold deliverStep
  repeat' first
    | with_reducible assumption
    | with_reducible apply moveLanding_ok
    | with_reducible apply dropUnbound_ok
    | with_reducible apply sendMsgs_ok
    | with_reducible apply fabricMove_ok
    | with_reducible apply moveWords_ok
    | with_reducible apply State.pumpEnd_ok

theorem execChannelDelivery_ok {s₀ s s' : State} (n : Fin 16) (e : Fin 128) (hK : Keeps s₀ s) (e : execChannelDelivery n e s = .next s') : Keeps s₀ s' := by
  unfold execChannelDelivery at e
  rw [← next_inj e]
  repeat' first
    | with_reducible assumption
    | with_reducible apply deliverStep_ok
    | with_reducible apply Keeps.ite

theorem cheWrite_ok {s₀ s : State} (src : Src) (n : Nat) (e : Nat) (v : Word) (hK : Keeps s₀ s) : Keeps s₀ (cheWrite src n e v s) := by
  unfold cheWrite
  repeat' first
    | with_reducible assumption
    | with_reducible apply cheCfgWrite_ok
    | with_reducible apply State.pumpEnd_ok

theorem execCheEnable_ok {s₀ s s' : State} (src : Src) (n : Fin 16) (e : Fin 128) (v : Word) (hK : Keeps s₀ s) (e : execCheEnable src n e v s = .next s') : Keeps s₀ s' := by
  unfold execCheEnable at e
  rw [← next_inj e]
  repeat' first
    | intro _
    | with_reducible assumption
    | with_reducible apply State.via_ok
    | with_reducible apply State.gate_ok
    | with_reducible apply cheWrite_ok

theorem execCheDisable_ok {s₀ s s' : State} (src : Src) (n : Fin 16) (e : Fin 128) (v : Word) (hK : Keeps s₀ s) (e : execCheDisable src n e v s = .next s') : Keeps s₀ s' := by
  unfold execCheDisable at e
  rw [← next_inj e]
  repeat' first
    | intro _
    | with_reducible assumption
    | with_reducible apply State.via_ok
    | with_reducible apply State.gate_ok
    | with_reducible apply cheWrite_ok

theorem fifoIn_ok {s₀ s : State} (n : Nat) (e : Nat) (c : Nat) (hK : Keeps s₀ s) : Keeps s₀ (fifoIn n e c s) := by
  unfold fifoIn
  repeat' first
    | with_reducible assumption
    | with_reducible apply State.popStore_ok
    | with_reducible apply State.fifoPut_ok
    | with_reducible apply State.pump_ok
    | with_reducible apply Keeps.ite
    | split

theorem execCloveFifoIn_ok {s₀ s s' : State} (n : Fin 16) (e : Fin 12) (c : Fin 4) (hK : Keeps s₀ s) (e : execCloveFifoIn n e c s = .next s') : Keeps s₀ s' := by
  unfold execCloveFifoIn at e
  rw [← next_inj e]
  repeat' first
    | with_reducible assumption
    | with_reducible apply fifoIn_ok
    | with_reducible apply Keeps.ite

theorem execCloveFifoOut_ok {s₀ s s' : State} (n : Fin 16) (e : Fin 12) (c : Fin 4) (hK : Keeps s₀ s) (e : execCloveFifoOut n e c s = .next s') : Keeps s₀ s' := by
  unfold execCloveFifoOut at e
  rw [← next_inj e]
  repeat' first
    | with_reducible assumption
    | with_reducible apply fifoOut_ok
    | with_reducible apply Keeps.ite

theorem State.dropItem_ok {s₀ s : State} (d : Nat) (hK : Keeps s₀ s) : Keeps s₀ (State.dropItem s d) := by
  unfold State.dropItem
  dsimp only
  repeat' first
    | with_reducible assumption
    | with_reducible apply State.popStores_ok
    | with_reducible apply State.setChan_ok
    | with_reducible apply State.setCdt_ok
    | with_reducible apply State.reply_ok
    | split

theorem State.answerCmd_ok {s₀ s : State} (k : Nat) (i : Nat) (r : Rsp) (hK : Keeps s₀ s) : Keeps s₀ (State.answerCmd s k i r) := by
  unfold State.answerCmd
  repeat' first
    | with_reducible assumption
    | with_reducible apply State.complete_ok
    | with_reducible apply State.hostSettle_ok

theorem State.takeItem_ok {s₀ s : State} (d : Nat) (k : Nat) (i : Nat) (c : Cmd) (b : List Byte) (hK : Keeps s₀ s) : Keeps s₀ (State.takeItem s d k i c b) := by
  unfold State.takeItem
  dsimp only
  repeat' first
    | with_reducible assumption
    | with_reducible apply State.dropItem_ok
    | with_reducible apply State.setCmd_ok
    | with_reducible apply State.answerCmd_ok
    | with_reducible apply Keeps.ite

theorem itemStep_ok {s₀ : State} (d : Nat) : ∀ (z0 : Nat)  {s : State}, Keeps s₀ s → Keeps s₀ (itemStep d z0 s)
  | 0, s, hK => by
    unfold itemStep
    repeat' first
      | with_reducible assumption
  | z0 + 1, s, hK => by
    unfold itemStep
    repeat' first
      | with_reducible apply itemStep_ok
      | with_reducible assumption
      | with_reducible apply State.answerCmd_ok
      | with_reducible apply State.takeItem_ok
      | with_reducible apply Keeps.ite
      | split

theorem execConduitItem_ok {s₀ s s' : State} (d : Fin 4096) (hK : Keeps s₀ s) (e : execConduitItem d s = .next s') : Keeps s₀ s' := by
  unfold execConduitItem at e
  rw [← next_inj e]
  repeat' first
    | with_reducible assumption
    | with_reducible apply itemStep_ok
    | with_reducible apply Keeps.ite

theorem lingerStep_ok {s₀ s : State} (d : Nat) (hK : Keeps s₀ s) : Keeps s₀ (lingerStep d s) := by
  unfold lingerStep
  repeat' first
    | with_reducible assumption
    | with_reducible apply State.answerCmd_ok
    | with_reducible apply Keeps.ite
    | split

theorem execRecvLinger_ok {s₀ s s' : State} (d : Fin 4096) (hK : Keeps s₀ s) (e : execRecvLinger d s = .next s') : Keeps s₀ s' := by
  unfold execRecvLinger at e
  rw [← next_inj e]
  repeat' first
    | with_reducible assumption
    | with_reducible apply lingerStep_ok
    | with_reducible apply Keeps.ite

theorem msgHere_ok {s₀ s : State} (f : Frame) (hK : Keeps s₀ s) : Keeps s₀ (msgHere f s) := by
  unfold msgHere
  dsimp only
  repeat' first
    | with_reducible assumption
    | with_reducible apply State.arrive_ok

theorem ackHere_ok {s₀ s : State} (f : Frame) (hK : Keeps s₀ s) : Keeps s₀ (ackHere f s) := by
  unfold ackHere
  dsimp only
  repeat' first
    | with_reducible assumption
    | with_reducible apply State.settleReply_ok
    | with_reducible apply sendMsgs_ok
    | with_reducible apply State.pump_ok
    | with_reducible apply Keeps.ite

theorem msgLostStep_ok {s₀ s : State} (sender : MsgSender) (hK : Keeps s₀ s) : Keeps s₀ (msgLostStep sender s) := by
  unfold msgLostStep
  dsimp only
  repeat' first
    | with_reducible assumption
    | with_reducible apply sendMsgs_ok
    | with_reducible apply State.settleEnd_ok
    | with_reducible apply State.cascEntry_ok
    | with_reducible apply State.settleCdt_ok
    | with_reducible apply State.pump_ok
    | split

theorem execMsgLost_ok {s₀ s s' : State} (sender : MsgSender) (hK : Keeps s₀ s) (e : execMsgLost sender s = .next s') : Keeps s₀ s' := by
  unfold execMsgLost at e
  rw [← next_inj e]
  repeat' first
    | with_reducible assumption
    | with_reducible apply msgLostStep_ok
    | with_reducible apply Keeps.ite

end Sys2Proof.Machine
end

