-- ==== Sys2Proof/Laws/KeepCascade.lean ====
section
/-! SUPPORT. The operations of Machine/Cascade.lean keep the queue and the invariant: one lemma each, for chains of `Keeps`. -/
namespace Sys2Proof.Machine

theorem State.pull_ok {s₀ s : State} (pin k : Nat) (h : Keeps s₀ s) : Keeps s₀ (s.pull pin k) :=
  State.letGo_ok _ (h.sideband (tabSet_wf _ _ _ _))

theorem State.sendSync_ok {s₀ s : State} (p : Nat) (hK : Keeps s₀ s) : Keeps s₀ (State.sendSync s p) := by
  unfold State.sendSync
  dsimp only
  repeat' first
    | with_reducible assumption
    | with_reducible apply State.enqueue_ok

theorem State.unroot_ok {s₀ s : State} (hK : Keeps s₀ s) : Keeps s₀ (State.unroot s) := by
  unfold State.unroot
  dsimp only
  repeat' first
    | intro _
    | with_reducible assumption
    | with_reducible apply State.setCasc_ok
    | with_reducible apply State.setTimeOk_ok
    | with_reducible apply State.sendSync_ok
    | with_reducible apply foldl_ok

theorem State.sendHello_ok {s₀ s : State} (p : Nat) (hK : Keeps s₀ s) : Keeps s₀ (State.sendHello s p) := by
  unfold State.sendHello
  dsimp only
  repeat' first
    | with_reducible assumption
    | with_reducible apply State.enqueue_ok
    | with_reducible apply State.setLport_ok

theorem State.sendRefuse_ok {s₀ s : State} (p : Nat) (code : Nat) (hK : Keeps s₀ s) : Keeps s₀ (State.sendRefuse s p code) := by
  unfold State.sendRefuse
  repeat' first
    | with_reducible assumption
    | with_reducible apply State.enqueue_ok

theorem State.sendNodes_ok {s₀ s : State} (hK : Keeps s₀ s) : Keeps s₀ (State.sendNodes s) := by
  unfold State.sendNodes
  repeat' first
    | with_reducible assumption
    | with_reducible apply State.sendDown_ok

theorem State.sweepFrom_ok {s₀ s : State} (p : Nat) (w : Sweep) (hK : Keeps s₀ s) : Keeps s₀ (State.sweepFrom s p w) := by
  unfold State.sweepFrom
  dsimp only
  repeat' first
    | with_reducible assumption
    | with_reducible apply State.setCasc_ok
    | with_reducible apply State.enqueue_ok
    | with_reducible apply State.sendNodes_ok
    | split

theorem State.sweepOn_ok {s₀ s : State} (p : Nat) (next : Nat) (hK : Keeps s₀ s) : Keeps s₀ (State.sweepOn s p next) := by
  unfold State.sweepOn
  repeat' first
    | with_reducible assumption
    | with_reducible apply State.sweepFrom_ok
    | with_reducible apply Keeps.ite
    | split

theorem State.startSweep_ok {s₀ s : State} (hK : Keeps s₀ s) : Keeps s₀ (State.startSweep s) := by
  unfold State.startSweep
  dsimp only
  repeat' first
    | with_reducible assumption
    | with_reducible apply State.setCasc_ok
    | with_reducible apply State.sweepFrom_ok

theorem sweepStep_ok {s₀ s : State} (hK : Keeps s₀ s) : Keeps s₀ (sweepStep s) := by
  unfold sweepStep
  dsimp only
  repeat' first
    | with_reducible assumption
    | with_reducible apply State.startSweep_ok
    | with_reducible apply State.setCasc_ok
    | with_reducible apply Keeps.ite

theorem execSweep_ok {s₀ s s' : State} (hK : Keeps s₀ s) (e : execSweep s = .next s') : Keeps s₀ s' := by
  unfold execSweep at e
  rw [← next_inj e]
  repeat' first
    | with_reducible assumption
    | with_reducible apply sweepStep_ok
    | with_reducible apply Keeps.ite

theorem State.grantFwd_ok {s₀ s : State} (hK : Keeps s₀ s) : Keeps s₀ (State.grantFwd s) := by
  unfold State.grantFwd
  dsimp only
  repeat' first
    | with_reducible assumption
    | with_reducible apply State.setCasc_ok
    | with_reducible apply State.sendTo_ok
    | with_reducible apply Keeps.ite
    | split

theorem State.dropFwds_ok {s₀ s : State} (p : Nat) (hK : Keeps s₀ s) : Keeps s₀ (State.dropFwds s p) := by
  unfold State.dropFwds
  dsimp only
  repeat' first
    | with_reducible assumption
    | with_reducible apply State.setCasc_ok
    | with_reducible apply State.grantFwd_ok

theorem State.portReset_ok {s₀ s : State} (p : Nat) (cause : Nat) (hK : Keeps s₀ s) : Keeps s₀ (State.portReset s p cause) := by
  unfold State.portReset
  dsimp only
  repeat' first
    | with_reducible assumption
    | with_reducible apply State.dropFwds_ok
    | with_reducible apply State.setLport_ok
    | with_reducible apply State.pull_ok
    | with_reducible apply State.cascEntry_ok
    | with_reducible apply State.portState_ok
    | with_reducible apply State.unroot_ok
    | with_reducible apply State.sweepOn_ok
    | with_reducible apply Keeps.ite

theorem State.bringUp_ok {s₀ s : State} (p : Nat) (hK : Keeps s₀ s) : Keeps s₀ (State.bringUp s p) := by
  unfold State.bringUp
  dsimp only
  repeat' first
    | with_reducible assumption
    | with_reducible apply State.setLport_ok
    | with_reducible apply State.portState_ok
    | with_reducible apply Keeps.ite

theorem lpCtlWrite_ok {s₀ s : State} (src : Src) (p : Nat) (v : Word) (hK : Keeps s₀ s) : Keeps s₀ (lpCtlWrite src p v s) := by
  unfold lpCtlWrite
  dsimp only
  repeat' first
    | with_reducible assumption
    | with_reducible apply State.refuse_ok
    | with_reducible apply State.setReg_ok
    | with_reducible apply State.setLport_ok
    | with_reducible apply State.bringUp_ok
    | with_reducible apply State.portReset_ok
    | with_reducible apply Keeps.ite

theorem execLinkPortEnable_ok {s₀ s s' : State} (p : Fin 4) (v : Word) (hK : Keeps s₀ s) (e : execLinkPortEnable p v s = .next s') : Keeps s₀ s' := by
  unfold execLinkPortEnable at e
  rw [← next_inj e]
  repeat' first
    | with_reducible assumption
    | with_reducible apply lpCtlWrite_ok
    | with_reducible apply Keeps.ite

theorem phyStep_ok {s₀ s : State} (p : Nat) (up : Bool) (hK : Keeps s₀ s) : Keeps s₀ (phyStep p up s) := by
  unfold phyStep
  dsimp only
  repeat' first
    | with_reducible assumption
    | with_reducible apply State.setLport_ok
    | with_reducible apply State.bringUp_ok
    | with_reducible apply State.portReset_ok
    | with_reducible apply Keeps.ite

theorem execPhyUp_ok {s₀ s s' : State} (p : Fin 4) (up : Bool) (hK : Keeps s₀ s) (e : execPhyUp p up s = .next s') : Keeps s₀ s' := by
  unfold execPhyUp at e
  rw [← next_inj e]
  repeat' first
    | with_reducible assumption
    | with_reducible apply phyStep_ok

theorem silenceStep_ok {s₀ s : State} (p : Nat) (hK : Keeps s₀ s) : Keeps s₀ (silenceStep p s) := by
  unfold silenceStep
  repeat' first
    | with_reducible assumption
    | with_reducible apply State.portReset_ok
    | with_reducible apply Keeps.ite

theorem execLinkSilence_ok {s₀ s s' : State} (p : Fin 4) (hK : Keeps s₀ s) (e : execLinkSilence p s = .next s') : Keeps s₀ s' := by
  unfold execLinkSilence at e
  rw [← next_inj e]
  repeat' first
    | with_reducible assumption
    | with_reducible apply silenceStep_ok
    | with_reducible apply Keeps.ite

theorem aliveStep_ok {s₀ s : State} (p : Nat) (hK : Keeps s₀ s) : Keeps s₀ (aliveStep p s) := by
  unfold aliveStep
  repeat' first
    | with_reducible assumption
    | with_reducible apply State.portReset_ok
    | with_reducible apply Keeps.ite

theorem execSbAliveLow_ok {s₀ s s' : State} (p : Fin 4) (hK : Keeps s₀ s) (e : execSbAliveLow p s = .next s') : Keeps s₀ s' := by
  unfold execSbAliveLow at e
  rw [← next_inj e]
  repeat' first
    | with_reducible assumption
    | with_reducible apply aliveStep_ok
    | with_reducible apply Keeps.ite

theorem badFrame_ok {s₀ s : State} (p : Nat) (hK : Keeps s₀ s) : Keeps s₀ (badFrame p s) := by
  unfold badFrame
  dsimp only
  repeat' first
    | with_reducible assumption
    | with_reducible apply State.setLport_ok
    | with_reducible apply State.portReset_ok
    | with_reducible apply Keeps.ite

theorem linkResetStep_ok {s₀ s : State} (p : Nat) (cause : LinkCause) (hK : Keeps s₀ s) : Keeps s₀ (linkResetStep p cause s) := by
  unfold linkResetStep
  repeat' first
    | with_reducible assumption
    | with_reducible apply lpCtlWrite_ok
    | with_reducible apply phyStep_ok
    | with_reducible apply badFrame_ok
    | with_reducible apply silenceStep_ok
    | with_reducible apply aliveStep_ok
    | split

theorem execLinkReset_ok {s₀ s s' : State} (p : Fin 4) (cause : LinkCause) (hK : Keeps s₀ s) (e : execLinkReset p cause s = .next s') : Keeps s₀ s' := by
  unfold execLinkReset at e
  rw [← next_inj e]
  repeat' first
    | with_reducible assumption
    | with_reducible apply linkResetStep_ok
    | with_reducible apply Keeps.ite

theorem resetReleaseStep_ok {s₀ s : State} (p : Nat) (hK : Keeps s₀ s) : Keeps s₀ (resetReleaseStep p s) := by
  unfold resetReleaseStep
  dsimp only
  repeat' first
    | with_reducible assumption
    | with_reducible apply State.bringUp_ok
    | with_reducible apply Keeps.ite
    | split

theorem execLinkResetRelease_ok {s₀ s s' : State} (p : Fin 4) (hK : Keeps s₀ s) (e : execLinkResetRelease p s = .next s') : Keeps s₀ s' := by
  unfold execLinkResetRelease at e
  rw [← next_inj e]
  repeat' first
    | with_reducible assumption
    | with_reducible apply resetReleaseStep_ok
    | with_reducible apply Keeps.ite

theorem keepaliveStep_ok {s₀ s : State} (p : Nat) (hK : Keeps s₀ s) : Keeps s₀ (keepaliveStep p s) := by
  unfold keepaliveStep
  dsimp only
  repeat' first
    | with_reducible assumption
    | with_reducible apply State.enqueue_ok
    | with_reducible apply Keeps.ite

theorem execLinkKeepalive_ok {s₀ s s' : State} (p : Fin 4) (hK : Keeps s₀ s) (e : execLinkKeepalive p s = .next s') : Keeps s₀ s' := by
  unfold execLinkKeepalive at e
  rw [← next_inj e]
  repeat' first
    | with_reducible assumption
    | with_reducible apply keepaliveStep_ok
    | with_reducible apply Keeps.ite

theorem helloSendStep_ok {s₀ s : State} (p : Nat) (hK : Keeps s₀ s) : Keeps s₀ (helloSendStep p s) := by
  unfold helloSendStep
  dsimp only
  repeat' first
    | with_reducible assumption
    | with_reducible apply State.sendHello_ok
    | with_reducible apply Keeps.ite

theorem execHelloSend_ok {s₀ s s' : State} (p : Fin 4) (hK : Keeps s₀ s) (e : execHelloSend p s = .next s') : Keeps s₀ s' := by
  unfold execHelloSend at e
  rw [← next_inj e]
  repeat' first
    | with_reducible assumption
    | with_reducible apply helloSendStep_ok
    | with_reducible apply Keeps.ite

theorem rxFrame_ok {s₀ s : State} (t : Nat) (p : Nat) (f : Frame) (body : State → State) (hbody : ∀ x, Keeps s₀ x → Keeps s₀ (body x)) (hK : Keeps s₀ s) : Keeps s₀ (rxFrame t p f body s) := by
  unfold rxFrame
  repeat' first
    | with_reducible assumption
    | with_reducible apply State.portReset_ok
    | with_reducible apply State.received_ok
    | with_reducible apply hbody
    | with_reducible apply Keeps.ite

theorem State.dropFrame_ok {s₀ s : State} (p : Nat) (hK : Keeps s₀ s) : Keeps s₀ (State.dropFrame s p) := by
  unfold State.dropFrame
  dsimp only
  repeat' first
    | with_reducible assumption
    | with_reducible apply State.setLport_ok

theorem routed_ok {s₀ s : State} (t : Nat) (p : Nat) (f : Frame) (here : State → State) (hhere : ∀ x, Keeps s₀ x → Keeps s₀ (here x)) (hK : Keeps s₀ s) : Keeps s₀ (routed t p f here s) := by
  unfold routed
  repeat' first
    | intro _
    | with_reducible assumption
    | with_reducible apply rxFrame_ok
    | with_reducible apply State.dropFrame_ok
    | with_reducible apply State.enqueue_ok
    | with_reducible apply hhere
    | with_reducible apply Keeps.ite
    | split

theorem State.settlePair_ok {s₀ s : State} (p : Nat) (rooted : Bool) (tag : Nat) (hK : Keeps s₀ s) : Keeps s₀ (State.settlePair s p rooted tag) := by
  unfold State.settlePair
  dsimp only
  repeat' first
    | with_reducible assumption
    | with_reducible apply State.portState_ok
    | with_reducible apply State.cascEntry_ok
    | with_reducible apply State.sendRefuse_ok
    | with_reducible apply Keeps.ite

theorem helloStep_ok {s₀ s : State} (p : Nat) (f : Frame) (hK : Keeps s₀ s) : Keeps s₀ (helloStep p f s) := by
  unfold helloStep
  dsimp only
  repeat' first
    | with_reducible assumption
    | with_reducible apply State.sendHello_ok
    | with_reducible apply State.setLport_ok
    | with_reducible apply State.sendRefuse_ok
    | with_reducible apply State.portState_ok
    | with_reducible apply State.cascEntry_ok
    | with_reducible apply State.settlePair_ok
    | with_reducible apply Keeps.ite
    | split

theorem execHello_ok {s₀ s s' : State} (p : Fin 4) (f : Frame) (hK : Keeps s₀ s) (e : execHello p f s = .next s') : Keeps s₀ s' := by
  unfold execHello at e
  rw [← next_inj e]
  repeat' first
    | intro _
    | with_reducible assumption
    | with_reducible apply rxFrame_ok
    | with_reducible apply helloStep_ok

theorem State.askFwd_ok {s₀ s : State} (hK : Keeps s₀ s) : Keeps s₀ (State.askFwd s) := by
  unfold State.askFwd
  repeat' first
    | with_reducible assumption
    | with_reducible apply State.sendTo_ok
    | with_reducible apply Keeps.ite

theorem clearRoutes_ok {s₀ s : State} (p : Nat) (hK : Keeps s₀ s) : Keeps s₀ (clearRoutes s p) := by
  unfold clearRoutes
  dsimp only
  repeat' first
    | with_reducible assumption
    | with_reducible apply State.setLport_ok

theorem State.orphanAgain_ok {s₀ s : State} (hK : Keeps s₀ s) : Keeps s₀ (State.orphanAgain s) := by
  unfold State.orphanAgain
  dsimp only
  repeat' first
    | with_reducible assumption
    | with_reducible apply State.setCasc_ok
    | with_reducible apply State.cascEntry_ok
    | split

theorem State.takeAssign_ok {s₀ s : State} (p : Nat) (f : Frame) (hK : Keeps s₀ s) : Keeps s₀ (State.takeAssign s p f) := by
  unfold State.takeAssign
  dsimp only
  repeat' first
    | intro _
    | with_reducible assumption
    | with_reducible apply clearRoutes_ok
    | with_reducible apply State.setLport_ok
    | with_reducible apply State.setCasc_ok
    | with_reducible apply State.portState_ok
    | with_reducible apply State.sweepFrom_ok
    | with_reducible apply State.orphanAgain_ok
    | with_reducible apply State.askFwd_ok
    | with_reducible apply foldl_ok

theorem assignStep_ok {s₀ s : State} (p : Nat) (f : Frame) (hK : Keeps s₀ s) : Keeps s₀ (assignStep p f s) := by
  unfold assignStep
  dsimp only
  repeat' first
    | with_reducible assumption
    | with_reducible apply State.sendRefuse_ok
    | with_reducible apply State.cascEntry_ok
    | with_reducible apply State.takeAssign_ok
    | with_reducible apply Keeps.ite

theorem execAssign_ok {s₀ s s' : State} (p : Fin 4) (f : Frame) (hK : Keeps s₀ s) (e : execAssign p f s = .next s') : Keeps s₀ s' := by
  unfold execAssign at e
  rw [← next_inj e]
  repeat' first
    | intro _
    | with_reducible assumption
    | with_reducible apply rxFrame_ok
    | with_reducible apply assignStep_ok

theorem doneStep_ok {s₀ s : State} (p : Nat) (f : Frame) (hK : Keeps s₀ s) : Keeps s₀ (doneStep p f s) := by
  unfold doneStep
  dsimp only
  repeat' first
    | with_reducible assumption
    | with_reducible apply State.setCasc_ok
    | with_reducible apply State.sendNodes_ok
    | with_reducible apply State.setLport_ok
    | with_reducible apply State.portState_ok
    | with_reducible apply State.sweepOn_ok
    | with_reducible apply Keeps.ite
    | split

theorem execDone_ok {s₀ s s' : State} (p : Fin 4) (f : Frame) (hK : Keeps s₀ s) (e : execDone p f s = .next s') : Keeps s₀ s' := by
  unfold execDone at e
  rw [← next_inj e]
  repeat' first
    | intro _
    | with_reducible assumption
    | with_reducible apply rxFrame_ok
    | with_reducible apply doneStep_ok

theorem State.refusedTo_ok {s₀ s : State} (p : Nat) (st : Nat) (hK : Keeps s₀ s) : Keeps s₀ (State.refusedTo s p st) := by
  unfold State.refusedTo
  dsimp only
  repeat' first
    | with_reducible assumption
    | with_reducible apply State.portState_ok
    | with_reducible apply State.unroot_ok
    | with_reducible apply State.sweepOn_ok
    | with_reducible apply Keeps.ite

theorem refuseStep_ok {s₀ s : State} (p : Nat) (f : Frame) (hK : Keeps s₀ s) : Keeps s₀ (refuseStep p f s) := by
  unfold refuseStep
  dsimp only
  repeat' first
    | with_reducible assumption
    | with_reducible apply State.cascEntry_ok
    | with_reducible apply State.refusedTo_ok
    | with_reducible apply Keeps.ite

theorem execRefuse_ok {s₀ s s' : State} (p : Fin 4) (f : Frame) (hK : Keeps s₀ s) (e : execRefuse p f s = .next s') : Keeps s₀ s' := by
  unfold execRefuse at e
  rw [← next_inj e]
  repeat' first
    | intro _
    | with_reducible assumption
    | with_reducible apply rxFrame_ok
    | with_reducible apply refuseStep_ok

theorem creditStep_ok {s₀ s : State} (p : Nat) (f : Frame) (hK : Keeps s₀ s) : Keeps s₀ (creditStep p f s) := by
  unfold creditStep
  dsimp only
  repeat' first
    | with_reducible assumption
    | with_reducible apply State.setLport_ok

theorem execCredit_ok {s₀ s s' : State} (p : Fin 4) (f : Frame) (hK : Keeps s₀ s) (e : execCredit p f s = .next s') : Keeps s₀ s' := by
  unfold execCredit at e
  rw [← next_inj e]
  repeat' first
    | intro _
    | with_reducible assumption
    | with_reducible apply rxFrame_ok
    | with_reducible apply creditStep_ok

theorem creditReturnStep_ok {s₀ s : State} (p : Nat) (hK : Keeps s₀ s) : Keeps s₀ (creditReturnStep p s) := by
  unfold creditReturnStep
  dsimp only
  repeat' first
    | with_reducible assumption
    | with_reducible apply State.setLport_ok
    | with_reducible apply State.enqueue_ok
    | with_reducible apply Keeps.ite

theorem execCreditReturn_ok {s₀ s s' : State} (p : Fin 4) (hK : Keeps s₀ s) (e : execCreditReturn p s = .next s') : Keeps s₀ s' := by
  unfold execCreditReturn at e
  rw [← next_inj e]
  repeat' first
    | with_reducible assumption
    | with_reducible apply creditReturnStep_ok
    | with_reducible apply Keeps.ite

theorem syncPulseStep_ok {s₀ s : State} (p : Nat) (hK : Keeps s₀ s) : Keeps s₀ (syncPulseStep p s) := by
  unfold syncPulseStep
  dsimp only
  repeat' first
    | with_reducible assumption
    | with_reducible apply State.setLport_ok
    | with_reducible apply State.pull_ok
    | with_reducible apply Keeps.ite

theorem execSyncPulse_ok {s₀ s s' : State} (p : Fin 4) (hK : Keeps s₀ s) (e : execSyncPulse p s = .next s') : Keeps s₀ s' := by
  unfold execSyncPulse at e
  rw [← next_inj e]
  repeat' first
    | with_reducible assumption
    | with_reducible apply syncPulseStep_ok
    | with_reducible apply Keeps.ite

theorem syncCaptureStep_ok {s₀ s : State} (p : Nat) (hK : Keeps s₀ s) : Keeps s₀ (syncCaptureStep p s) := by
  unfold syncCaptureStep
  dsimp only
  repeat' first
    | with_reducible assumption
    | with_reducible apply State.setLport_ok
    | with_reducible apply State.sendSync_ok
    | with_reducible apply Keeps.ite

theorem execSyncCapture_ok {s₀ s s' : State} (p : Fin 4) (hK : Keeps s₀ s) (e : execSyncCapture p s = .next s') : Keeps s₀ s' := by
  unfold execSyncCapture at e
  rw [← next_inj e]
  repeat' first
    | with_reducible assumption
    | with_reducible apply syncCaptureStep_ok
    | with_reducible apply Keeps.ite

theorem State.measure_ok {s₀ s : State} (d : Int) (hK : Keeps s₀ s) : Keeps s₀ (State.measure s d) := by
  unfold State.measure
  dsimp only
  repeat' first
    | with_reducible assumption
    | with_reducible apply State.setCasc_ok
    | with_reducible apply State.setTimeOk_ok
    | with_reducible apply Keeps.ite

theorem syncStep_ok {s₀ s : State} (p : Nat) (f : Frame) (hK : Keeps s₀ s) : Keeps s₀ (syncStep p f s) := by
  unfold syncStep
  dsimp only
  repeat' first
    | with_reducible assumption
    | with_reducible apply State.portState_ok
    | with_reducible apply State.unroot_ok
    | with_reducible apply State.measure_ok
    | with_reducible apply Keeps.ite
    | split

theorem execSync_ok {s₀ s s' : State} (p : Fin 4) (f : Frame) (hK : Keeps s₀ s) (e : execSync p f s = .next s') : Keeps s₀ s' := by
  unfold execSync at e
  rw [← next_inj e]
  repeat' first
    | intro _
    | with_reducible assumption
    | with_reducible apply rxFrame_ok
    | with_reducible apply syncStep_ok

theorem correctionStep_ok {s₀ s : State} (h : Keeps s₀ s) : Keeps s₀ (correctionStep s) := by
  unfold correctionStep
  refine Keeps.ite h ?_
  dsimp only
  refine Keeps.clk (Keeps.ite (State.setCasc_ok _ h) (Keeps.ports (State.setCasc_ok _ h) (tabMap_wf _ _ _ _))) fun i =>
    ⟨Nat.mod_lt _ (Nat.two_pow_pos 64), ?_⟩
  revert i
  split <;> exact fun i => i.2

theorem execTimeCorrection_ok {s₀ s s' : State} (hK : Keeps s₀ s) (e : execTimeCorrection s = .next s') : Keeps s₀ s' := by
  unfold execTimeCorrection at e
  rw [← next_inj e]
  repeat' first
    | with_reducible assumption
    | with_reducible apply correctionStep_ok

theorem execMsg_ok {s₀ s s' : State} (p : Fin 4) (f : Frame) (hK : Keeps s₀ s) (e : execMsg p f s = .next s') : Keeps s₀ s' := by
  unfold execMsg at e
  rw [← next_inj e]
  repeat' first
    | intro _
    | with_reducible assumption
    | with_reducible apply routed_ok
    | with_reducible apply msgHere_ok

theorem execAck_ok {s₀ s s' : State} (p : Fin 4) (f : Frame) (hK : Keeps s₀ s) (e : execAck p f s = .next s') : Keeps s₀ s' := by
  unfold execAck at e
  rw [← next_inj e]
  repeat' first
    | intro _
    | with_reducible assumption
    | with_reducible apply routed_ok
    | with_reducible apply ackHere_ok

theorem cfFrame_ok {s₀ s : State} (sub : Nat) (p : Nat) (f : Frame) (up : Bool) (body : State → State) (hbody : ∀ x, Keeps s₀ x → Keeps s₀ (body x)) (hK : Keeps s₀ s) : Keeps s₀ (cfFrame sub p f up body s) := by
  unfold cfFrame
  repeat' first
    | intro _
    | with_reducible assumption
    | with_reducible apply routed_ok
    | with_reducible apply hbody
    | with_reducible apply Keeps.ite

theorem execCfrzPrepare_ok {s₀ s s' : State} (p : Fin 4) (f : Frame) (hK : Keeps s₀ s) (e : execCfrzPrepare p f s = .next s') : Keeps s₀ s' := by
  unfold execCfrzPrepare at e
  rw [← next_inj e]
  repeat' first
    | intro _
    | with_reducible assumption
    | with_reducible apply cfFrame_ok
    | with_reducible apply cfPrepare_ok

theorem execCfrzVote_ok {s₀ s s' : State} (p : Fin 4) (f : Frame) (hK : Keeps s₀ s) (e : execCfrzVote p f s = .next s') : Keeps s₀ s' := by
  unfold execCfrzVote at e
  rw [← next_inj e]
  repeat' first
    | intro _
    | with_reducible assumption
    | with_reducible apply cfFrame_ok
    | with_reducible apply cfVote_ok

theorem execCfrzDrain_ok {s₀ s s' : State} (p : Fin 4) (f : Frame) (hK : Keeps s₀ s) (e : execCfrzDrain p f s = .next s') : Keeps s₀ s' := by
  unfold execCfrzDrain at e
  rw [← next_inj e]
  repeat' first
    | intro _
    | with_reducible assumption
    | with_reducible apply cfFrame_ok
    | with_reducible apply cfDrain_ok

theorem execCfrzDrained_ok {s₀ s s' : State} (p : Fin 4) (f : Frame) (hK : Keeps s₀ s) (e : execCfrzDrained p f s = .next s') : Keeps s₀ s' := by
  unfold execCfrzDrained at e
  rw [← next_inj e]
  repeat' first
    | intro _
    | with_reducible assumption
    | with_reducible apply cfFrame_ok
    | with_reducible apply cfDrained_ok

theorem execCfrzCommit_ok {s₀ s s' : State} (p : Fin 4) (f : Frame) (hK : Keeps s₀ s) (e : execCfrzCommit p f s = .next s') : Keeps s₀ s' := by
  unfold execCfrzCommit at e
  rw [← next_inj e]
  repeat' first
    | intro _
    | with_reducible assumption
    | with_reducible apply cfFrame_ok
    | with_reducible apply cfCommit_ok

theorem execCfrzAbort_ok {s₀ s s' : State} (p : Fin 4) (f : Frame) (hK : Keeps s₀ s) (e : execCfrzAbort p f s = .next s') : Keeps s₀ s' := by
  unfold execCfrzAbort at e
  rw [← next_inj e]
  repeat' first
    | intro _
    | with_reducible assumption
    | with_reducible apply cfFrame_ok
    | with_reducible apply cfAbort_ok

theorem execCfrzVoteLimit_ok {s₀ s s' : State} (hK : Keeps s₀ s) (e : execCfrzVoteLimit s = .next s') : Keeps s₀ s' := by
  unfold execCfrzVoteLimit at e
  rw [← next_inj e]
  repeat' first
    | with_reducible assumption
    | with_reducible apply cfVoteLimit_ok
    | with_reducible apply Keeps.ite

theorem execCfrzOrphan_ok {s₀ s s' : State} (hK : Keeps s₀ s) (e : execCfrzOrphan s = .next s') : Keeps s₀ s' := by
  unfold execCfrzOrphan at e
  rw [← next_inj e]
  repeat' first
    | with_reducible assumption
    | with_reducible apply cfOrphan_ok
    | with_reducible apply Keeps.ite

theorem State.sendClose_ok {s₀ s : State} (c : Nat) (hK : Keeps s₀ s) : Keeps s₀ (State.sendClose s c) := by
  unfold State.sendClose
  repeat' first
    | intro _
    | with_reducible assumption
    | with_reducible apply State.enqueue_ok
    | with_reducible apply foldl_ok

theorem State.askClose_ok {s₀ s : State} (hK : Keeps s₀ s) : Keeps s₀ (State.askClose s).2 := by
  unfold State.askClose
  dsimp only
  repeat' first
    | with_reducible assumption
    | with_reducible apply State.setMeas_ok
    | with_reducible apply State.sendClose_ok
    | split

theorem State.askClose_eq {s₀ s s' : State}  {v} (e : State.askClose s = (v, s')) (hK : Keeps s₀ s) : Keeps s₀ s' := by
  have := State.askClose_ok (s₀ := s₀) hK
  rw [e] at this
  exact this

theorem gmCtlWrite_ok {s₀ s : State} (src : Src) (v : Word) (hK : Keeps s₀ s) : Keeps s₀ (gmCtlWrite src v s) := by
  unfold gmCtlWrite
  repeat' first
    | with_reducible assumption
    | with_reducible apply State.askClose_eq (by with_reducible assumption)
    | with_reducible apply State.refuse_ok
    | with_reducible apply Keeps.ite
    | split

theorem execGmClose_ok {s₀ s s' : State} (hK : Keeps s₀ s) (e : execGmClose s = .next s') : Keeps s₀ s' := by
  unfold execGmClose at e
  rw [← next_inj e]
  repeat' first
    | with_reducible assumption
    | with_reducible apply gmCtlWrite_ok
    | with_reducible apply Keeps.ite

theorem endRecClose_ok {s₀ : State} (seq : Nat) (c : Nat) (code : Nat) : ∀ (z0 : Nat)  {s : State}, Keeps s₀ s → Keeps s₀ (endRecClose seq c code z0 s)
  | 0, s, hK => by
    unfold endRecClose
    repeat' first
      | with_reducible assumption
  | z0 + 1, s, hK => by
    unfold endRecClose
    repeat' first
      | with_reducible apply endRecClose_ok
      | with_reducible assumption
      | with_reducible apply State.answerCmd_ok
      | with_reducible apply State.failCmd_ok
      | with_reducible apply Keeps.ite
      | split

theorem recordCloseStep_ok {s₀ s : State} (fill : MorEntry → MorEntry) (hK : Keeps s₀ s) : Keeps s₀ (recordCloseStep fill s) := by
  unfold recordCloseStep
  dsimp only
  repeat' first
    | with_reducible assumption
    | with_reducible apply State.setMeas_ok
    | with_reducible apply State.refuse_ok
    | with_reducible apply State.closeRecord_ok
    | with_reducible apply endRecClose_ok
    | with_reducible apply Keeps.ite
    | split

theorem rcloseStep_ok {s₀ s : State} (p : Nat) (f : Frame) (hK : Keeps s₀ s) : Keeps s₀ (rcloseStep p f s) := by
  unfold rcloseStep
  dsimp only
  repeat' first
    | with_reducible assumption
    | with_reducible apply State.sendClose_ok
    | with_reducible apply State.setMeas_ok
    | with_reducible apply Keeps.ite

theorem execRclose_ok {s₀ s s' : State} (p : Fin 4) (f : Frame) (hK : Keeps s₀ s) (e : execRclose p f s = .next s') : Keeps s₀ s' := by
  unfold execRclose at e
  rw [← next_inj e]
  repeat' first
    | intro _
    | with_reducible assumption
    | with_reducible apply routed_ok
    | with_reducible apply rcloseStep_ok

theorem signAndForward_ok {s₀ s : State} (key : Option Digest) (fill : MorEntry → MorEntry) (hK : Keeps s₀ s) : Keeps s₀ (signAndForward key fill s) := by
  unfold signAndForward
  dsimp only
  repeat' first
    | with_reducible assumption
    | with_reducible apply signStep_ok
    | with_reducible apply State.setCasc_ok
    | with_reducible apply State.askFwd_ok
    | with_reducible apply Keeps.ite
    | split

theorem sendRec_ok {s₀ : State} (o : Nat) : ∀ (z0 : Nat) (z1 : List Byte) {s : State}, Keeps s₀ s → Keeps s₀ (sendRec o z0 z1 s)
  | 0, z1, s, hK => by
    unfold sendRec
    repeat' first
      | with_reducible assumption
  | z0 + 1, z1, s, hK => by
    unfold sendRec
    dsimp only
    repeat' first
      | with_reducible apply sendRec_ok
      | with_reducible assumption
      | with_reducible apply State.sendTo_ok
      | with_reducible apply Keeps.ite

theorem State.fwdWhole_ok {s₀ s : State} (f : Fwd) (hK : Keeps s₀ s) : Keeps s₀ (State.fwdWhole s f) := by
  unfold State.fwdWhole
  dsimp only
  repeat' first
    | with_reducible assumption
    | with_reducible apply State.queueNotice_ok
    | with_reducible apply State.setCasc_ok
    | with_reducible apply State.grantFwd_ok
    | with_reducible apply Keeps.ite

theorem rfwdStep_ok {s₀ s : State} (f : Frame) (hK : Keeps s₀ s) : Keeps s₀ (rfwdStep f s) := by
  unfold rfwdStep
  dsimp only
  repeat' first
    | with_reducible assumption
    | with_reducible apply State.setCasc_ok
    | with_reducible apply State.grantFwd_ok
    | with_reducible apply State.fwdWhole_ok
    | with_reducible apply Keeps.ite
    | split

theorem execRfwd_ok {s₀ s s' : State} (p : Fin 4) (f : Frame) (hK : Keeps s₀ s) (e : execRfwd p f s = .next s') : Keeps s₀ s' := by
  unfold execRfwd at e
  rw [← next_inj e]
  repeat' first
    | intro _
    | with_reducible assumption
    | with_reducible apply routed_ok
    | with_reducible apply rfwdStep_ok

theorem rackStep_ok {s₀ s : State} (f : Frame) (hK : Keeps s₀ s) : Keeps s₀ (rackStep f s) := by
  unfold rackStep
  dsimp only
  repeat' first
    | with_reducible assumption
    | with_reducible apply State.setCasc_ok
    | with_reducible apply sendRec_ok
    | with_reducible apply Keeps.ite
    | split

theorem execRack_ok {s₀ s s' : State} (p : Fin 4) (f : Frame) (hK : Keeps s₀ s) (e : execRack p f s = .next s') : Keeps s₀ s' := by
  unfold execRack at e
  rw [← next_inj e]
  repeat' first
    | intro _
    | with_reducible assumption
    | with_reducible apply routed_ok
    | with_reducible apply rackStep_ok

theorem State.fwdDone_ok {s₀ s : State} (x : Notice) (hK : Keeps s₀ s) : Keeps s₀ (State.fwdDone s x) := by
  unfold State.fwdDone
  dsimp only
  repeat' first
    | with_reducible assumption
    | with_reducible apply State.setCasc_ok
    | with_reducible apply State.sendTo_ok
    | with_reducible apply State.offer_ok
    | with_reducible apply State.grantFwd_ok
    | split

theorem State.fwdBack_ok {s₀ s : State} (x : Notice) (hK : Keeps s₀ s) : Keeps s₀ (State.fwdBack s x) := by
  unfold State.fwdBack
  dsimp only
  repeat' first
    | with_reducible assumption
    | with_reducible apply State.setCasc_ok

theorem noticeAndDone_ok {s₀ s : State} (hK : Keeps s₀ s) : Keeps s₀ (noticeAndDone s) := by
  unfold noticeAndDone
  dsimp only
  repeat' first
    | with_reducible assumption
    | with_reducible apply noticeStep_ok
    | with_reducible apply State.fwdDone_ok
    | with_reducible apply State.fwdBack_ok
    | with_reducible apply Keeps.ite
    | split

theorem execNoticeWrite_ok {s₀ s s' : State} (hK : Keeps s₀ s) (e : execNoticeWrite s = .next s') : Keeps s₀ s' := by
  unfold execNoticeWrite at e
  rw [← next_inj e]
  repeat' first
    | with_reducible assumption
    | with_reducible apply noticeAndDone_ok
    | with_reducible apply Keeps.ite

end Sys2Proof.Machine
end

