-- ==== Sys2Proof/Laws/KeepDebug.lean ====
section
/-! SUPPORT. The operations of Machine/Debug.lean keep the queue and the invariant: one lemma each, for chains of `Keeps`. -/
namespace Sys2Proof.Machine

theorem State.setDbg_ok {s₀ s : State} (d : Dbg) (hK : Keeps s₀ s) : Keeps s₀ (State.setDbg s d) := by
  unfold State.setDbg
  all_goals try with_reducible apply Keeps.free
  repeat' first
    | with_reducible assumption

theorem State.onSpan_ok {s₀ s : State} (n : Nat) (k : State → State) (hk : ∀ x, Keeps s₀ x → Keeps s₀ (k x)) (hK : Keeps s₀ s) : Keeps s₀ (State.onSpan s n k) := by
  unfold State.onSpan
  repeat' first
    | with_reducible assumption
    | with_reducible apply State.dbgEnd_ok
    | with_reducible apply hk
    | with_reducible apply Keeps.ite

theorem State.dbgHaltThr_ok {s₀ s : State} (n : Nat) (t : Nat) (hK : Keeps s₀ s) : Keeps s₀ (State.dbgHaltThr s n t) := by
  unfold State.dbgHaltThr
  dsimp only
  repeat' first
    | with_reducible assumption
    | with_reducible apply State.setThr_ok
    | with_reducible apply Keeps.ite

theorem dbgHaltCmd_ok {s₀ s : State} (n : Nat) (t : Nat) (hK : Keeps s₀ s) : Keeps s₀ (dbgHaltCmd n t s) := by
  unfold dbgHaltCmd
  repeat' first
    | intro _
    | with_reducible assumption
    | with_reducible apply State.onSpan_ok
    | with_reducible apply State.dbgHaltThr_ok
    | with_reducible apply State.dbgEnd_ok

theorem dbgResumeCmd_ok {s₀ s : State} (n : Nat) (t : Nat) (hK : Keeps s₀ s) : Keeps s₀ (dbgResumeCmd n t s) := by
  unfold dbgResumeCmd
  dsimp only
  repeat' first
    | intro _
    | with_reducible assumption
    | with_reducible apply State.onSpan_ok
    | with_reducible apply State.setThr_ok
    | with_reducible apply State.dbgEnd_ok
    | with_reducible apply Keeps.ite

theorem dbgStepCmd_ok {s₀ s : State} (n : Nat) (t : Nat) (hK : Keeps s₀ s) : Keeps s₀ (dbgStepCmd n t s) := by
  unfold dbgStepCmd
  dsimp only
  repeat' first
    | intro _
    | with_reducible assumption
    | with_reducible apply State.onSpan_ok
    | with_reducible apply State.setThr_ok
    | with_reducible apply State.dbgEnd_ok
    | with_reducible apply Keeps.ite

theorem dbgAbortCmd_ok {s₀ s : State} (n : Nat) (e : Nat) (hK : Keeps s₀ s) : Keeps s₀ (dbgAbortCmd n e s) := by
  unfold dbgAbortCmd
  repeat' first
    | intro _
    | with_reducible assumption
    | with_reducible apply State.onSpan_ok
    | with_reducible apply State.dbgEnd_ok
    | with_reducible apply abortMsg_ok
    | with_reducible apply Keeps.ite

theorem State.onChan_ok {s₀ s : State} (n : Nat) (e : Nat) (k : State → State) (hk : ∀ x, Keeps s₀ x → Keeps s₀ (k x)) (hK : Keeps s₀ s) : Keeps s₀ (State.onChan s n e k) := by
  unfold State.onChan
  repeat' first
    | intro _
    | with_reducible assumption
    | with_reducible apply State.onSpan_ok
    | with_reducible apply State.dbgEnd_ok
    | with_reducible apply hk
    | with_reducible apply Keeps.ite

theorem dbgCeHalt_ok {s₀ s : State} (n : Nat) (e : Nat) (c : Nat) (hK : Keeps s₀ s) : Keeps s₀ (dbgCeHalt n e c s) := by
  unfold dbgCeHalt
  dsimp only
  repeat' first
    | intro _
    | with_reducible assumption
    | with_reducible apply State.onChan_ok
    | with_reducible apply State.dbgEnd_ok
    | with_reducible apply State.setChan_ok
    | with_reducible apply Keeps.ite

theorem dbgCeGo_ok {s₀ s : State} (stepOne : Bool) (n : Nat) (e : Nat) (c : Nat) (hK : Keeps s₀ s) : Keeps s₀ (dbgCeGo stepOne n e c s) := by
  unfold dbgCeGo
  dsimp only
  repeat' first
    | intro _
    | with_reducible assumption
    | with_reducible apply State.onChan_ok
    | with_reducible apply State.dbgEnd_ok
    | with_reducible apply State.setChan_ok
    | with_reducible apply Keeps.ite

theorem State.startDevHalt_ok {s₀ s : State} (hK : Keeps s₀ s) : Keeps s₀ (State.startDevHalt s) := by
  unfold State.startDevHalt
  dsimp only
  repeat' first
    | intro _
    | with_reducible assumption
    | with_reducible apply pauseThr_ok
    | with_reducible apply State.setDbg_ok
    | with_reducible apply State.trigOut_ok
    | with_reducible apply iter_ok

theorem dbgDevHalt_ok {s₀ s : State} (hK : Keeps s₀ s) : Keeps s₀ (dbgDevHalt s) := by
  unfold dbgDevHalt
  repeat' first
    | with_reducible assumption
    | with_reducible apply State.dbgEnd_ok
    | with_reducible apply State.startDevHalt_ok
    | with_reducible apply Keeps.ite

theorem dbgDevResume_ok {s₀ s : State} (hK : Keeps s₀ s) : Keeps s₀ (dbgDevResume s) := by
  unfold dbgDevResume
  dsimp only
  repeat' first
    | with_reducible assumption
    | with_reducible apply State.dbgEnd_ok
    | with_reducible apply State.setDbg_ok
    | with_reducible apply State.endDevHalt_ok
    | with_reducible apply State.skipAll_ok
    | with_reducible apply Keeps.ite

theorem xtrigStep_ok {s₀ s : State} (hK : Keeps s₀ s) : Keeps s₀ (xtrigStep s) := by
  unfold xtrigStep
  repeat' first
    | with_reducible assumption
    | with_reducible apply State.startDevHalt_ok
    | with_reducible apply Keeps.ite

theorem execDbgXtrigIn_ok {s₀ s s' : State} (hK : Keeps s₀ s) (e : execDbgXtrigIn s = .next s') : Keeps s₀ s' := by
  unfold execDbgXtrigIn at e
  rw [← next_inj e]
  repeat' first
    | with_reducible assumption
    | with_reducible apply xtrigStep_ok
    | with_reducible apply Keeps.ite

theorem runDbg_ok {s₀ s : State} (v : Word) (hK : Keeps s₀ s) : Keeps s₀ (runDbg v s) := by
  unfold runDbg
  dsimp only
  repeat' first
    | with_reducible assumption
    | with_reducible apply dbgHaltCmd_ok
    | with_reducible apply dbgResumeCmd_ok
    | with_reducible apply dbgStepCmd_ok
    | with_reducible apply dbgAbortCmd_ok
    | with_reducible apply dbgCeHalt_ok
    | with_reducible apply dbgCeGo_ok
    | with_reducible apply dbgDevHalt_ok
    | with_reducible apply dbgDevResume_ok
    | with_reducible apply State.dbgEnd_ok
    | split

theorem dbgCmdWrite_ok {s₀ s : State} (v : Word) (hK : Keeps s₀ s) : Keeps s₀ (dbgCmdWrite v s) := by
  unfold dbgCmdWrite
  dsimp only
  repeat' first
    | with_reducible assumption
    | with_reducible apply runDbg_ok
    | with_reducible apply State.setDbg_ok
    | with_reducible apply Keeps.ite

theorem dbgRow_ok {s₀ s s' : State} (v : Word) (hK : Keeps s₀ s) (e : dbgRow v s = .next s') : Keeps s₀ s' := by
  unfold dbgRow at e
  rw [← next_inj e]
  repeat' first
    | with_reducible assumption
    | with_reducible apply dbgCmdWrite_ok
    | with_reducible apply Keeps.ite

theorem execHalt_ok {s₀ s s' : State} (n : Fin 16) (t : Fin 16) (hK : Keeps s₀ s) (e : execHalt n t s = .next s') : Keeps s₀ s' := by
  unfold execHalt at e
  rw [← next_inj e]
  repeat' first
    | with_reducible assumption
    | with_reducible apply dbgCmdWrite_ok
    | with_reducible apply Keeps.ite

theorem execResume_ok {s₀ s s' : State} (n : Fin 16) (t : Fin 16) (hK : Keeps s₀ s) (e : execResume n t s = .next s') : Keeps s₀ s' := by
  unfold execResume at e
  rw [← next_inj e]
  repeat' first
    | with_reducible assumption
    | with_reducible apply dbgCmdWrite_ok
    | with_reducible apply Keeps.ite

theorem execStep_ok {s₀ s s' : State} (n : Fin 16) (t : Fin 16) (hK : Keeps s₀ s) (e : execStep n t s = .next s') : Keeps s₀ s' := by
  unfold execStep at e
  rw [← next_inj e]
  repeat' first
    | with_reducible assumption
    | with_reducible apply dbgCmdWrite_ok
    | with_reducible apply Keeps.ite

theorem execAbortMsg_ok {s₀ s s' : State} (n : Fin 16) (e : Fin 128) (hK : Keeps s₀ s) (e : execAbortMsg n e s = .next s') : Keeps s₀ s' := by
  unfold execAbortMsg at e
  rw [← next_inj e]
  repeat' first
    | with_reducible assumption
    | with_reducible apply dbgCmdWrite_ok
    | with_reducible apply Keeps.ite

theorem execCeHalt_ok {s₀ s s' : State} (n : Fin 16) (e : Fin 12) (c : Fin 4) (hK : Keeps s₀ s) (e : execCeHalt n e c s = .next s') : Keeps s₀ s' := by
  unfold execCeHalt at e
  rw [← next_inj e]
  repeat' first
    | with_reducible assumption
    | with_reducible apply dbgCmdWrite_ok
    | with_reducible apply Keeps.ite

theorem execCeResume_ok {s₀ s s' : State} (n : Fin 16) (e : Fin 12) (c : Fin 4) (hK : Keeps s₀ s) (e : execCeResume n e c s = .next s') : Keeps s₀ s' := by
  unfold execCeResume at e
  rw [← next_inj e]
  repeat' first
    | with_reducible assumption
    | with_reducible apply dbgCmdWrite_ok
    | with_reducible apply Keeps.ite

theorem execCeStep_ok {s₀ s s' : State} (n : Fin 16) (e : Fin 12) (c : Fin 4) (hK : Keeps s₀ s) (e : execCeStep n e c s = .next s') : Keeps s₀ s' := by
  unfold execCeStep at e
  rw [← next_inj e]
  repeat' first
    | with_reducible assumption
    | with_reducible apply dbgCmdWrite_ok
    | with_reducible apply Keeps.ite

theorem execDevHalt_ok {s₀ s s' : State} (hK : Keeps s₀ s) (e : execDevHalt s = .next s') : Keeps s₀ s' := by
  unfold execDevHalt at e
  rw [← next_inj e]
  repeat' first
    | with_reducible assumption
    | with_reducible apply dbgCmdWrite_ok
    | with_reducible apply Keeps.ite

theorem execDevResume_ok {s₀ s s' : State} (hK : Keeps s₀ s) (e : execDevResume s = .next s') : Keeps s₀ s' := by
  unfold execDevResume at e
  rw [← next_inj e]
  repeat' first
    | with_reducible assumption
    | with_reducible apply dbgCmdWrite_ok
    | with_reducible apply Keeps.ite

theorem State.tregFail_ok {s₀ s : State} (bad : Bool) (hK : Keeps s₀ s) : Keeps s₀ (State.tregFail s bad) := by
  unfold State.tregFail
  dsimp only
  repeat' first
    | with_reducible assumption
    | with_reducible apply State.setDbg_ok

theorem State.tregSettle_ok {s₀ s : State} (hK : Keeps s₀ s) : Keeps s₀ (State.tregSettle s) := by
  unfold State.tregSettle
  dsimp only
  repeat' first
    | with_reducible assumption
    | with_reducible apply State.setThr_ok
    | with_reducible apply Keeps.ite

theorem dbgTregGet_ok {s₀ s0 : State} (hK : Keeps s₀ s0) : Keeps s₀ (dbgTregGet s0) := by
  unfold dbgTregGet
  dsimp only
  repeat' first
    | with_reducible assumption
    | with_reducible apply State.tregSettle_ok
    | with_reducible apply State.answer_ok
    | with_reducible apply State.tregFail_ok

theorem dbgTregPut_ok {s₀ s0 : State} (v : Word) (hK : Keeps s₀ s0) : Keeps s₀ (dbgTregPut v s0) := by
  unfold dbgTregPut
  dsimp only
  repeat' first
    | with_reducible assumption
    | with_reducible apply State.tregSettle_ok
    | with_reducible apply State.setThr_ok
    | with_reducible apply State.tregFail_ok
    | split

theorem execDbgTregData_ok {s₀ s s' : State} (src : Src) (v : Option Word) (hK : Keeps s₀ s) (e : execDbgTregData src v s = .next s') : Keeps s₀ s' := by
  unfold execDbgTregData at e
  rw [← next_inj e]
  repeat' first
    | intro _
    | with_reducible assumption
    | with_reducible apply State.via_ok
    | with_reducible apply dbgTregPut_ok
    | with_reducible apply dbgTregGet_ok
    | split

theorem State.dmErr_ok {s₀ s : State} (bad : Bool) (hK : Keeps s₀ s) : Keeps s₀ (State.dmErr s bad) := by
  unfold State.dmErr
  dsimp only
  repeat' first
    | with_reducible assumption
    | with_reducible apply State.setDbg_ok

theorem State.dbgRefused_ok {s₀ s : State} (off : Nat) (why : Nat) (hK : Keeps s₀ s) : Keeps s₀ (State.dbgRefused s off why) := by
  unfold State.dbgRefused
  repeat' first
    | with_reducible assumption
    | with_reducible apply State.offer_ok

theorem State.dmNext_ok {s₀ s : State} (hK : Keeps s₀ s) : Keeps s₀ (State.dmNext s) := by
  unfold State.dmNext
  repeat' first
    | with_reducible assumption
    | with_reducible apply State.setReg_ok
    | with_reducible apply Keeps.ite

theorem dbgMemLoGet_ok {s₀ s : State} (hK : Keeps s₀ s) : Keeps s₀ (dbgMemLoGet s) := by
  unfold dbgMemLoGet
  dsimp only
  repeat' first
    | with_reducible assumption
    | with_reducible apply State.answer_ok
    | with_reducible apply State.dbgRefused_ok
    | with_reducible apply State.dmErr_ok
    | with_reducible apply State.fabricTurn_ok
    | with_reducible apply State.readGran_ok
    | with_reducible apply State.freeDw_ok
    | with_reducible apply State.setDbg_ok
    | with_reducible apply Keeps.ite

theorem dbgMemLoPut_ok {s₀ s : State} (v : Word) (hK : Keeps s₀ s) : Keeps s₀ (dbgMemLoPut v s) := by
  unfold dbgMemLoPut
  dsimp only
  repeat' first
    | with_reducible assumption
    | with_reducible apply State.setDbg_ok

theorem dbgMemHiGet_ok {s₀ s : State} (hK : Keeps s₀ s) : Keeps s₀ (dbgMemHiGet s) := by
  unfold dbgMemHiGet
  repeat' first
    | with_reducible assumption
    | with_reducible apply State.answer_ok
    | with_reducible apply State.dmNext_ok

theorem dbgMemHiPut_ok {s₀ s : State} (v : Word) (hK : Keeps s₀ s) : Keeps s₀ (dbgMemHiPut v s) := by
  unfold dbgMemHiPut
  repeat' first
    | with_reducible assumption
    | with_reducible apply State.dbgRefused_ok
    | with_reducible apply State.dmErr_ok
    | with_reducible apply State.fabricWrite_ok
    | with_reducible apply State.dmNext_ok
    | with_reducible apply Keeps.ite

theorem execDbgMemLo_ok {s₀ s s' : State} (src : Src) (v : Option Word) (hK : Keeps s₀ s) (e : execDbgMemLo src v s = .next s') : Keeps s₀ s' := by
  unfold execDbgMemLo at e
  rw [← next_inj e]
  repeat' first
    | intro _
    | with_reducible assumption
    | with_reducible apply State.via_ok
    | with_reducible apply dbgMemLoPut_ok
    | with_reducible apply dbgMemLoGet_ok
    | split

theorem execDbgMemHi_ok {s₀ s s' : State} (src : Src) (v : Option Word) (hK : Keeps s₀ s) (e : execDbgMemHi src v s = .next s') : Keeps s₀ s' := by
  unfold execDbgMemHi at e
  rw [← next_inj e]
  repeat' first
    | intro _
    | with_reducible assumption
    | with_reducible apply State.via_ok
    | with_reducible apply dbgMemHiPut_ok
    | with_reducible apply dbgMemHiGet_ok
    | split

theorem dbgResetWrite_ok {s₀ s : State} (v : Word) (hK : Keeps s₀ s) : Keeps s₀ (dbgResetWrite v s) := by
  unfold dbgResetWrite
  repeat' first
    | with_reducible assumption
    | with_reducible apply State.dbgRefused_ok
    | with_reducible apply State.mainReset_ok
    | with_reducible apply Keeps.ite

theorem execDbgReset_ok {s₀ s s' : State} (v : Word) (hK : Keeps s₀ s) (e : execDbgReset v s = .next s') : Keeps s₀ s' := by
  unfold execDbgReset at e
  rw [← next_inj e]
  repeat' first
    | with_reducible assumption
    | with_reducible apply dbgResetWrite_ok
    | with_reducible apply Keeps.ite

end Sys2Proof.Machine
end

