-- ==== Sys2Proof/Laws/KeepMoraine.lean ====
section
/-! SUPPORT. The operations of Machine/Moraine.lean keep the queue and the invariant: one lemma each, for chains of `Keeps`. -/
namespace Sys2Proof.Machine

theorem Mor.accept_queue (m : Mor) (h : m.queue.length ≤ 32) : m.accept.queue.length ≤ 32 := by
  unfold Mor.accept
  split
  · split
    · simp only [List.length_append, List.length_cons, List.length_nil]; omega
    · exact h
  · exact h

theorem morEntryStep_ok {s₀ s : State} (h : Keeps s₀ s) : Keeps s₀ (morEntryStep s) := by
  unfold morEntryStep
  split
  · exact h
  · next e r hq =>
    dsimp only
    refine Keeps.ite h (State.morWrite_ok _ _ (State.setMor_ok h fun i => Mor.accept_queue _ ?_))
    rw [hq, List.length_cons] at i
    show r.length ≤ 32
    omega

theorem execMoraineEntry_ok {s₀ s s' : State} (hK : Keeps s₀ s) (e : execMoraineEntry s = .next s') : Keeps s₀ s' := by
  unfold execMoraineEntry at e
  rw [← next_inj e]
  repeat' first
    | with_reducible assumption
    | with_reducible apply morEntryStep_ok
    | with_reducible apply Keeps.ite

theorem State.refillCode_ok {s₀ s : State} (code : Nat) (hK : Keeps s₀ s) : Keeps s₀ (State.refillCode s code) := by
  unfold State.refillCode
  dsimp only
  repeat' first
    | intro _
    | with_reducible assumption
    | with_reducible apply State.setMor_ok

theorem execTokenRefill_ok {s₀ s s' : State} (code : Fin 4096) (hK : Keeps s₀ s) (e : execTokenRefill code s = .next s') : Keeps s₀ s' := by
  unfold execTokenRefill at e
  rw [← next_inj e]
  repeat' first
    | with_reducible assumption
    | with_reducible apply State.refillCode_ok
    | with_reducible apply Keeps.ite

theorem morTrgWrite_ok {s₀ s : State} (src : Src) (code : Nat) (v : Word) (hK : Keeps s₀ s) : Keeps s₀ (morTrgWrite src code v s) := by
  unfold morTrgWrite
  dsimp only
  repeat' first
    | intro _
    | with_reducible assumption
    | with_reducible apply State.refillCode_ok
    | with_reducible apply State.plainWrite_ok
    | with_reducible apply State.setMor_ok
    | with_reducible apply Keeps.ite

theorem morAckWrite_ok {s₀ s : State} (src : Src) (v : Word) (hK : Keeps s₀ s) : Keeps s₀ (morAckWrite src v s) := by
  unfold morAckWrite
  repeat' first
    | with_reducible assumption
    | with_reducible apply State.morAckTo_ok
    | with_reducible apply Keeps.ite

theorem execMorAck_ok {s₀ s s' : State} (v : Word) (hK : Keeps s₀ s) (e : execMorAck v s = .next s') : Keeps s₀ s' := by
  unfold execMorAck at e
  rw [← next_inj e]
  repeat' first
    | with_reducible assumption
    | with_reducible apply morAckWrite_ok
    | with_reducible apply Keeps.ite

theorem morRidxWrite_ok {s₀ s : State} (src : Src) (v : Word) (hK : Keeps s₀ s) : Keeps s₀ (morRidxWrite src v s) := by
  unfold morRidxWrite
  dsimp only
  repeat' first
    | intro _
    | with_reducible assumption
    | with_reducible apply State.plainWrite_ok
    | with_reducible apply State.setMor_ok

theorem State.endHold_ok {s₀ s : State} (hK : Keeps s₀ s) : Keeps s₀ (State.endHold s) := by
  unfold State.endHold
  dsimp only
  repeat' first
    | intro _
    | with_reducible assumption
    | with_reducible apply State.setMor_ok

theorem execRecordClose_ok {s₀ s s' : State} (hK : Keeps s₀ s) (e : execRecordClose s = .next s') : Keeps s₀ s' := by
  unfold execRecordClose at e
  rw [← next_inj e]
  repeat' first
    | with_reducible assumption
    | with_reducible apply recordCloseStep_ok
    | with_reducible apply Keeps.ite

theorem execSignComplete_ok {s₀ s s' : State} (key : Option Digest) (hK : Keeps s₀ s) (e : execSignComplete key s = .next s') : Keeps s₀ s' := by
  unfold execSignComplete at e
  rw [← next_inj e]
  repeat' first
    | with_reducible assumption
    | with_reducible apply signAndForward_ok
    | with_reducible apply Keeps.ite

end Sys2Proof.Machine
end

