-- ==== Sys2Proof/Laws/KeepOptionArea.lean ====
section
/-! SUPPORT. The operations of Machine/OptionArea.lean keep the queue and the invariant: one lemma each, for chains of `Keeps`. -/
namespace Sys2Proof.Machine

theorem State.setOptn_ok {s₀ s : State} (o : OptSt) (hK : Keeps s₀ s) : Keeps s₀ (State.setOptn s o) := by
  unfold State.setOptn
  all_goals try with_reducible apply Keeps.free
  repeat' first
    | with_reducible assumption

theorem State.optEnd_ok {s₀ s : State} (code : Nat) (hK : Keeps s₀ s) : Keeps s₀ (State.optEnd s code) := by
  unfold State.optEnd
  dsimp only
  repeat' first
    | with_reducible assumption
    | with_reducible apply State.setOptn_ok
    | with_reducible apply State.offer_ok

theorem State.optRefuse_ok {s₀ s : State} (src : Src) (code : Nat) (hK : Keeps s₀ s) : Keeps s₀ (State.optRefuse s src code) := by
  unfold State.optRefuse
  repeat' first
    | with_reducible assumption
    | with_reducible apply State.refuse_ok
    | with_reducible apply State.optEnd_ok

theorem State.optSourceRead_ok {s₀ s : State} (hK : Keeps s₀ s) : Keeps s₀ s.optSourceRead.2 :=
  iter_keeps (P := fun p : Bool × State => Keeps s₀ p.2) (fun _ _ h => State.readGrans_ok _ _ _ (State.fabricTurn_ok _ _ h)) hK

theorem State.optSourceRead_eq {s₀ s s' : State} {v} (e : s.optSourceRead = (v, s')) (hK : Keeps s₀ s) : Keeps s₀ s' := by
  have := State.optSourceRead_ok (s₀ := s₀) hK
  rw [e] at this
  exact this

theorem optCtlWrite_ok {s₀ s : State} (src : Src) (v : Word) (hK : Keeps s₀ s) : Keeps s₀ (optCtlWrite src v s) := by
  unfold optCtlWrite
  dsimp only
  repeat' first
    | with_reducible assumption
    | with_reducible apply State.optRefuse_ok
    | with_reducible apply State.optSourceRead_ok
    | with_reducible apply State.setOptn_ok
    | with_reducible apply Keeps.ite

theorem execOptionWrite_ok {s₀ s s' : State} (v : Word) (hK : Keeps s₀ s) (e : execOptionWrite v s = .next s') : Keeps s₀ s' := by
  unfold execOptionWrite at e
  rw [← next_inj e]
  repeat' first
    | with_reducible assumption
    | with_reducible apply optCtlWrite_ok
    | with_reducible apply Keeps.ite

theorem Keeps.optUpset {s₀ s : State} {o u} (h : Keeps s₀ s) (ho : Memory.wf 0xFF s.opt = true → Memory.wf 0xFF o = true)
    (hu : tabWf 0 s.upset = true → tabWf 0 u = true) : Keeps s₀ { s with opt := o, upset := u } := by
  refine ⟨h.1, fun i => ?_⟩
  obtain ⟨⟨a, b, c⟩, ⟨b0, b1, b2, b3, b4, b5, b6, b7, b8, b9, b10, b11, b12, x⟩, w⟩ := h.2 i
  exact ⟨⟨a, b, ho c⟩, ⟨b0, b1, b2, b3, b4, b5, b6, b7, b8, b9, b10, b11, b12, hu x⟩, w⟩

theorem optDoneStep_ok {s₀ s : State} (ok : Bool) (h : Keeps s₀ s) : Keeps s₀ (optDoneStep ok s) := by
  unfold optDoneStep
  repeat' first
    | with_reducible assumption
    | with_reducible apply State.optRefuse_ok
    | with_reducible refine iter_ok (fun _ _ => optFree_ok _) ?_
    | with_reducible apply State.optEnd_ok
    | with_reducible apply State.optPut_ok
    | with_reducible apply Keeps.ite
    | dsimp only
    | exact Keeps.optUpset h (tabDrop_wf _ _ _) (tabDrop_wf _ _ _)
    | split

theorem execOptionWriteDone_ok {s₀ s s' : State} (ok : Bool) (hK : Keeps s₀ s) (e : execOptionWriteDone ok s = .next s') : Keeps s₀ s' := by
  unfold execOptionWriteDone at e
  rw [← next_inj e]
  repeat' first
    | with_reducible assumption
    | with_reducible apply optDoneStep_ok
    | with_reducible apply Keeps.ite

theorem State.oa2Put_ok {s₀ s : State} (i : Nat) (level : Nat) (used : Nat) (hK : Keeps s₀ s) : Keeps s₀ (State.oa2Put s i level used) := by
  unfold State.oa2Put
  repeat' first
    | with_reducible assumption
    | with_reducible apply State.optPut_ok

theorem State.rdpBegin_ok {s₀ s : State} (i : Nat) (level : Nat) (used : Nat) (lower : Bool) (hK : Keeps s₀ s) : Keeps s₀ (State.rdpBegin s i level used lower) := by
  unfold State.rdpBegin
  dsimp only
  repeat' first
    | with_reducible assumption
    | with_reducible apply State.offer_ok
    | with_reducible apply State.oa2Put_ok
    | with_reducible apply State.setOptn_ok

theorem holdSpan_ok {s₀ s : State} (n : Nat) (hK : Keeps s₀ s) : Keeps s₀ (holdSpan n s) := by
  unfold holdSpan
  dsimp only
  repeat' first
    | with_reducible assumption
    | with_reducible apply State.spanReset_ok
    | with_reducible apply State.setCore_ok

theorem State.rdpUp_ok {s₀ s : State} (src : Src) (level : Nat) (hK : Keeps s₀ s) : Keeps s₀ (State.rdpUp s src level) := by
  unfold State.rdpUp
  repeat' first
    | with_reducible assumption
    | with_reducible apply State.refuse_ok
    | with_reducible apply State.rdpBegin_ok
    | split

theorem State.rdpEntry_ok {s₀ s : State} (level : Nat) (hK : Keeps s₀ s) : Keeps s₀ (State.rdpEntry s level) := by
  unfold State.rdpEntry
  dsimp only
  repeat' first
    | with_reducible assumption
    | with_reducible apply State.setBk_ok

theorem State.rdpDown_ok {s₀ s : State} (src : Src) (level : Nat) (hK : Keeps s₀ s) : Keeps s₀ (State.rdpDown s src level) := by
  unfold State.rdpDown
  dsimp only
  repeat' first
    | intro _
    | with_reducible assumption
    | with_reducible apply State.refuse_ok
    | with_reducible apply State.rdpEntry_ok
    | with_reducible apply State.drawn_ok
    | with_reducible apply optFree_ok
    | with_reducible apply holdSpan_ok
    | with_reducible apply State.rdpBegin_ok
    | with_reducible apply iter_ok
    | with_reducible apply Keeps.ite
    | split

theorem rdpRaiseStep_ok {s₀ s : State} (src : Src) (v : Word) (hK : Keeps s₀ s) : Keeps s₀ (rdpRaiseStep src v s) := by
  unfold rdpRaiseStep
  repeat' first
    | with_reducible assumption
    | with_reducible apply State.rdpUp_ok
    | with_reducible apply Keeps.ite

theorem execRdpRaise_ok {s₀ s s' : State} (v : Word) (hK : Keeps s₀ s) (e : execRdpRaise v s = .next s') : Keeps s₀ s' := by
  unfold execRdpRaise at e
  rw [← next_inj e]
  repeat' first
    | with_reducible assumption
    | with_reducible apply rdpRaiseStep_ok
    | with_reducible apply Keeps.ite

theorem rdpLowerStep_ok {s₀ s : State} (src : Src) (v : Word) (hK : Keeps s₀ s) : Keeps s₀ (rdpLowerStep src v s) := by
  unfold rdpLowerStep
  repeat' first
    | with_reducible assumption
    | with_reducible apply State.rdpDown_ok
    | with_reducible apply Keeps.ite

theorem execRdpLower_ok {s₀ s s' : State} (v : Word) (hK : Keeps s₀ s) (e : execRdpLower v s = .next s') : Keeps s₀ s' := by
  unfold execRdpLower at e
  rw [← next_inj e]
  repeat' first
    | with_reducible assumption
    | with_reducible apply rdpLowerStep_ok
    | with_reducible apply Keeps.ite

theorem rdpCtlWrite_ok {s₀ s : State} (src : Src) (v : Word) (hK : Keeps s₀ s) : Keeps s₀ (rdpCtlWrite src v s) := by
  unfold rdpCtlWrite
  repeat' first
    | with_reducible assumption
    | with_reducible apply rdpRaiseStep_ok
    | with_reducible apply rdpLowerStep_ok
    | with_reducible apply Keeps.ite

theorem rdpDoneStep_ok {s₀ s : State} (hK : Keeps s₀ s) : Keeps s₀ (rdpDoneStep s) := by
  unfold rdpDoneStep
  dsimp only
  repeat' first
    | with_reducible assumption
    | with_reducible apply State.mainReset_ok
    | with_reducible apply State.eraseAll_ok
    | with_reducible apply State.optPut_ok
    | with_reducible apply Keeps.ite
    | split

theorem execRdpChangeDone_ok {s₀ s s' : State} (hK : Keeps s₀ s) (e : execRdpChangeDone s = .next s') : Keeps s₀ s' := by
  unfold execRdpChangeDone at e
  rw [← next_inj e]
  repeat' first
    | with_reducible assumption
    | with_reducible apply rdpDoneStep_ok
    | with_reducible apply Keeps.ite

theorem fpEccWrite_ok {s₀ s : State} (v : Word) (hK : Keeps s₀ s) : Keeps s₀ (fpEccWrite v s) := by
  unfold fpEccWrite
  dsimp only
  repeat' first
    | with_reducible assumption
    | split
  all_goals try with_reducible apply Keeps.free
  repeat' first
    | with_reducible assumption

end Sys2Proof.Machine
end

