-- ==== Sys2Proof/Laws/KeepSetup.lean ====
section
/-! SUPPORT. The operations of Machine/Setup.lean keep the queue and the invariant: one lemma each, for chains of `Keeps`. -/
namespace Sys2Proof.Machine

theorem thrPcWrite_ok {s₀ s : State} (src : Src) (n : Nat) (t : Nat) (v : Word) (hK : Keeps s₀ s) : Keeps s₀ (thrPcWrite src n t v s) := by
  unfold thrPcWrite
  dsimp only
  repeat' first
    | with_reducible assumption
    | with_reducible apply State.refuse_ok
    | with_reducible apply State.setThr_ok
    | with_reducible apply Keeps.ite

theorem cheStsWrite_ok {s₀ s : State} (n : Nat) (e : Nat) (v : Word) (hK : Keeps s₀ s) : Keeps s₀ (cheStsWrite n e v s) := by
  unfold cheStsWrite
  dsimp only
  repeat' first
    | with_reducible assumption
    | with_reducible apply State.setEnd_ok
    | with_reducible apply Keeps.ite

theorem secretWrite_ok {s₀ s : State} (n : Nat) (lo : Nat) (v : Word) (hK : Keeps s₀ s) : Keeps s₀ (secretWrite n lo v s) := by
  unfold secretWrite
  dsimp only
  repeat' first
    | with_reducible assumption
    | with_reducible apply State.setCore_ok

theorem fetchCtrlWrite_ok {s₀ s : State} (src : Src) (n : Nat) (v : Word) (hK : Keeps s₀ s) : Keeps s₀ (fetchCtrlWrite src n v s) := by
  unfold fetchCtrlWrite
  dsimp only
  repeat' first
    | with_reducible assumption
    | with_reducible apply State.plainWrite_ok
    | with_reducible apply btbFlush_ok
    | with_reducible apply lbufFlush_ok
    | with_reducible apply Keeps.ite

theorem fetchStsWrite_ok {s₀ s : State} (n : Nat) (v : Word) (hK : Keeps s₀ s) : Keeps s₀ (fetchStsWrite n v s) := by
  unfold fetchStsWrite
  dsimp only
  repeat' first
    | with_reducible assumption
    | with_reducible apply State.setCore_ok

theorem pwrStsWrite_ok {s₀ s : State} (v : Word) (hK : Keeps s₀ s) : Keeps s₀ (pwrStsWrite v s) := by
  unfold pwrStsWrite
  dsimp only
  repeat' first
    | with_reducible assumption
    | with_reducible apply State.setClk_ok
    | with_reducible apply Keeps.ite

theorem cascCtlWrite_ok {s₀ s : State} (src : Src) (v : Word) (hK : Keeps s₀ s) : Keeps s₀ (cascCtlWrite src v s) := by
  unfold cascCtlWrite
  dsimp only
  repeat' first
    | with_reducible assumption
    | with_reducible apply State.plainWrite_ok
    | with_reducible apply sweepStep_ok
    | with_reducible apply Keeps.ite

theorem bkAlmenWrite_ok {s₀ s : State} (v : Word) (hK : Keeps s₀ s) : Keeps s₀ (bkAlmenWrite v s) := by
  unfold bkAlmenWrite
  dsimp only
  repeat' first
    | with_reducible assumption
    | with_reducible apply State.setBk_ok

theorem bkLatchWrite_ok {s₀ s : State} (v : Word) (hK : Keeps s₀ s) : Keeps s₀ (bkLatchWrite v s) := by
  unfold bkLatchWrite
  dsimp only
  repeat' first
    | with_reducible assumption
    | with_reducible apply State.setBk_ok

theorem eccCntWrite_ok {s₀ s : State} (off : Nat) (v : Word) (hK : Keeps s₀ s) : Keeps s₀ (eccCntWrite off v s) := by
  unfold eccCntWrite
  dsimp only
  repeat' first
    | with_reducible assumption
    | with_reducible apply State.setReg_ok

theorem eccLastWrite_ok {s₀ s : State} (v : Word) (hK : Keeps s₀ s) : Keeps s₀ (eccLastWrite v s) := by
  unfold eccLastWrite
  repeat' first
    | with_reducible assumption
    | with_reducible apply State.setReg_ok
    | with_reducible apply Keeps.ite

theorem spanWrite_ok {s₀ s : State} (src : Src) (r : Reg) (off : Nat) (n : Nat) (i : Nat) (j : Nat) (v : Word) (hK : Keeps s₀ s) : Keeps s₀ (spanWrite src r off n i j v s) := by
  unfold spanWrite
  repeat' first
    | with_reducible assumption
    | with_reducible apply thrCtlWrite_ok
    | with_reducible apply thrPcWrite_ok
    | with_reducible apply cheWrite_ok
    | with_reducible apply chePeerWrite_ok
    | with_reducible apply cheStsWrite_ok
    | with_reducible apply tpCfgWrite_ok
    | with_reducible apply reopenGroups_ok
    | with_reducible apply imdWrite_ok
    | with_reducible apply chnCfgWrite_ok
    | with_reducible apply chnStsWrite_ok
    | with_reducible apply tmCfgWrite_ok
    | with_reducible apply tmCmpPut_ok
    | with_reducible apply tmCmpNowPut_ok
    | with_reducible apply tmCountPut_ok
    | with_reducible apply tmStsWrite_ok
    | with_reducible apply pinDirectWrite_ok
    | with_reducible apply gpioVal_ok
    | with_reducible apply gpioEn_ok
    | with_reducible apply rimeKeyWrite_ok
    | with_reducible apply rimeSetWrite_ok
    | with_reducible apply secretWrite_ok
    | with_reducible apply seracCtlWrite_ok
    | with_reducible apply fetchCtrlWrite_ok
    | with_reducible apply fetchStsWrite_ok
    | with_reducible apply arbCntClear_ok
    | with_reducible apply State.plainWrite_ok
    | split

theorem globalWrite_ok {s₀ s : State} (src : Src) (r : Reg) (off : Nat) (i : Nat) (v : Word) (hK : Keeps s₀ s) : Keeps s₀ (globalWrite src r off i v s) := by
  unfold globalWrite
  repeat' first
    | with_reducible assumption
    | with_reducible apply spanEnWrite_ok
    | with_reducible apply rstCtrlWrite_ok
    | with_reducible apply spanRstWrite_ok
    | with_reducible apply sleepReqStep_ok
    | with_reducible apply pwrStsWrite_ok
    | with_reducible apply frzCtlWrite_ok
    | with_reducible apply frzLockWrite_ok
    | with_reducible apply sealGuard_ok
    | with_reducible apply gdData3Put_ok
    | with_reducible apply gdDataPut_ok
    | with_reducible apply gdProbeWrite_ok
    | with_reducible apply gtCfgWrite_ok
    | with_reducible apply gmCtlWrite_ok
    | with_reducible apply cascCtlWrite_ok
    | with_reducible apply lpCtlWrite_ok
    | with_reducible apply fpEccWrite_ok
    | with_reducible apply rdpCtlWrite_ok
    | with_reducible apply optCtlWrite_ok
    | with_reducible apply almCfgWrite_ok
    | with_reducible apply alarmClearStep_ok
    | with_reducible apply almTestWrite_ok
    | with_reducible apply bkAckWrite_ok
    | with_reducible apply bkAlmenWrite_ok
    | with_reducible apply bkLatchWrite_ok
    | with_reducible apply eccCntWrite_ok
    | with_reducible apply eccLastWrite_ok
    | with_reducible apply dbgCmdWrite_ok
    | with_reducible apply dbgTregPut_ok
    | with_reducible apply dbgMemLoPut_ok
    | with_reducible apply dbgMemHiPut_ok
    | with_reducible apply dbgResetWrite_ok
    | with_reducible apply State.plainWrite_ok
    | with_reducible apply Keeps.ite
    | split

theorem sysWrite_ok {s₀ s : State} (src : Src) (r : Reg) (off : Nat) (i : Nat) (v : Word) (hK : Keeps s₀ s) : Keeps s₀ (sysWrite src r off i v s) := by
  unfold sysWrite
  repeat' first
    | with_reducible assumption
    | with_reducible apply hiCtlWrite_ok
    | with_reducible apply hiStsWrite_ok
    | with_reducible apply hiSetupWrite_ok
    | with_reducible apply kickWrite_ok
    | with_reducible apply sesCtlWrite_ok
    | with_reducible apply ringAddrWrite_ok
    | with_reducible apply morAckWrite_ok
    | with_reducible apply morRidxWrite_ok
    | with_reducible apply morTrgWrite_ok
    | with_reducible apply globalWrite_ok
    | split

theorem State.setupWrite_ok {s₀ s : State} (src : Src) (off : Nat) (v : Word) (hK : Keeps s₀ s) : Keeps s₀ (State.setupWrite s src off v) := by
  unfold State.setupWrite
  dsimp only
  repeat' first
    | with_reducible apply spanWrite_ok
    | with_reducible apply sysWrite_ok
    | with_reducible apply Keeps.ite
    | split
  all_goals try with_reducible apply Keeps.free
  repeat' first
    | with_reducible assumption

theorem execRegisterWrite_ok {s₀ s s' : State} (src : Src) (off : Nat) (width : Nat) (v : Word) (hK : Keeps s₀ s) (e : execRegisterWrite src off v s width = .next s') : Keeps s₀ s' := by
  unfold execRegisterWrite at e
  rw [← next_inj e]
  repeat' first
    | intro _
    | with_reducible assumption
    | with_reducible apply State.via_ok
    | with_reducible apply State.setupWrite_ok
    | with_reducible apply Keeps.ite
  all_goals try with_reducible apply Keeps.free
  repeat' first
    | with_reducible assumption

theorem State.rdataRead_ok {s₀ s : State} (w : Nat) (hK : Keeps s₀ s) : Keeps s₀ (State.rdataRead s w) := by
  unfold State.rdataRead
  dsimp only
  repeat' first
    | with_reducible assumption
    | with_reducible apply State.noteExport_ok
    | with_reducible apply State.endHold_ok
    | with_reducible apply Keeps.ite

theorem readEffect_ok {s₀ s : State} (src : Src) (r : Reg) (off : Nat) (n : Nat) (i : Nat) (hK : Keeps s₀ s) : Keeps s₀ (readEffect src r off n i s) := by
  unfold readEffect
  dsimp only
  repeat' first
    | with_reducible assumption
    | with_reducible apply State.answer_ok
    | with_reducible apply State.tbLoRead_ok
    | with_reducible apply State.lfLoRead_ok
    | with_reducible apply State.tmCountRead_ok
    | with_reducible apply State.gdAdvance_ok
    | with_reducible apply State.rdataRead_ok
    | with_reducible apply State.readFirnGran_ok
    | with_reducible apply State.drawn_ok
    | with_reducible apply dbgTregGet_ok
    | with_reducible apply dbgMemLoGet_ok
    | with_reducible apply dbgMemHiGet_ok
    | with_reducible apply Keeps.ite
    | split

theorem State.setupRead_ok {s₀ s : State} (src : Src) (off : Nat) (hK : Keeps s₀ s) : Keeps s₀ (State.setupRead s src off) := by
  unfold State.setupRead
  repeat' first
    | with_reducible assumption
    | with_reducible apply State.answer_ok
    | with_reducible apply readEffect_ok
    | with_reducible apply Keeps.ite
    | split
  all_goals try with_reducible apply Keeps.free
  repeat' first
    | with_reducible assumption

theorem setupDone_ok {s₀ s : State} (n : Nat) (t : Nat) (p : Pend) (v : Nat) (hK : Keeps s₀ s) : Keeps s₀ (setupDone n t p v s) := by
  unfold setupDone
  dsimp only
  repeat' first
    | with_reducible assumption
    | with_reducible apply Ctx.operandDone_ok
    | with_reducible apply State.setThr_ok
    | with_reducible apply Keeps.ite

theorem setupFail_ok {s₀ s : State} (n : Nat) (t : Nat) (p : Pend) (hK : Keeps s₀ s) : Keeps s₀ (setupFail n t p s) := by
  unfold setupFail
  dsimp only
  repeat' first
    | with_reducible assumption
    | with_reducible apply setupDone_ok
    | with_reducible apply State.setThr_ok
    | with_reducible apply State.offer_ok
    | with_reducible apply State.stepDone_ok

theorem setupLand_ok {s₀ s : State} (n : Nat) (t : Nat) (p : Pend) (hK : Keeps s₀ s) : Keeps s₀ (setupLand n t p s) := by
  unfold setupLand
  dsimp only
  repeat' first
    | with_reducible assumption
    | with_reducible apply setupDone_ok
    | with_reducible apply State.setThr_ok
    | with_reducible apply State.stepDone_ok
    | with_reducible apply Keeps.ite

theorem setupResponse_ok {s₀ s : State} (n : Nat) (t : Nat) (err : Bool) (hK : Keeps s₀ s) : Keeps s₀ (setupResponse n t err s) := by
  unfold setupResponse
  dsimp only
  repeat' first
    | with_reducible assumption
    | with_reducible apply setupFail_ok
    | with_reducible apply setupLand_ok
    | with_reducible apply State.setupWrite_ok
    | with_reducible apply State.setupRead_ok
    | with_reducible apply Keeps.ite
    | split

theorem execSetupAccessResponse_ok {s₀ s s' : State} (n : Fin 16) (t : Fin 16) (err : Bool) (hK : Keeps s₀ s) (e : execSetupAccessResponse n t err s = .next s') : Keeps s₀ s' := by
  unfold execSetupAccessResponse at e
  rw [← next_inj e]
  repeat' first
    | with_reducible assumption
    | with_reducible apply setupResponse_ok
    | with_reducible apply Keeps.ite

end Sys2Proof.Machine
end

