-- ==== Sys2Proof/Laws/KeepBoot.lean ====
section
/-! SUPPORT. The operations of Machine/Boot.lean keep the queue and the invariant: one lemma each, for chains of `Keeps`. -/
namespace Sys2Proof.Machine

theorem State.setBoot_ok {s₀ s : State} (b : Boot) (hK : Keeps s₀ s) : Keeps s₀ (State.setBoot s b) := by
  unfold State.setBoot
  all_goals try with_reducible apply Keeps.free
  repeat' first
    | with_reducible assumption

theorem State.ringScan_ok {s₀ s : State} (hK : Keeps s₀ s) : Keeps s₀ (State.ringScan s) := by
  unfold State.ringScan
  dsimp only
  repeat' first
    | with_reducible assumption
    | with_reducible apply State.setMeas_ok
    | split

theorem State.rejectNote_ok {s₀ s : State} (i : Img) (hK : Keeps s₀ s) : Keeps s₀ (State.rejectNote s i) := by
  unfold State.rejectNote
  repeat' first
    | with_reducible assumption
    | with_reducible apply State.offer_ok

theorem State.noteImage_ok {s₀ s : State} (x : Img × Bool) (hK : Keeps s₀ s) : Keeps s₀ (State.noteImage s x) := by
  unfold State.noteImage
  dsimp only
  repeat' first
    | with_reducible assumption
    | with_reducible apply State.rejectNote_ok
    | with_reducible apply State.setMeas_ok
    | with_reducible apply Keeps.ite

theorem State.lateReject_ok {s₀ s : State} (x : Img) (hK : Keeps s₀ s) : Keeps s₀ (State.lateReject s x) := by
  unfold State.lateReject
  dsimp only
  repeat' first
    | with_reducible assumption
    | with_reducible apply State.rejectNote_ok
    | with_reducible apply State.setMeas_ok

theorem stageWord_ok {s₀ s : State} (off : Nat) (v : Word) (hK : Keeps s₀ s) : Keeps s₀ (stageWord off v s) := by
  unfold stageWord
  repeat' first
    | with_reducible assumption
    | with_reducible apply State.setupWrite_ok
    | with_reducible apply stageFields_ok
    | with_reducible apply Keeps.ite

theorem loadSec_ok {s₀ s : State} (x : Sec) (hK : Keeps s₀ s) : Keeps s₀ (loadSec x s) := by
  unfold loadSec
  repeat' first
    | intro _
    | with_reducible assumption
    | with_reducible apply State.memWrite_ok
    | with_reducible apply stageWord_ok
    | with_reducible apply State.stageEntry_ok
    | with_reducible apply iter_ok
    | split

theorem clearSec_ok {s₀ s : State} (x : Sec) (hK : Keeps s₀ s) : Keeps s₀ (clearSec x s) := by
  unfold clearSec
  repeat' first
    | intro _
    | with_reducible assumption
    | with_reducible apply State.memWrite_ok
    | with_reducible apply iter_ok
    | with_reducible apply Keeps.ite

theorem State.dropStaged_ok {s₀ s : State} (h : Keeps s₀ s) : Keeps s₀ s.dropStaged :=
  regionSyncStep_ok (State.syncStaged_ok h).free

theorem State.bootFreeze_ok {s₀ s : State} (hK : Keeps s₀ s) : Keeps s₀ (State.bootFreeze s).2 := by
  unfold State.bootFreeze
  dsimp only
  repeat' first
    | intro _
    | with_reducible assumption
    | with_reducible apply State.frzCheckFail_ok
    | with_reducible apply chargeOne_ok
    | with_reducible apply State.setFrz_ok
    | with_reducible apply regionSyncStep_ok
    | with_reducible apply State.frzApply_ok
    | with_reducible apply State.syncStaged_ok
    | with_reducible apply State.frzEnd_ok
    | with_reducible apply foldl_ok
    | split

theorem State.bootFreeze_eq {s₀ s s' : State}  {v} (e : State.bootFreeze s = (v, s')) (hK : Keeps s₀ s) : Keeps s₀ s' := by
  have := State.bootFreeze_ok (s₀ := s₀) hK
  rw [e] at this
  exact this

theorem setupPair_ok {s₀ s : State} (p : Nat × Word) (hK : Keeps s₀ s) : Keeps s₀ (setupPair p s) := by
  unfold setupPair
  dsimp only
  repeat' first
    | with_reducible assumption
    | with_reducible apply State.setupWrite_ok
    | with_reducible apply Keeps.ite

theorem enablePair_ok {s₀ s : State} (p : Nat × Word) (hK : Keeps s₀ s) : Keeps s₀ (enablePair p s) := by
  unfold enablePair
  dsimp only
  repeat' first
    | with_reducible assumption
    | with_reducible apply State.setupWrite_ok
    | with_reducible apply State.setBoot_ok
    | with_reducible apply Keeps.ite

theorem runPairs_ok {s₀ s : State} (typ : Nat) (f : Nat × Word → State → State) (l : List Sec) (hf : ∀ i0 x, Keeps s₀ x → Keeps s₀ (f i0 x)) (hK : Keeps s₀ s) : Keeps s₀ (runPairs typ f l s) := by
  unfold runPairs
  repeat' first
    | intro _
    | with_reducible assumption
    | with_reducible apply iter_ok
    | with_reducible apply foldl_ok
    | with_reducible apply hf

theorem rimeBank_ok {s₀ s : State} (n : Nat) (hK : Keeps s₀ s) : Keeps s₀ (rimeBank n s) := by
  unfold rimeBank
  dsimp only
  repeat' first
    | with_reducible assumption
    | with_reducible apply rimeSetWrite_ok
    | with_reducible apply rimeKeyWrite_ok
    | with_reducible apply Keeps.ite

theorem enableSpans_ok {s₀ s : State} (m : BitVec 16) (hK : Keeps s₀ s) : Keeps s₀ (enableSpans m s) := by
  unfold enableSpans
  repeat' first
    | intro _
    | with_reducible assumption
    | with_reducible apply spanOn_ok
    | with_reducible apply iter_ok
    | with_reducible apply Keeps.ite

theorem State.enterBoot_ok {s₀ s : State} (hK : Keeps s₀ s) : Keeps s₀ (State.enterBoot s) := by
  unfold State.enterBoot
  dsimp only
  repeat' first
    | with_reducible assumption
    | with_reducible apply State.setThr_ok
    | with_reducible apply State.drawn_ok
    | with_reducible apply Keeps.ite

theorem State.bootDone_ok {s₀ s : State} (result : Nat) (hK : Keeps s₀ s) : Keeps s₀ (State.bootDone s result) := by
  unfold State.bootDone
  dsimp only
  repeat' first
    | with_reducible assumption
    | with_reducible apply State.setBoot_ok
    | with_reducible apply State.enterBoot_ok
    | with_reducible apply Keeps.ite

theorem bootEnable_ok {s₀ s : State} (m : BitVec 16) (l : List Img) (hK : Keeps s₀ s) : Keeps s₀ (bootEnable m l s) := by
  unfold bootEnable
  dsimp only
  repeat' first
    | intro _
    | with_reducible assumption
    | with_reducible apply runPairs_ok
    | with_reducible apply enablePair_ok
    | with_reducible apply enableSpans_ok
    | with_reducible apply rimeBank_ok
    | with_reducible apply sealGuard_ok
    | with_reducible apply iter_ok
    | with_reducible apply Keeps.ite

theorem State.bootRefused_ok {s₀ s : State} (l : List Img) (hK : Keeps s₀ s) : Keeps s₀ (State.bootRefused s l) := by
  unfold State.bootRefused
  dsimp only
  repeat' first
    | intro _
    | with_reducible assumption
    | with_reducible apply clearSec_ok
    | with_reducible apply State.rejectNote_ok
    | with_reducible apply State.dropStaged_ok
    | with_reducible apply State.setMeas_ok
    | with_reducible apply foldl_ok

theorem State.bootLoad_ok {s₀ s : State} (m : BitVec 16) (l : List Img) (result : Nat) (hK : Keeps s₀ s) : Keeps s₀ (State.bootLoad s m l result) := by
  unfold State.bootLoad
  dsimp only
  repeat' first
    | intro _
    | with_reducible assumption
    | with_reducible apply bootEnable_ok
    | with_reducible apply State.bootDone_ok
    | with_reducible apply State.setFrz_ok
    | with_reducible apply State.dropStaged_ok
    | with_reducible apply loadSec_ok
    | with_reducible apply State.bootFreeze_ok
    | with_reducible apply State.bootRefused_ok
    | with_reducible apply runPairs_ok
    | with_reducible apply setupPair_ok
    | with_reducible apply State.setBoot_ok
    | with_reducible apply foldl_ok
    | with_reducible apply Keeps.ite

theorem State.bootRun_ok {s₀ s : State} (hK : Keeps s₀ s) : Keeps s₀ (State.bootRun s) := by
  unfold State.bootRun
  dsimp only
  repeat' first
    | intro _
    | with_reducible assumption
    | with_reducible apply State.bootDone_ok
    | with_reducible apply State.ringScan_ok
    | with_reducible apply State.noteImage_ok
    | with_reducible apply State.lateReject_ok
    | with_reducible apply State.bootLoad_ok
    | with_reducible apply foldl_ok
    | with_reducible apply Keeps.ite

theorem State.bootAgain_ok {s₀ s : State} (hK : Keeps s₀ s) : Keeps s₀ (State.bootAgain s) := by
  unfold State.bootAgain
  dsimp only
  repeat' first
    | with_reducible assumption
    | with_reducible apply State.setBoot_ok
    | with_reducible apply State.enterBoot_ok

theorem State.bootStep_ok {s₀ s : State} (hK : Keeps s₀ s) : Keeps s₀ (State.bootStep s) := by
  unfold State.bootStep
  repeat' first
    | with_reducible assumption
    | with_reducible apply State.bootAgain_ok
    | with_reducible apply State.bootRun_ok
    | with_reducible apply Keeps.ite

end Sys2Proof.Machine
end

