-- ==== Sys2Proof/Laws/KeepHostCmd.lean ====
section
/-! SUPPORT. The operations of Machine/HostCmd.lean keep the queue and the invariant: one lemma each, for chains of `Keeps`. -/
namespace Sys2Proof.Machine

theorem runCmd_ok {s₀ s : State} (op : Nat) (k : Nat) (body : Nat → Cmd → State → State) (hbody : ∀ i0 i1 x, Keeps s₀ x → Keeps s₀ (body i0 i1 x)) (hK : Keeps s₀ s) : Keeps s₀ (runCmd op k body s) := by
  unfold runCmd
  repeat' first
    | with_reducible assumption
    | with_reducible apply State.failCmd_ok
    | with_reducible apply State.hostSettle_ok
    | with_reducible apply hbody
    | with_reducible apply Keeps.ite
    | split

theorem State.finCmd_ok {s₀ s : State} (k : Nat) (i : Nat) (status : Nat) (result : List Byte) (hK : Keeps s₀ s) : Keeps s₀ (State.finCmd s k i status result) := by
  unfold State.finCmd
  repeat' first
    | with_reducible assumption
    | with_reducible apply State.complete_ok

theorem State.startCmd_ok {s₀ s : State} (k : Nat) (i : Nat) (c : Cmd) (hK : Keeps s₀ s) : Keeps s₀ (State.startCmd s k i c) := by
  unfold State.startCmd
  repeat' first
    | with_reducible assumption
    | with_reducible apply State.setCmd_ok

theorem openBody_ok {s₀ s : State} (k : Nat) (i : Nat) (c : Cmd) (hK : Keeps s₀ s) : Keeps s₀ (openBody k i c s) := by
  unfold openBody
  dsimp only
  repeat' first
    | with_reducible assumption
    | with_reducible apply State.failCmd_ok
    | with_reducible apply State.finCmd_ok
    | with_reducible apply State.setSes_ok
    | with_reducible apply State.moveSes_ok
    | with_reducible apply State.grantFwd_ok
    | with_reducible apply State.deliverRec_ok
    | with_reducible apply Keeps.ite
    | split

theorem execSessionOpen_ok {s₀ s s' : State} (k : Fin 1024) (hK : Keeps s₀ s) (e : execSessionOpen k s = .next s') : Keeps s₀ s' := by
  unfold execSessionOpen at e
  rw [← next_inj e]
  repeat' first
    | intro _
    | with_reducible assumption
    | with_reducible apply runCmd_ok
    | with_reducible apply openBody_ok

theorem closeBody_ok {s₀ s : State} (k : Nat) (i : Nat) (c : Cmd) (hK : Keeps s₀ s) : Keeps s₀ (closeBody k i c s) := by
  unfold closeBody
  repeat' first
    | with_reducible assumption
    | with_reducible apply State.startCmd_ok

theorem execSessionClose_ok {s₀ s s' : State} (k : Fin 1024) (hK : Keeps s₀ s) (e : execSessionClose k s = .next s') : Keeps s₀ s' := by
  unfold execSessionClose at e
  rw [← next_inj e]
  repeat' first
    | intro _
    | with_reducible assumption
    | with_reducible apply runCmd_ok
    | with_reducible apply closeBody_ok

theorem nopBody_ok {s₀ s : State} (k : Nat) (i : Nat) (u2 : Cmd) (hK : Keeps s₀ s) : Keeps s₀ (nopBody k i u2 s) := by
  unfold nopBody
  repeat' first
    | with_reducible assumption
    | with_reducible apply State.finCmd_ok

theorem execNopCommand_ok {s₀ s s' : State} (k : Fin 1024) (hK : Keeps s₀ s) (e : execNopCommand k s = .next s') : Keeps s₀ s' := by
  unfold execNopCommand at e
  rw [← next_inj e]
  repeat' first
    | intro _
    | with_reducible assumption
    | with_reducible apply runCmd_ok
    | with_reducible apply nopBody_ok

theorem cancelBody_ok {s₀ s : State} (k : Nat) (u1 : Nat) (c : Cmd) (hK : Keeps s₀ s) : Keeps s₀ (cancelBody k u1 c s) := by
  unfold cancelBody
  dsimp only
  repeat' first
    | with_reducible assumption
    | with_reducible apply State.cancelIn_ok
    | with_reducible apply State.finCmd_ok
    | split

theorem execCancel_ok {s₀ s s' : State} (k : Fin 1024) (hK : Keeps s₀ s) (e : execCancel k s = .next s') : Keeps s₀ s' := by
  unfold execCancel at e
  rw [← next_inj e]
  repeat' first
    | intro _
    | with_reducible assumption
    | with_reducible apply runCmd_ok
    | with_reducible apply cancelBody_ok

theorem sendBody_ok {s₀ s : State} (k : Nat) (i : Nat) (c : Cmd) (hK : Keeps s₀ s) : Keeps s₀ (sendBody k i c s) := by
  unfold sendBody
  repeat' first
    | with_reducible assumption
    | with_reducible apply State.finCmd_ok
    | with_reducible apply State.setCmd_ok
    | with_reducible apply State.pump_ok
    | split

theorem execCdtSend_ok {s₀ s s' : State} (k : Fin 1024) (hK : Keeps s₀ s) (e : execCdtSend k s = .next s') : Keeps s₀ s' := by
  unfold execCdtSend at e
  rw [← next_inj e]
  repeat' first
    | intro _
    | with_reducible assumption
    | with_reducible apply runCmd_ok
    | with_reducible apply sendBody_ok

theorem recvBody_ok {s₀ s : State} (k : Nat) (i : Nat) (c : Cmd) (hK : Keeps s₀ s) : Keeps s₀ (recvBody k i c s) := by
  unfold recvBody
  repeat' first
    | with_reducible assumption
    | with_reducible apply State.failCmd_ok
    | with_reducible apply State.startCmd_ok
    | with_reducible apply Keeps.ite
    | split

theorem execCdtRecv_ok {s₀ s s' : State} (k : Fin 1024) (hK : Keeps s₀ s) (e : execCdtRecv k s = .next s') : Keeps s₀ s' := by
  unfold execCdtRecv at e
  rw [← next_inj e]
  repeat' first
    | intro _
    | with_reducible assumption
    | with_reducible apply runCmd_ok
    | with_reducible apply recvBody_ok

theorem State.nameOwner_ok {s₀ s : State} (d : Word) (hK : Keeps s₀ s) : Keeps s₀ (State.nameOwner s d) := by
  unfold State.nameOwner
  dsimp only
  repeat' first
    | with_reducible assumption
    | with_reducible apply State.setFrz_ok

theorem bindBody_ok {s₀ s : State} (i : Nat) (c : Cmd) (hK : Keeps s₀ s) : Keeps s₀ (bindBody i c s) := by
  unfold bindBody
  dsimp only
  repeat' first
    | with_reducible assumption
    | with_reducible apply State.nameOwner_ok
    | with_reducible apply State.failCmd_ok
    | with_reducible apply State.setCdt_ok
    | with_reducible apply State.hostEvent_ok
    | with_reducible apply State.finCmd_ok
    | with_reducible apply Keeps.ite
    | split

theorem execCdtBind_ok {s₀ s s' : State} (k : Fin 1024) (hK : Keeps s₀ s) (e : execCdtBind k s = .next s') : Keeps s₀ s' := by
  unfold execCdtBind at e
  rw [← next_inj e]
  repeat' first
    | intro _
    | with_reducible assumption
    | with_reducible apply runCmd_ok
    | with_reducible apply bindBody_ok

theorem unbindBody_ok {s₀ s : State} (i : Nat) (c : Cmd) (hK : Keeps s₀ s) : Keeps s₀ (unbindBody i c s) := by
  unfold unbindBody
  repeat' first
    | with_reducible assumption
    | with_reducible apply State.failCmd_ok
    | with_reducible apply State.startCmd_ok
    | with_reducible apply State.endUnbind_ok
    | with_reducible apply Keeps.ite

theorem execCdtUnbind_ok {s₀ s s' : State} (k : Fin 1024) (hK : Keeps s₀ s) (e : execCdtUnbind k s = .next s') : Keeps s₀ s' := by
  unfold execCdtUnbind at e
  rw [← next_inj e]
  repeat' first
    | intro _
    | with_reducible assumption
    | with_reducible apply runCmd_ok
    | with_reducible apply unbindBody_ok

theorem recCloseBody_ok {s₀ s : State} (i : Nat) (c : Cmd) (hK : Keeps s₀ s) : Keeps s₀ (recCloseBody i c s) := by
  unfold recCloseBody
  repeat' first
    | with_reducible assumption
    | with_reducible apply State.askClose_eq (by with_reducible assumption)
    | with_reducible apply State.failCmd_ok
    | with_reducible apply State.startCmd_ok
    | split

theorem execRecClose_ok {s₀ s s' : State} (k : Fin 1024) (hK : Keeps s₀ s) (e : execRecClose k s = .next s') : Keeps s₀ s' := by
  unfold execRecClose at e
  rw [← next_inj e]
  repeat' first
    | intro _
    | with_reducible assumption
    | with_reducible apply runCmd_ok
    | with_reducible apply recCloseBody_ok

theorem recReadBody_ok {s₀ s : State} (i : Nat) (c : Cmd) (hK : Keeps s₀ s) : Keeps s₀ (recReadBody i c s) := by
  unfold recReadBody
  dsimp only
  repeat' first
    | with_reducible assumption
    | with_reducible apply State.complete_ok
    | with_reducible apply State.failCmd_ok
    | split

theorem execRecRead_ok {s₀ s s' : State} (k : Fin 1024) (hK : Keeps s₀ s) (e : execRecRead k s = .next s') : Keeps s₀ s' := by
  unfold execRecRead at e
  rw [← next_inj e]
  repeat' first
    | intro _
    | with_reducible assumption
    | with_reducible apply runCmd_ok
    | with_reducible apply recReadBody_ok

theorem morReadBody_ok {s₀ s : State} (i : Nat) (c : Cmd) (hK : Keeps s₀ s) : Keeps s₀ (morReadBody i c s) := by
  unfold morReadBody
  dsimp only
  repeat' first
    | intro _
    | with_reducible assumption
    | with_reducible apply State.morAckTo_ok
    | with_reducible apply State.noteExport_ok
    | with_reducible apply State.complete_ok
    | with_reducible apply foldl_ok
    | with_reducible apply Keeps.ite

theorem execMorRead_ok {s₀ s s' : State} (k : Fin 1024) (hK : Keeps s₀ s) (e : execMorRead k s = .next s') : Keeps s₀ s' := by
  unfold execMorRead at e
  rw [← next_inj e]
  repeat' first
    | intro _
    | with_reducible assumption
    | with_reducible apply runCmd_ok
    | with_reducible apply morReadBody_ok

theorem putGrans_ok {s₀ : State} (n : Nat) : ∀ (z0 : Nat) (z1 : Nat) (z2 : List Byte) {s : State}, Keeps s₀ s → Keeps s₀ (putGrans n z0 z1 z2 s)
  | 0, z1, z2, s, hK => by
    unfold putGrans
    repeat' first
      | with_reducible assumption
  | z0 + 1, z1, z2, s, hK => by
    unfold putGrans
    repeat' first
      | with_reducible apply putGrans_ok
      | with_reducible assumption
      | with_reducible apply State.fabricWrite_ok

theorem writeParts_ok {s₀ s : State} (spans addr : Nat) (l : List Byte) (h : Keeps s₀ s) : Keeps s₀ (writeParts spans addr l s).2 := by
  unfold writeParts
  refine iter_keeps (P := fun r : Nat × State => Keeps s₀ r.2) (fun i r hr => ?_) h
  split
  · exact hr
  · exact putGrans_ok _ _ _ _ hr

theorem writeParts_eq {s₀ s s' : State} {spans addr : Nat} {l : List Byte} {v} (e : writeParts spans addr l s = (v, s')) (h : Keeps s₀ s) :
    Keeps s₀ s' := by
  have := writeParts_ok spans addr l h
  rw [e] at this
  exact this

theorem memWriteBody_ok {s₀ s : State} (i : Nat) (c : Cmd) (hK : Keeps s₀ s) : Keeps s₀ (memWriteBody i c s) := by
  unfold memWriteBody
  dsimp only
  repeat' first
    | with_reducible assumption
    | with_reducible apply State.failCmd_ok
    | with_reducible apply writeParts_ok
    | with_reducible apply State.complete_ok
    | with_reducible apply Keeps.ite

theorem execMemWrite_ok {s₀ s s' : State} (k : Fin 1024) (hK : Keeps s₀ s) (e : execMemWrite k s = .next s') : Keeps s₀ s' := by
  unfold execMemWrite at e
  rw [← next_inj e]
  repeat' first
    | intro _
    | with_reducible assumption
    | with_reducible apply runCmd_ok
    | with_reducible apply memWriteBody_ok

theorem getGrans_ok {s₀ : State} (n : Nat) : ∀ (k a : Nat) {s : State}, Keeps s₀ s → Keeps s₀ (getGrans n k a s).2
  | 0, _, _, h => h
  | k + 1, a, _, h => getGrans_ok n k (a + 8) (State.readGran_ok _ _ _ _ (State.fabricTurn_ok n a h))

theorem getGrans_eq {s₀ s s' : State} {n k a : Nat} {v} (e : getGrans n k a s = (v, s')) (h : Keeps s₀ s) : Keeps s₀ s' := by
  have := getGrans_ok n k a h
  rw [e] at this
  exact this

theorem memReadBody_ok {s₀ s : State} (i : Nat) (c : Cmd) (hK : Keeps s₀ s) : Keeps s₀ (memReadBody i c s) := by
  unfold memReadBody
  dsimp only
  repeat' first
    | with_reducible assumption
    | with_reducible apply State.failCmd_ok
    | with_reducible apply getGrans_ok
    | with_reducible apply State.complete_ok
    | with_reducible apply Keeps.ite

theorem execMemRead_ok {s₀ s s' : State} (k : Fin 1024) (hK : Keeps s₀ s) (e : execMemRead k s = .next s') : Keeps s₀ s' := by
  unfold execMemRead at e
  rw [← next_inj e]
  repeat' first
    | intro _
    | with_reducible assumption
    | with_reducible apply runCmd_ok
    | with_reducible apply memReadBody_ok

end Sys2Proof.Machine
end

