-- ==== Sys2Proof/Laws/KeepSerac.lean ====
section
/-! SUPPORT. The operations of Machine/Serac.lean keep the queue and the invariant: one lemma each, for chains of `Keeps`. -/
namespace Sys2Proof.Machine

theorem State.seracNotice_ok {s₀ s : State} (c : SeracCycle) (n : Nat) (hK : Keeps s₀ s) : Keeps s₀ (State.seracNotice s c n) := by
  unfold State.seracNotice
  dsimp only
  repeat' first
    | with_reducible assumption
    | with_reducible apply State.offer_ok
    | with_reducible apply State.bufPut_ok
    | with_reducible apply Keeps.ite

theorem State.seracMark_ok {s₀ s : State} (c : SeracCycle) (n : Nat) (hK : Keeps s₀ s) : Keeps s₀ (State.seracMark s c n) := by
  unfold State.seracMark
  dsimp only
  repeat' first
    | intro _
    | with_reducible assumption
    | with_reducible apply State.setCore_ok
    | with_reducible apply State.setThr_ok
    | with_reducible apply iter_ok
    | with_reducible apply Keeps.ite

theorem State.seracReset_ok {s₀ s : State} (c : SeracCycle) (n : Nat) (hK : Keeps s₀ s) : Keeps s₀ (State.seracReset s c n) := by
  unfold State.seracReset
  repeat' first
    | with_reducible assumption
    | with_reducible apply State.offer_ok
    | with_reducible apply State.askSpanReset_ok

theorem State.confirm_ok {s₀ s : State} (c0 : SeracCycle) (hK : Keeps s₀ s) : Keeps s₀ (State.confirm s c0) := by
  unfold State.confirm
  dsimp only
  repeat' first
    | intro _
    | with_reducible assumption
    | with_reducible apply State.offerEntry_ok
    | with_reducible apply State.seracNotice_ok
    | with_reducible apply State.notify_ok
    | with_reducible apply State.seracMark_ok
    | with_reducible apply State.seracReset_ok
    | with_reducible apply iter_ok
    | with_reducible apply foldl_ok
    | with_reducible apply Keeps.ite
  all_goals try with_reducible apply Keeps.free
  repeat' first
    | with_reducible assumption

theorem State.seracLate_ok {s₀ s : State} (found : List SeracCycle) (hK : Keeps s₀ s) : Keeps s₀ (State.seracLate s found) := by
  unfold State.seracLate
  dsimp only
  repeat' first
    | intro _
    | with_reducible assumption
    | with_reducible apply State.seracReset_ok
    | with_reducible apply foldl_ok
    | with_reducible apply Keeps.ite
  all_goals try with_reducible apply Keeps.free
  repeat' first
    | with_reducible assumption

theorem State.scan_ok {s₀ s : State} (hK : Keeps s₀ s) : Keeps s₀ (State.scan s) := by
  unfold State.scan
  dsimp only
  repeat' first
    | intro _
    | with_reducible assumption
    | with_reducible apply State.confirm_ok
    | with_reducible apply foldl_ok
  all_goals try with_reducible apply Keeps.free
  repeat' first
    | with_reducible apply State.seracLate_ok
  all_goals try with_reducible apply Keeps.free
  repeat' first
    | with_reducible assumption

theorem seracStep_ok {s₀ s : State} (hK : Keeps s₀ s) : Keeps s₀ (seracStep s) := by
  unfold seracStep
  repeat' first
    | with_reducible assumption
    | with_reducible apply State.scan_ok
    | with_reducible apply Keeps.ite

theorem execSeracScan_ok {s₀ s s' : State} (hK : Keeps s₀ s) (e : execSeracScan s = .next s') : Keeps s₀ s' := by
  unfold execSeracScan at e
  rw [← next_inj e]
  repeat' first
    | with_reducible assumption
    | with_reducible apply seracStep_ok

end Sys2Proof.Machine
end

