-- ==== Sys2Proof/Laws/KeepTap.lean ====
section
/-! SUPPORT. The operations of Machine/Tap.lean keep the queue and the invariant: one lemma each, for chains of `Keeps`. -/
namespace Sys2Proof.Machine

theorem State.tck_ok {s₀ s : State} (hK : Keeps s₀ s) : Keeps s₀ (State.tck s) := by
  unfold State.tck
  dsimp only
  repeat' first
    | with_reducible assumption
    | with_reducible apply State.setClk_ok
    | with_reducible apply Keeps.ite

theorem State.tapIr_ok {s₀ s : State} (ir : Nat) (dr : BitVec 52) (hK : Keeps s₀ s) : Keeps s₀ (State.tapIr s ir dr) := by
  unfold State.tapIr
  dsimp only
  repeat' first
    | with_reducible assumption
    | with_reducible apply State.setDbg_ok

theorem execIdcode_ok {s₀ s s' : State} (hK : Keeps s₀ s) (e : execIdcode s = .next s') : Keeps s₀ s' := by
  unfold execIdcode at e
  rw [← next_inj e]
  repeat' first
    | with_reducible assumption
    | with_reducible apply State.tapIr_ok
    | with_reducible apply State.tck_ok

theorem execBypass_ok {s₀ s s' : State} (hK : Keeps s₀ s) (e : execBypass s = .next s') : Keeps s₀ s' := by
  unfold execBypass at e
  rw [← next_inj e]
  repeat' first
    | with_reducible assumption
    | with_reducible apply State.tapIr_ok
    | with_reducible apply State.tck_ok

theorem tapResetStep_ok {s₀ s : State} (hK : Keeps s₀ s) : Keeps s₀ (tapResetStep s) := by
  unfold tapResetStep
  dsimp only
  repeat' first
    | with_reducible assumption
    | with_reducible apply State.tapIr_ok
    | with_reducible apply State.setDbg_ok

theorem execTapReset_ok {s₀ s s' : State} (hK : Keeps s₀ s) (e : execTapReset s = .next s') : Keeps s₀ s' := by
  unfold execTapReset at e
  rw [← next_inj e]
  repeat' first
    | with_reducible assumption
    | with_reducible apply tapResetStep_ok

theorem State.accResult_ok {s₀ s : State} (err : Bool) (word : Nat) (data : Word) (hK : Keeps s₀ s) : Keeps s₀ (State.accResult s err word data) := by
  unfold State.accResult
  dsimp only
  repeat' first
    | with_reducible assumption
    | with_reducible apply State.setDbg_ok

theorem tapAccess_ok {s₀ s : State} (dr : BitVec 52) (hK : Keeps s₀ s) : Keeps s₀ (tapAccess dr s) := by
  unfold tapAccess
  dsimp only
  repeat' first
    | intro _
    | with_reducible assumption
    | with_reducible apply State.dbgRefused_ok
    | with_reducible apply State.accResult_ok
    | with_reducible apply State.via_ok
    | with_reducible apply State.setupWrite_ok
    | with_reducible apply State.setupRead_ok
    | with_reducible apply Keeps.ite

theorem execDbgacc_ok {s₀ s s' : State} (dr : BitVec 52) (hK : Keeps s₀ s) (e : execDbgacc dr s = .next s') : Keeps s₀ s' := by
  unfold execDbgacc at e
  rw [← next_inj e]
  repeat' first
    | with_reducible assumption
    | with_reducible apply State.tapIr_ok
    | with_reducible apply State.tck_ok
    | with_reducible apply tapAccess_ok
    | with_reducible apply Keeps.ite

theorem keyTimeout_ok {s₀ s : State} (hK : Keeps s₀ s) : Keeps s₀ (keyTimeout s) := by
  unfold keyTimeout
  repeat' first
    | with_reducible assumption
    | with_reducible apply signAndForward_ok
    | with_reducible apply State.ifaceEntry_ok
    | with_reducible apply Keeps.ite

theorem setupTimeout_ok {s₀ s : State} (n : Nat) (t : Nat) (hK : Keeps s₀ s) : Keeps s₀ (setupTimeout n t s) := by
  unfold setupTimeout
  repeat' first
    | with_reducible assumption
    | with_reducible apply setupFail_ok
    | with_reducible apply State.ifaceEntry_ok
    | split

theorem timeoutStep_ok {s₀ s : State} (u : IfaceUnit) (hK : Keeps s₀ s) : Keeps s₀ (timeoutStep u s) := by
  unfold timeoutStep
  repeat' first
    | with_reducible assumption
    | with_reducible apply hostFailStep_ok
    | with_reducible apply flashTimeoutStep_ok
    | with_reducible apply setupTimeout_ok
    | with_reducible apply keyTimeout_ok
    | split

theorem execIfaceTimeout_ok {s₀ s s' : State} (u : IfaceUnit) (hK : Keeps s₀ s) (e : execIfaceTimeout u s = .next s') : Keeps s₀ s' := by
  unfold execIfaceTimeout at e
  rw [← next_inj e]
  repeat' first
    | with_reducible assumption
    | with_reducible apply timeoutStep_ok
    | with_reducible apply Keeps.ite

end Sys2Proof.Machine
end

