-- ==== Sys2Proof/Laws/KeepTick.lean ====
section
/-! SUPPORT. The operations of Machine/Tick.lean keep the queue and the invariant: one lemma each, for chains of `Keeps`. -/
namespace Sys2Proof.Machine

theorem State.sweepDue_ok {s₀ s : State} (hK : Keeps s₀ s) : Keeps s₀ (State.sweepDue s) := by
  unfold State.sweepDue
  repeat' first
    | with_reducible assumption
    | with_reducible apply State.startSweep_ok
    | with_reducible apply Keeps.ite

theorem State.timeLapse_ok {s₀ s : State} (hK : Keeps s₀ s) : Keeps s₀ (State.timeLapse s) := by
  unfold State.timeLapse
  repeat' first
    | with_reducible assumption
    | with_reducible apply State.setTimeOk_ok
    | with_reducible apply Keeps.ite

theorem Keeps.clkTick {s₀ s : State} (h : Keeps s₀ s) : Keeps s₀ { s with clk := s.clk.tick } := by
  refine h.clk fun ⟨a, b, c⟩ => ?_
  unfold Clk.tick
  split
  · exact ⟨a, b, c⟩
  · exact ⟨Nat.mod_lt _ (by decide), b, c⟩

theorem State.tick_ok {s₀ s : State} (hK : Keeps s₀ s) : Keeps s₀ (State.tick s) := by
  unfold State.tick
  exact Keeps.ite hK (State.bootStep_ok (State.timeLapse_ok (State.sweepDue_ok hK.clkTick)))

end Sys2Proof.Machine
end

