-- ==== Sys2Proof/WellFormed.lean ====
section
/-! DEFINITION. The operands a command can carry, where its types do not say it already. -/
namespace Sys2Proof

open Machine

/-- R370: a frame of a type, and of a subtype of CFRZ, with at most 10 words between its header and its trailer. -/
def Frame.spells (f : Frame) (typ : Nat) (sub : Option Nat) : Bool :=
  decide (bits f.header 60 4 = typ) && Nat.ble f.body.length 10 && sub.all fun k => bits f.header 27 3 == k

/-- R150, R151: an operation that fails has completed fewer doublewords than its COUNT, of at most 1,024. -/
def FlashResult.fits : FlashResult → Bool
  | .allVerified => true
  | .failedAfter dws => decide (dws < 1024)

/-- The operands of a command are ones its row can carry: a line of 32 bytes lies in the address space (R92), a flash request is one of
the model's two kinds (log entry 36), a doorbell line is 64 bytes (R274), a packet is 1 to 64 slots (R276), and a frame has the type its
row names (R370). A bit that the row itself fixes, such as EN, holds whatever the operand's word says. A write may have any offset and
width: one that is no aligned word is answered with an error response (R8). -/
def Instr.wellFormed : Instr → Bool
  | .lineFill _ line _ => decide (line < 2 ^ 27)
  | .flashopComplete res => res.fits
  | .flashTimeout _ kind => decide (kind < 2)
  | .doorbellPoll _ line => line.all fun l => l.length == 8
  | .serviceTurn _ slots => slots.length % 64 == 0 && Nat.ble 64 slots.length && Nat.ble slots.length 4096
  | .signComplete _ => true
  | .hello _ f => f.spells 1 none
  | .assign _ f => f.spells 2 none
  | .done _ f => f.spells 3 none
  | .refuse _ f => f.spells 4 none
  | .credit _ f => f.spells 5 none
  | .sync _ f => f.spells 6 none
  | .msg _ f => f.spells 7 none
  | .ack _ f => f.spells 8 none
  | .cfrzPrepare _ f => f.spells 9 (some 0)
  | .cfrzVote _ f => f.spells 9 (some 1)
  | .cfrzDrain _ f => f.spells 9 (some 2)
  | .cfrzDrained _ f => f.spells 9 (some 3)
  | .cfrzCommit _ f => f.spells 9 (some 4)
  | .cfrzAbort _ f => f.spells 9 (some 5)
  | .rclose _ f => f.spells 10 none
  | .rfwd _ f => f.spells 11 none
  | .rack _ f => f.spells 12 none
  | .spanEnable .. | .spanDisable .. | .spanCoreStop .. | .mainResetRequest .. | .mainResetRelease .. | .spanResetPulse .. |
    .spanResetRelease .. | .tbrd .. | .waitt .. | .waite .. | .waitWake .. | .tq .. | .tqEntry .. | .timedEntryDue .. | .tqsr .. |
    .tqgc .. | .tqev .. | .twGrpReopen .. | .tpEnable .. | .tpDisable .. | .eventLatch .. | .eventEntry .. | .deadlineFire .. |
    .retryService .. | .storeBufferDrain .. | .setupAccessResponse .. | .parkLong .. | .xipWait .. | .btbFlush .. | .lbufFlush .. |
    .arbCntClear .. | .ld .. | .ldx .. | .ldy .. | .lds .. | .st .. | .stx .. | .sty .. | .lil .. | .lih .. | .add .. | .adc .. |
    .sub .. | .sbc .. | .andd .. | .orr .. | .xorr .. | .cmp .. | .cpx .. | .cpy .. | .bit .. | .inc .. | .dec .. | .neg .. |
    .nott .. | .mov .. | .shl .. | .shr .. | .asr .. | .ror .. | .mul .. | .dadd .. | .dsub .. | .dadj .. | .crcs .. | .par .. |
    .brev .. | .br .. | .nvHint .. | .call .. | .dbx .. | .jmpr .. | .callr .. | .ret .. | .rete .. | .loop .. | .lclr .. | .mfs .. |
    .mts .. | .wtld .. | .wtadd .. | .wtarm .. | .cin .. | .cout .. | .coute .. | .cend .. | .nop .. | .sett .. | .clrt .. |
    .idle .. | .brk .. | .xop .. | .flashopProgram .. | .flashopEraseSector .. | .flashopBlankCheck .. | .flashopMarginReadM0 .. |
    .flashopMarginReadM1 .. | .thrGo .. | .thrStop .. | .cheEnable .. | .cheDisable .. | .channelDelivery .. | .seracWdEnable .. |
    .cloveNop .. | .cloveOut .. | .cloveIn .. | .cloveSet .. | .cloveOe .. | .clovePull .. | .clovePulln .. | .clovePush .. |
    .clovePushn .. | .cloveMov .. | .cloveAnd .. | .cloveOr .. | .cloveXor .. | .cloveJmp .. | .cloveWait .. | .cloveLdc .. |
    .cloveMvr .. | .cloveLdsh .. | .cloveDly .. | .cloveWrap .. | .cloveCrc .. | .cloveGadr .. | .cloveGpost .. | .cloveHsh .. |
    .cloveIrq .. | .cloveHalt .. | .cloveFifoIn .. | .cloveFifoOut .. | .cloveChannelEnable .. | .cloveChannelDisable .. |
    .ceImdData .. | .guardLookup .. | .guardAnswer .. | .transactionFold .. | .guardTargetEnable .. | .guardTargetDisable .. |
    .gdDataWrite .. | .gdData3Write .. | .gdProbe .. | .ringWriteDone .. | .kick .. | .nopCommand .. | .sessionOpen .. |
    .sessionClose .. | .cancel .. | .cdtSend .. | .cdtRecv .. | .conduitItem .. | .recvLinger .. | .cdtBind .. | .cdtUnbind .. |
    .recClose .. | .recRead .. | .morRead .. | .memWrite .. | .memRead .. | .hostAccessFail .. | .sessionEnable .. |
    .sessionDisable .. | .sessionQuiesced .. | .hiCtl .. | .freezeCheck .. | .freezeCommit .. | .persistDone .. | .freezeDiscard .. |
    .firnClaim .. | .firnRelease .. | .timerEnable .. | .timerDisable .. | .timerIncrement .. | .tmCmp .. | .tmCmpNow .. |
    .tmCountWrite .. | .tmCountRead .. | .captureSample .. | .tbLoRead .. | .lfLoRead .. | .gpioOut .. | .gpioOutSet .. |
    .gpioOutClr .. | .gpioOutTgl .. | .gpioOe .. | .gpioOeSet .. | .gpioOeClr .. | .gpioOeTgl .. | .pinDirect .. | .directSwitch .. |
    .keeperRelease .. | .rimeKey .. | .rimeSet .. | .rimeTimeout .. | .tokenRefill .. | .morAck .. | .linkPortEnable .. | .phyUp .. |
    .linkReset .. | .linkSilence .. | .sbAliveLow .. | .linkKeepalive .. | .helloSend .. | .creditReturn .. | .syncPulse .. |
    .syncCapture .. | .msgLost .. | .rdpRaise .. | .rdpLower .. | .optionWrite .. | .alarmSample .. | .alarmClear .. | .alarmTest .. |
    .backupAlarmSample .. | .bkAck .. | .ifaceTimeout .. | .dbgacc .. | .halt .. | .resume .. | .step .. | .abortMsg .. | .ceHalt .. |
    .ceResume .. | .ceStep .. | .dbgTregData .. | .dbgMemLo .. | .dbgMemHi .. | .dbgReset .. | .linkResetRelease .. |
    .optionWriteDone .. | .registerWrite .. | .cloveIdleStep .. | .idleRound .. | .rstMainN | .backupReset | .mainPokFall | .sleepReq | .lfModeEntry .. |
    .lfModeStep .. | .lfModeExit .. | .wake | .timeCorrection | .seracScan | .gdData3Read | .regionSyncDone | .guardSeal | .probeDone |
    .gmClose | .recordClose | .noticeWrite | .checkDone | .freezeApply | .freezeDrainDone | .drainLimit | .freezeSyncDone |
    .discardDone | .moraineEntry | .sweep | .cfrzVoteLimit | .cfrzOrphan | .wipeDone | .keyEraseEnd | .backupRingWrite |
    .alarmTestEnd | .idcode | .bypass | .tapReset | .devHalt | .devResume | .dbgXtrigIn | .lfEdge .. | .mainPokRise | .rdpChangeDone => true

end Sys2Proof
end

