-- ==== Sys2Proof/Tests/Slice0.lean ====
section
/-! SUPPORT. Tests: ill-formed operands, instruction words written out from their encodings (R111 to R113), results of the spec's worked examples,
and for every statement states that meet its hypotheses, clause by clause. -/

open Sys2Proof Sys2Proof.Machine
namespace Sys2Proof.Tests

set_option Elab.async false

/-! ## Operands -/

theorem test_wf_line : (Instr.lineFill 0 (2 ^ 27) .clean).wellFormed = false ∧ (Instr.lineFill 0 (2 ^ 27 - 1) .clean).wellFormed = true := by decide
theorem test_wf_flash_result : (Instr.flashopComplete (.failedAfter 1024)).wellFormed = false ∧
    (Instr.flashopComplete (.failedAfter 1023)).wellFormed = true := by decide
theorem test_wf_flash_kind : (Instr.flashTimeout 0 2).wellFormed = false ∧ (Instr.flashTimeout 3 1).wellFormed = true := by decide
theorem test_wf_doorbell : (Instr.doorbellPoll 0 (some [0])).wellFormed = false ∧ (Instr.doorbellPoll 0 none).wellFormed = true := by decide
theorem test_wf_slots : (Instr.serviceTurn 0 []).wellFormed = false ∧ (Instr.serviceTurn 0 (List.replicate 63 0)).wellFormed = false ∧
    (Instr.serviceTurn 0 (List.replicate 64 0)).wellFormed = true := by decide
theorem test_wf_frame : (Instr.hello 0 ⟨0, []⟩).wellFormed = false ∧ (Instr.cfrzVote 0 ⟨0x9000000000000000, []⟩).wellFormed = false ∧
    (Instr.rack 0 ⟨0xC000000000000000, List.replicate 11 0⟩).wellFormed = false ∧
    (Instr.cfrzVote 0 ⟨0x9000000008000000, [0, 0]⟩).wellFormed = true := by decide

/-! ## Machines for the tests -/

/-- The block out of reset, with Span 0 out of reset and no boot to run. -/
def bare : State := { ({} : State) with
  clk := { mainRst := false }
  cores := [(0, { inRst := false })]
  boot := { hostRdy := true } }

/-- A machine with some register words. -/
def withRegs (s : State) (l : List (Nat × Word)) : State := l.foldl (fun s p => s.setReg p.1 p.2) s

/-- Halfwords in address order as one little-endian number. -/
def code : List Nat → Nat
  | [] => 0
  | h :: r => h + 2 ^ 16 * code r

/-- SP0.T0 with code at 0x100, in SERVICE unless the thread says otherwise. -/
def strandAt (hs : List Nat) (th : Thread) (s : State := bare) : State := { s with
  mem := writeNat 0 (2 * hs.length) 0x100 (code hs) s.mem
  threads := [(0, { th with
    st := if th.st = .idle then .service else th.st
    pc := 0x100 })] }

/-- The instruction that SP0.T0 issues next meets `p`. -/
def meets (s : State) (p : Ctx → State → Bool) : Bool := match s.slot 0 0 with
  | some (c, u) => p c u
  | none => false

/-- The later beat that SP0.T0 issues next meets `p`. -/
def meetsBeat (s : State) (p : Ctx → Beats → State → Bool) : Bool := match s.beatSlot 0 0 with
  | some (c, b, u) => p c b u
  | none => false

theorem meets_spec {s : State} {p : Ctx → State → Bool} (h : meets s p = true) : ∃ c u, s.slot 0 0 = some (c, u) ∧ p c u = true := by
  unfold meets at h
  split at h
  · exact ⟨_, _, ‹_›, h⟩
  · cases h

def runsB (c : Ctx) (u : State) (mn : Mn) : Bool := c.d.mn == mn && !(c.view u).decIll c.d c.th && condTrue c.d.cond c.th.fl

theorem runsB_spec {c : Ctx} {u : State} {mn : Mn} (h : runsB c u mn = true) : c.runs u mn := by
  simpa [runsB, Ctx.runs, and_assoc] using h

/-- An immediate, a register or Span memory as the operand. -/
def readsB (c : Ctx) (u : State) (v : Nat) : Bool := match c.d.mode with
  | .imm | .none => v == c.d.d.toNat
  | .reg => v == (selReg c.d.d.toNat c.th.a c.th.x c.th.y).toNat
  | _ => match modeAddr (c.view u) c.n c.t c.d c.th.x c.th.y with
    | some a => accessTrap (c.view u) c.n c.t c.th.st false a c.d.size == none && areaOf a == .span && !u.badGrans c.n a c.d.size &&
        (u.phaseA c.n c.t c.r a c.d.size || !(u.core c.n).busy (bankOf a) (c.r + 4)) && v == u.memRead c.n a c.d.size
    | none => false

theorem readsB_spec {c : Ctx} {u : State} {v : Nat} (h : readsB c u v = true) : c.reads u v := by
  unfold readsB at h
  unfold Ctx.reads
  cases hm : c.d.mode <;> simp only [hm] at h ⊢ <;> first
    | exact eq_of_beq h
    | (split at h
       · refine ⟨_, ‹_›, ?_⟩
         simp only [Bool.and_eq_true, beq_iff_eq, Bool.not_eq_true', Bool.or_eq_true] at h
         exact ⟨h.1.1.1.1, .inl ⟨h.1.1.1.2, h.1.1.2, h.1.2, h.2⟩⟩
       · cases h)

/-- An instruction in a row of a table of tests: its words, its mnemonic, and a value. -/
abbrev Row := List Nat × Mn × Nat

theorem rows_meet {th : Thread} {s : State} {P : Row → Ctx → State → Bool} {rows : List Row}
    (h : rows.all (fun p => meets (strandAt p.1 th s) fun c u => runsB c u p.2.1 && P p c u) = true) :
    ∀ p ∈ rows, ∃ c u, (strandAt p.1 th s).slot 0 0 = some (c, u) ∧ c.runs u p.2.1 ∧ P p c u = true := by
  intro p hp
  obtain ⟨c, u, hs, h2⟩ := meets_spec (List.all_eq_true.1 h p hp)
  rw [Bool.and_eq_true] at h2
  exact ⟨c, u, hs, runsB_spec h2.1, h2.2⟩

theorem rows_read {th : Thread} {s : State} {rows : List Row}
    (h : rows.all (fun p => meets (strandAt p.1 th s) fun c u => runsB c u p.2.1 && readsB c u p.2.2) = true) :
    ∀ p ∈ rows, ∃ c u, (strandAt p.1 th s).slot 0 0 = some (c, u) ∧ c.runs u p.2.1 ∧ c.reads u p.2.2 := by
  intro p hp
  obtain ⟨c, u, hs, hr, h2⟩ := rows_meet (P := fun p c u => readsB c u p.2.2) h p hp
  exact ⟨c, u, hs, hr, readsB_spec h2⟩

/-- A store to Span memory at `a`. -/
def storesB (c : Ctx) (u : State) (a : Nat) : Bool :=
  c.d.usesMem && modeAddr (c.view u) c.n c.t c.d c.th.x c.th.y == some a && accessTrap (c.view u) c.n c.t c.th.st true a c.d.size == none &&
    areaOf a == .span && (u.phaseA c.n c.t c.r a c.d.size || !(u.core c.n).busy (bankOf a) (c.r + 4) ||
      (sbFind (u.core c.n).sb (a % 2 ^ 20 / 8)).isSome || Nat.blt (sbLane c.lane (u.core c.n).sb) 4)

theorem storesB_spec {c : Ctx} {u : State} {a : Nat} (h : storesB c u a = true) : c.stores u a := by
  simpa [storesB, Ctx.stores, and_assoc, or_assoc] using h

/-- No loop level ends at the instruction, and no debugger steps it. -/
def plainB (c : Ctx) : Bool :=
  !c.th.stepping && (List.range 3).all fun k => tabGet 0 c.th.lc k == 0 || tabGet 0 c.th.le k != c.pc

theorem plainB_spec {c : Ctx} (h : plainB c = true) : c.noLoop ∧ c.th.stepping = false := by
  simp only [plainB, Bool.and_eq_true, Bool.not_eq_true', List.all_eq_true, List.mem_range, Bool.or_eq_true, beq_iff_eq, bne_iff_ne] at h
  exact ⟨fun k hk => h.2 k hk, h.1⟩

theorem rows_plain {th : Thread} {s : State} {P : Row → Ctx → State → Bool} {rows : List Row}
    (h : rows.all (fun p => meets (strandAt p.1 th s) fun c u => runsB c u p.2.1 && (plainB c && P p c u)) = true) :
    ∀ p ∈ rows, ∃ c u, (strandAt p.1 th s).slot 0 0 = some (c, u) ∧ c.runs u p.2.1 ∧ c.noLoop ∧ c.th.stepping = false ∧ P p c u = true := by
  intro p hp
  obtain ⟨c, u, hs, hr, h2⟩ := rows_meet (P := fun p c u => plainB c && P p c u) h p hp
  rw [Bool.and_eq_true] at h2
  obtain ⟨h3, h4⟩ := plainB_spec h2.1
  exact ⟨c, u, hs, hr, h3, h4, h2.2⟩

/-! ## Strand instructions -/

/-- The words of R112 and R113, condition AL: #5 as the operand where the row takes one. -/
theorem test_witness_arithmetic : ∀ p ∈ ([([0x0205], .add, 5), ([0x0C05], .adc, 5), ([0x0305], .sub, 5), ([0x0D05], .sbc, 5), ([0x0705], .cmp, 5),
    ([0x0E05], .cpx, 5), ([0x0F7F], .cpy, 0xFFFFFFFF), ([0xC0F7, 0x0001], .add, 0)] : List Row),
    ∃ c u, (strandAt p.1 {}).slot 0 0 = some (c, u) ∧ c.runs u p.2.1 ∧ c.reads u p.2.2 := rows_read (by decide)

theorem test_witness_logic : ∀ p ∈ ([([0x0405], .andd, 5), ([0x0505], .orr, 5), ([0x067F], .xorr, 0x7F), ([0xC230, 0x0005], .bit, 5),
    ([0xC240, 0x0000], .shl, 0), ([0xC248, 0x001F], .shr, 31), ([0xC250, 0x0020], .asr, 32), ([0xC258, 0x0001], .ror, 1)] : List Row),
    ∃ c u, (strandAt p.1 {}).slot 0 0 = some (c, u) ∧ c.runs u p.2.1 ∧ c.reads u p.2.2 := rows_read (by decide)

/-- #5 in the register form, sign extension of the immediate, and memory at X = 0x200, whose 8 bytes are 80 81 … 87. -/
def memAt200 : State := { bare with mem := writeNat 0 8 0x200 0x8786858483828180 [] }

theorem test_witness_load : ∀ p ∈ ([([0x007F], .ld, 0xFFFFFFFF), ([0x0805], .ldx, 5), ([0x0905], .ldy, 5), ([0xC062, 0x0000], .lds, 0x80),
    ([0xC06A, 0x0000], .lds, 0x8180), ([0xC01A, 0x0000], .ld, 0x8786858483828180), ([0xC014, 0x0004], .ld, 0x83828180),
    ([0xC032, 0x0000], .ldx, 0x83828180), ([0xC017, 0x0001], .ld, 0x200)] : List Row),
    ∃ c u, (strandAt p.1 { x := 0x200 } memAt200).slot 0 0 = some (c, u) ∧ c.runs u p.2.1 ∧ c.reads u p.2.2 := rows_read (by decide)

theorem rows_store {th : Thread} {s : State} {rows : List Row}
    (h : rows.all (fun p => meets (strandAt p.1 th s) fun c u => runsB c u p.2.1 && storesB c u p.2.2) = true) :
    ∀ p ∈ rows, ∃ c u, (strandAt p.1 th s).slot 0 0 = some (c, u) ∧ c.runs u p.2.1 ∧ c.stores u p.2.2 := by
  intro p hp
  obtain ⟨c, u, hs, hr, h2⟩ := rows_meet (P := fun p c u => storesB c u p.2.2) h p hp
  exact ⟨c, u, hs, hr, storesB_spec h2⟩

/-- The last granule of Span memory, in every size; with its bank taken in MEM, the store buffer takes the store. -/
theorem test_witness_store : ∀ p ∈ ([([0x01A0], .st, 0xFFFF8), ([0x0AA1], .stx, 0xFFFFC), ([0x0BA0], .sty, 0xFFFF8), ([0xC082, 0x0007], .st, 0xFFFFF),
    ([0xC08A, 0x0006], .st, 0xFFFFE), ([0xC09A, 0x0000], .st, 0xFFFF8), ([0xC0B4, 0x0004], .stx, 0xFFFF8)] : List Row),
    ∃ c u, (strandAt p.1 { x := 0xFFFF8 }).slot 0 0 = some (c, u) ∧ c.runs u p.2.1 ∧ c.stores u p.2.2 := rows_store (by decide)

theorem test_witness_store_buffered : ∃ c u, (strandAt [0x01A0] { x := 0x200 } { bare with
    cores := [(0, { inRst := false, busyB := [(0, 9)] })] }).slot 0 0 = some (c, u) ∧ c.runs u .st ∧ c.stores u 0x200 ∧
      ((u.core 0).busy (bankOf 0x200) (c.r + 4) = true ∧ u.phaseA 0 0 c.r 0x200 4 = false) := by
  obtain ⟨c, u, h, p⟩ := meets_spec (s := strandAt [0x01A0] { x := 0x200 } { bare with
    cores := [(0, { inRst := false, busyB := [(0, 9)] })] }) (p := fun c u => runsB c u .st && (storesB c u 0x200 &&
      ((u.core 0).busy (bankOf 0x200) (c.r + 4) && !u.phaseA 0 0 c.r 0x200 4))) (by decide)
  simp only [Bool.and_eq_true, Bool.not_eq_true'] at p
  exact ⟨c, u, h, runsB_spec p.1, storesB_spec p.2.1, p.2.2⟩

theorem test_witness_store_register : ∀ p ∈ ([([0x01E1], .st, 1), ([0x0AE2], .stx, 2), ([0x0BE0], .sty, 0)] : List Row),
    ∃ c u, (strandAt p.1 {}).slot 0 0 = some (c, u) ∧ c.runs u p.2.1 ∧ (c.d.mode == .reg && c.d.d.toNat == p.2.2) = true :=
  rows_meet (P := fun p c _ => c.d.mode == .reg && c.d.d.toNat == p.2.2) (by decide)

theorem test_witness_mul : ∀ p ∈ ([([0xC2B0, 0x0005], .mul, 5), ([0xC2B0, 0xFFFF], .mul, 0xFFFFFFFF), ([0xC2B7, 0x0002], .mul, 0)] : List Row),
    ∃ c u, (strandAt p.1 {}).slot 0 0 = some (c, u) ∧ c.runs u p.2.1 ∧ c.reads u p.2.2 := rows_read (by decide)

/-- R129: the second beat of a MUL by register. -/
theorem test_witness_mul_beat : meetsBeat (strandAt [0xC2B0, 0x0005] { multi := some ⟨strandDecode 0xC2B0 5, .mul [.a 35, .x 0]⟩ })
    (fun c b _ => c.d.mn == .mul && b == .mul [.a 35, .x 0] && plainB c) = true := by decide

theorem test_witness_register : ∀ p ∈ ([([0xC2C0, 0xFFFF], .lil, 0), ([0xC2CC, 0xFFFF], .lih, 1), ([0x8280], .inc, 0), ([0x82C2], .dec, 2),
    ([0x8440], .neg, 0), ([0x8480], .nott, 0), ([0x8310], .mov, 1), ([0xC3C8, 0x0000], .brev, 0), ([0xC3C4, 0x0000], .par, 0)] : List Row),
    ∃ c u, (strandAt p.1 {}).slot 0 0 = some (c, u) ∧ c.runs u p.2.1 ∧ (c.d.f == p.2.2 || Nat.beq p.2.2 0) = true :=
  rows_meet (P := fun p c _ => c.d.f == p.2.2 || Nat.beq p.2.2 0) (by decide)

/-- Good digits, and a digit above 9 in A or in the operand, with either value of C. -/
theorem test_witness_decimal : ∀ p ∈ ([([0xC270, 0x0009], .dadd, 9), ([0xC290, 0x0099], .dsub, 0x99), ([0x8500], .dadj, 0)] : List Row),
    ∃ c u, (strandAt p.1 { a := 0x99999999 }).slot 0 0 = some (c, u) ∧ c.runs u p.2.1 ∧
      ((p.2.1 == .dadj || readsB c u p.2.2) && goodDigits c.th.a && !flC c.th.fl) = true :=
  rows_meet (P := fun p c u => (p.2.1 == .dadj || readsB c u p.2.2) && goodDigits c.th.a && !flC c.th.fl) (by decide)

theorem test_witness_decimal_bad : ∀ p ∈ ([([0xC270, 0x000A], .dadd, 10), ([0xC290, 0x0000], .dsub, 0), ([0x8500], .dadj, 0)] : List Row),
    ∃ c u, (strandAt p.1 { a := 0xA0000000, fl := 1 }).slot 0 0 = some (c, u) ∧ c.runs u p.2.1 ∧
      ((p.2.1 == .dadj || readsB c u p.2.2) && !goodDigits c.th.a && flC c.th.fl) = true :=
  rows_meet (P := fun p c u => (p.2.1 == .dadj || readsB c u p.2.2) && !goodDigits c.th.a && flC c.th.fl) (by decide)

/-- R138: both forms, each width of data, and the two configurations that trap. -/
theorem test_witness_crc : ∀ y ∈ [(0 : Word), 1, 2, 3, 4, 5, 6, 7], ∃ c u,
    (strandAt [0xC3C0, 0x0000] { crccfg := 0x83, x := 0xA4, y := y }).slot 0 0 = some (c, u) ∧ c.runs u .crcs ∧ c.th.y = y := by
  intro y hy
  obtain ⟨c, u, h, q⟩ := meets_spec (List.all_eq_true.1 (show [(0 : Word), 1, 2, 3, 4, 5, 6, 7].all (fun y =>
    meets (strandAt [0xC3C0, 0x0000] { crccfg := 0x83, x := 0xA4, y := y }) fun c u => runsB c u .crcs && c.th.y == y) = true by decide) y hy)
  rw [Bool.and_eq_true, beq_iff_eq] at q
  exact ⟨c, u, h, runsB_spec q.1, q.2⟩

theorem test_witness_crc_traps :
    meets (strandAt [0xC3C0, 0x0000] { crccfg := 0 }) (fun c _ => c.d.mn == .crcs && !c.th.stepping && c.th.crccfg == 0) = true ∧
    meets (strandAt [0xC3C0, 0x0000] { crccfg := 1, y := 8 }) (fun c _ => c.d.mn == .crcs && !c.th.stepping && Nat.blt 7 c.th.y.toNat) = true := by
  decide

/-- R133, R74: a row of each family of register forms. -/
theorem test_witness_frame : ∀ p ∈ ([([0x8000], .nop, 0), ([0x8310], .mov, 0), ([0xC380, 0x2001], .mfs, 0), ([0x0205], .add, 0), ([0xC117, 0x0000], .adc, 0),
    ([0xC237, 0x0002], .bit, 0)] : List Row),
    ∃ c u, (strandAt p.1 {}).slot 0 0 = some (c, u) ∧ c.runs u p.2.1 ∧ c.noLoop ∧ c.th.stepping = false ∧
      (plainRows.contains p.2.1 || (operandRows.contains p.2.1 && (c.d.mode == .imm || c.d.mode == .reg))) = true :=
  rows_plain (P := fun p c _ => plainRows.contains p.2.1 || (operandRows.contains p.2.1 && (c.d.mode == .imm || c.d.mode == .reg))) (by decide)

/-- R117: a NOP after which no level ends, at the end of level 1 with count 2 below an inactive level 2, and at the end of level 0 alone with
count 1; LOOP with a count, with 256, and with X = 0; LCLR. -/
theorem test_witness_loops :
    meets (strandAt [0x8000] {}) (fun c u => runsB c u .nop && plainB c) = true ∧
    meets (strandAt [0x8000] { lc := [(1, 2)], le := [(1, 0x100)], lb := [(1, 0x80)] }) (fun c u => runsB c u .nop &&
      decide (tabGet 0 c.th.lc 1 = 2 ∧ tabGet 0 c.th.le 1 = c.pc ∧ tabGet 0 c.th.lc 2 = 0)) = true ∧
    meets (strandAt [0x8000] { lc := [(0, 1)], le := [(0, 0x100)] }) (fun c u => runsB c u .nop &&
      decide (tabGet 0 c.th.lc 0 = 1 ∧ tabGet 0 c.th.le 0 = c.pc ∧ tabGet 0 c.th.lc 1 = 0 ∧ tabGet 0 c.th.lc 2 = 0)) = true ∧
    meets (strandAt [0xC330, 0x0203] {}) (fun c u => runsB c u .loop && c.d.f == 2 && c.d.g == 2 && c.d.d == 3) = true ∧
    meets (strandAt [0xC320, 0x0200] {}) (fun c u => runsB c u .loop && c.d.f == 0 && c.d.d == 256) = true ∧
    meets (strandAt [0xC324, 0x0200] {}) (fun c u => runsB c u .loop && c.d.g == 2 ^ 10 + 2 && c.th.x == 0) = true ∧
    meets (strandAt [0xC383, 0x8002] {}) (fun c u => runsB c u .lclr && c.d.f == 2) = true := by decide

/-- R118, R139: every transfer; DBX with X = 1 and X = 0; a call with a full stack and a return with an empty one, both without RSTK_TRAP. -/
theorem test_witness_transfers : ∀ p ∈ ([([0x4002], .br, 0), ([0xC2FF, 0xFFFF], .br, 0), ([0x4402], .call, 0), ([0xC300, 0x0002], .call, 0), ([0x4802], .dbx, 0),
    ([0x8341], .jmpr, 1), ([0x8382], .callr, 2), ([0x8040], .ret, 0), ([0x8080], .rete, 0)] : List Row),
    ∃ c u, (strandAt p.1 { x := 1, depth := 8 }).slot 0 0 = some (c, u) ∧ c.runs u p.2.1 ∧ c.noLoop ∧ c.th.stepping = false ∧
      (c.d.f == p.2.2 && !c.th.rstkTrap) = true := rows_plain (P := fun p c _ => c.d.f == p.2.2 && !c.th.rstkTrap) (by decide)

theorem test_witness_transfer_edges :
    meets (strandAt [0x4802] { x := 0 }) (fun c u => runsB c u .dbx && c.th.x != 1) = true ∧
    meets (strandAt [0x8040] { depth := 0 }) (fun c u => runsB c u .ret && c.th.depth == 0 && !c.th.rstkTrap) = true ∧
    meets (strandAt [0x8040] { depth := 8, rptr := 0, rstkTrap := true }) (fun c u => runsB c u .ret && c.th.depth == 8) = true := by decide

/-- R114, R118, R107: an encoding with a field that must be 0, CRCS in OPERATE, a full and an empty return stack, and BRK; events masked, EVB a
handler address and none. -/
theorem test_witness_traps :
    meets (strandAt [0x8001] {}) (fun c u => c.d.mn == .nop && (c.view u).decIll c.d c.th && !c.th.stepping) = true ∧
    meets (strandAt [0xC3C0, 0x0000] { crccfg := 1, st := .operate }) (fun c u => c.d.mn == .crcs && (c.view u).decIll c.d c.th) = true ∧
    meets (strandAt [0x4402] { depth := 8, rstkTrap := true }) (fun c u => runsB c u .call && c.th.depth == 8 && c.th.rstkTrap) = true ∧
    meets (strandAt [0x8380] { depth := 8, rstkTrap := true, masked := true }) (fun c u => runsB c u .callr && c.th.depth == 8 && c.th.masked) = true ∧
    meets (strandAt [0x8040] { rstkTrap := true, evb := 0x400 }) (fun c u => runsB c u .ret && c.th.depth == 0 && evbOk c.th.evb) = true ∧
    meets (strandAt [0x83C0] { evb := 1 }) (fun c u => runsB c u .brk && !u.bit 0x80000 31 && !evbOk c.th.evb) = true := by decide

/-- R74: a false condition of a short and of a long frame. -/
theorem test_witness_false_condition :
    meets (strandAt [0x1205] {}) (fun c u => c.d.mn == .add && !(c.view u).decIll c.d c.th && !condTrue c.d.cond c.th.fl && plainB c) = true ∧
    meets (strandAt [0xF432, 0x0000] { x := 0x200 }) (fun c u => c.d.mn == .ldx && !(c.view u).decIll c.d c.th && !condTrue c.d.cond c.th.fl && plainB c) = true := by
  decide

/-- R129: a MUL whose condition is false has a second beat, and takes it. -/
theorem test_witness_false_beats :
    meets (strandAt [0xF2B0, 0x0005] {}) (fun c u => c.d.mn == .mul && !(c.view u).decIll c.d c.th && !condTrue c.d.cond c.th.fl && plainB c &&
      (c.view u).moreBeats c.d == 1) = true ∧
    meetsBeat (strandAt [0xF2B0, 0x0005] { multi := some ⟨strandDecode 0xF2B0 5, .noop 1⟩ })
      (fun c b _ => c.d.mn == .mul && b == .noop 1 && plainB c) = true := by decide

/-- R105, R141, R142: MFS and MTS of every group of special registers that the statement names, PRIV in OPERATE, and the three deadline rows. -/
theorem test_witness_special : ∀ p ∈ ([([0xC380, 0x401A], .mfs, 0x1A), ([0xC380, 0x8000], .mts, 0), ([0xC380, 0xA001], .mts, 1), ([0xC380, 0x8002], .mts, 2),
    ([0xC380, 0xC007], .mts, 7), ([0xC380, 0x8012], .mts, 18), ([0xC380, 0x8015], .mts, 0x15), ([0xC380, 0x8016], .mts, 0x16), ([0xC380, 0x8019], .mts, 0x19),
    ([0xC381, 0x0000], .wtld, 0), ([0xC381, 0xFFFF], .wtadd, 0), ([0xC382, 0x0001], .wtarm, 0)] : List Row),
    ∃ c u, (strandAt p.1 {}).slot 0 0 = some (c, u) ∧ c.runs u p.2.1 ∧ c.noLoop ∧ c.th.stepping = false ∧ (c.d.g == p.2.2) = true :=
  rows_plain (P := fun p c _ => c.d.g == p.2.2) (by decide +kernel)

theorem test_witness_special_priv :
    meets (strandAt [0xC380, 0x8016] { st := .operate }) (fun c u => runsB c u .mts && c.d.g == 0x16 && c.th.st == .operate && !c.th.stepping) = true ∧
    meets (strandAt [0xC380, 0x801A] { st := .operate }) (fun c u => runsB c u .mts && c.d.g == 0x1A && c.th.st == .operate) = true := by decide +kernel

/-- R46: a first TBRD, and one where TB stands at the value of an earlier one. -/
theorem test_witness_tbrd :
    meets (strandAt [0x80C0] {}) (fun c u => runsB c u .tbrd && Nat.ble c.th.tbrd u.clk.tb && Nat.blt u.clk.tb (2 ^ 64)) = true ∧
    meets (strandAt [0x80C0] { tbrd := 2 ^ 64 - 1 } { bare with clk := { mainRst := false, tb := 2 ^ 64 - 1 } })
      (fun c u => runsB c u .tbrd && Nat.ble c.th.tbrd u.clk.tb) = true := by decide +kernel

/-- SP0 with end 0 an input end of T0, that holds the last word of a message. -/
def withInput (e : End) : State := { withRegs bare [(cheOff 0 0, 0x80000000)] with ends := [(0, e)] }

/-- R143, R148: WAITT and WAITE with the tick 3 ticks past and not reached; WAITE on an end that is not the thread's, on a ready word, and
on an empty end. -/
theorem test_witness_waits :
    meets (strandAt [0x8100] { a := 7 } { bare with clk := { mainRst := false, tb := 10 } }) (fun c u => runsB c u .waitt && plainB c && u.clk.tb == 10) = true ∧
    meets (strandAt [0x8100] { a := 11, waited := true } { bare with clk := { mainRst := false, tb := 10 } }) (fun c u => runsB c u .waitt && plainB c) = true ∧
    meets (strandAt [0xC360, 0x1800] {}) (fun c u => runsB c u .waite && plainB c && !u.endMine 0 0 c.d.f false) = true ∧
    meets (strandAt [0xC360, 0x1800] { a := 1 } (withInput { buf := [(5, true, 0)] })) (fun c u => runsB c u .waite && plainB c &&
      u.endMine 0 0 c.d.f false && ((u.fillEnd 0 c.d.f).chEnd c.d.f).ready c.r) = true ∧
    meets (strandAt [0xC360, 0x1800] { a := 1 } (withInput {})) (fun c u => runsB c u .waite && plainB c &&
      u.endMine 0 0 c.d.f false && !((u.fillEnd 0 c.d.f).chEnd c.d.f).ready c.r && Nat.blt u.clk.tb 1) = true := by decide +kernel

/-- R149, R116: NOP, SETT and CLRT; IDLE with no event pending; BRK under BRK_HALT; the hint in flash, of a best-effort thread. -/
theorem test_witness_control :
    meets (strandAt [0x8000] {}) (fun c u => runsB c u .nop && plainB c) = true ∧
    meets (strandAt [0x8140] {}) (fun c u => runsB c u .sett && plainB c) = true ∧
    meets (strandAt [0x8180] { fl := 0x20 }) (fun c u => runsB c u .clrt && plainB c) = true ∧
    meets (strandAt [0xC383, 0x0000] {}) (fun c u => runsB c u .idle && plainB c && !(u.at 0 (c.r + 6)).pend.any (fun p => (u.at 0 (c.r + 6)).enabled p.1)) = true ∧
    meets (strandAt [0x83C0] {} (withRegs bare [(0x80000, 0x80000000)])) (fun c u => runsB c u .brk && plainB c && u.bit 0x80000 31) = true := by decide +kernel

/-- SP0.T0 in flash, whose first line is present and holds the hint of a branch 2 lines on. -/
def hintInFlash : State := { bare with
  cores := [(0, { inRst := false, lbuf := [lineOf 0x10000000] })]
  flash := writeNat 0xFF 4 0 (code [0xFEE0, 0x0020]) []
  threads := [(0, { st := .service, pc := 0x10000000 })] }

theorem test_witness_hint : meets hintInFlash (fun c u => c.d.mn == .nvHint && plainB c && areaOf (c.pc + c.d.d).toNat == .flash &&
  !(c.view u).det 0 0 && Nat.blt ((u.core 0).lreq.filter fun q => q.t == 0).length 2) = true := by decide +kernel

/-- A 16-byte descriptor at `a`, read in MEM. -/
def descriptorB (c : Ctx) (u : State) (a v : Nat) : Bool :=
  spanTrap (c.view u) c.n c.t c.th.st false a 16 8 == none && !u.badGrans c.n a 16 &&
    (u.phaseA c.n c.t c.r a 16 || (!(u.core c.n).busy (bankOf a) (c.r + 4) && bankOf (a + 15) == bankOf a)) && v == u.memRead c.n a 16

theorem descriptorB_spec {c : Ctx} {u : State} {a v : Nat} (h : descriptorB c u a v = true) : c.descriptor u a v := by
  simpa [descriptorB, Ctx.descriptor, and_assoc] using h

/-- SP0 with the descriptor `v` at 0x200 and timed port 0 of T0 in window slot 0. -/
def withPort (v : Nat) (p : TPort) : State := { withRegs bare [(spanOff 0 0x200, 0x80000000)] with
  mem := writeNat 0 16 0x200 v []
  ports := [(0, p)] }

/-- T0 issues TQ of window slot 0 on the descriptor at X = 0x200. -/
def tqAt (v : Nat) (s : State) (p : Ctx → State → Bool) : Bool :=
  meets (strandAt [0xC341, 0x0000] { x := 0x200 } s) fun c u => runsB c u .tq && plainB c && modeAddr (c.view u) 0 0 c.d c.th.x c.th.y == some 0x200 &&
    descriptorB c u 0x200 v && p c u

def illegalB (v : Nat) : Bool := descIllegal (v % 2 ^ 64) (BitVec.ofNat 32 (v / 2 ^ 64)) (BitVec.ofNat 32 (v / 2 ^ 96))

/-- R57, R58, R145: an illegal descriptor, no port, an OUT at the last tick that does not hold, a relative one, one tick too far ahead, a full port,
and a fifth record. -/
theorem test_witness_tq :
    tqAt 0 (withPort 0 {}) (fun _ _ => illegalB 0) = true ∧
    tqAt (2 ^ 88) { bare with mem := writeNat 0 16 0x200 (2 ^ 88) [] } (fun c u => !illegalB (2 ^ 88) && u.portOf 0 0 c.d.f == none) = true ∧
    tqAt (8 * 4093 + 2 ^ 88) (withPort (8 * 4093 + 2 ^ 88) {}) (fun c u => !illegalB (8 * 4093 + 2 ^ 88) && u.portOf 0 0 c.d.f == some 0) = true ∧
    tqAt (0x7FFF + 0x81 * 2 ^ 88) (withPort (0x7FFF + 0x81 * 2 ^ 88) {}) (fun c u => !illegalB (0x7FFF + 0x81 * 2 ^ 88) && u.portOf 0 0 c.d.f == some 0) = true ∧
    tqAt (8 * 4097 + 2 ^ 88) (withPort (8 * 4097 + 2 ^ 88) {}) (fun c u => !illegalB (8 * 4097 + 2 ^ 88) && u.portOf 0 0 c.d.f == some 0 && u.clk.tb == 0) = true ∧
    tqAt (2 ^ 88) (withPort (2 ^ 88) { queue := List.replicate 16 ⟨0, 0, 0, 0, 0, 0, 0, 0, false, none, 0⟩ }) (fun c u => u.portOf 0 0 c.d.f == some 0 &&
      (u.port 0).queue.length == 16) = true ∧
    tqAt (4 * 2 ^ 88) (withPort (4 * 2 ^ 88) { recOut := 4 }) (fun _ u => opRecords (BitVec.ofNat 32 (4 * 2 ^ 24)) && (u.port 0).recOut == 4) = true := by
  decide +kernel

/-- R68, R69, R145: TQSR with nothing outstanding, with a record that is ready and with one that is not; TQGC of group 7; TQEV. -/
theorem test_witness_tqsr :
    meets (strandAt [0x8200] {} (withPort 0 {})) (fun c u => runsB c u .tqsr && plainB c && (u.port 0).recOut == 0) = true ∧
    meets (strandAt [0x8207] {}) (fun c u => runsB c u .tqsr && u.portOf 0 0 c.d.f == none) = true ∧
    meets (strandAt [0x8200] {} (withPort 0 { recOut := 1, recs := [(0, some 9)] })) (fun c u => runsB c u .tqsr && plainB c &&
      u.portOf 0 0 c.d.f == some 0 && (u.port 0).recs == [(0, some 9)]) = true ∧
    meets (strandAt [0x8200] {} (withPort 0 { recOut := 1, recs := [(0, none)] })) (fun c u => runsB c u .tqsr && plainB c &&
      u.portOf 0 0 c.d.f == some 0 && (u.port 0).recs == [(0, none)]) = true ∧
    meets (strandAt [0x8247] {}) (fun c u => runsB c u .tqgc && plainB c && c.d.f == 7) = true ∧
    meets (strandAt [0x81C0] { twEvt := 0xFFFF }) (fun c u => runsB c u .tqev && plainB c) = true := by decide +kernel

/-- R147, R148: CIN on an end of another thread, on a ready word, and on an empty end. -/
theorem test_witness_cin :
    meets (strandAt [0xC360, 0x0000] {} (withRegs bare [(cheOff 0 0, 0x80100000)])) (fun c u => runsB c u .cin && plainB c && !u.endMine 0 0 c.d.f false) = true ∧
    meets (strandAt [0xC360, 0x0000] {} (withInput { buf := [(5, true, 0), (6, true, 0)] })) (fun c u => runsB c u .cin && plainB c &&
      u.endMine 0 0 c.d.f false && ((u.fillEnd 0 c.d.f).chEnd 0).buf == [(5, true, 0), (6, true, 0)]) = true ∧
    meets (strandAt [0xC360, 0x0000] {} (withInput {})) (fun c u => runsB c u .cin && plainB c && u.endMine 0 0 c.d.f false &&
      !((u.fillEnd 0 c.d.f).chEnd 0).ready c.r) = true := by decide +kernel

/-- SP0 with end 0 an output end of T0. -/
def withOutput (e : End) : State := { withRegs bare [(cheOff 0 0, 0xC0000000)] with ends := [(0, e)] }

/-- What the channel rows see of end 0. -/
def endB (hs : List Nat) (mn : Mn) (s : State) (mine : Bool) (p : End → Bool) : Bool :=
  meets (strandAt hs {} s) fun c u => runsB c u mn && plainB c && u.endMine 0 0 c.d.f true == mine &&
    p (if mn = .cend then u.chEnd 0 else (moveWords 0 c.d.f 16 u).chEnd 0)

/-- R148: ends that are not the thread's, 16 words staged, a full store whose words go to a conduit, room for one word, a release, nothing
staged, and an aborted message. -/
theorem test_witness_cout :
    endB [0xC360, 0x0800] .cout bare false (fun _ => true) = true ∧
    endB [0xC360, 0x1000] .coute (withOutput { staged := List.replicate 16 1 }) true (fun e => !e.aborted && e.staged.length == 16) = true ∧
    endB [0xC360, 0x0800] .cout (withOutput { staged := [1], store := List.replicate 15 ⟨2, false, 0, 1, 0⟩ }) true
      (fun e => !e.aborted && e.staged.length + e.store.length == 16) = true ∧
    endB [0xC360, 0x0800] .cout (withOutput { staged := List.replicate 15 1 }) true (fun e => !e.aborted && e.staged.length + e.store.length == 15) = true ∧
    endB [0xC360, 0x1000] .coute (withOutput {}) true (fun e => !e.aborted && e.compl == [] && e.staged.length + e.store.length == 0) = true ∧
    endB [0xC360, 0x2000] .cend (withOutput { staged := [1] }) true (fun e => !e.aborted && e.compl == [] && e.staged != []) = true ∧
    endB [0xC360, 0x2000] .cend (withOutput {}) true (fun e => !e.aborted && e.staged == []) = true ∧
    endB [0xC360, 0x0800] .cout (withOutput { aborted := true }) true (fun e => e.aborted) = true := by decide +kernel

/-- SP0.T0 with the micro-operation `m` of an XOP to do in its next beat. -/
def atBeat (m : DWord) (p : Ctx → State → Bool) : Bool :=
  meetsBeat (strandAt [0xC3A6, 0x0005] { multi := some ⟨strandDecode 0xC3A6 5, .xop [m] [] 0⟩ })
    fun c b u => c.d.mn == .xop && b == .xop [m] [] 0 && p c u

/-- R122, R124: XOP 3 adds A and its OPND into U0 and commits A; a later beat that does so, one that compares, one that loads, and one that
stores U0. -/
theorem test_witness_xop :
    meets (strandAt [0xC3A6, 0x0005] {} (withRegs bare [(0x4304, 0xC0270001)])) (fun c u => runsB c u .xop && plainB c &&
      (c.view u).xopOps c.d.f 32 0 == [0xC027000100000000]) = true ∧
    meets (strandAt [0xC3A0, 0x0005] {} (withRegs bare [(0x4004, 0x80270000), (0x400C, 0xC047800F)])) (fun c u => runsB c u .xop && plainB c &&
      (c.view u).xopOps c.d.f 32 0 == [0x8027000000000000, 0xC047800F00000000]) = true ∧
    atBeat 0xC027000100000000 (fun c _ => plainB c) = true ∧ bits (0xD827400100000000 : DWord) 57 5 = 0xC ∧
    atBeat 0xD827400100000000 (fun _ _ => true) = true ∧ bits (0xE027000100000000 : DWord) 57 5 = 0x10 ∧
    atBeat 0xE027000100000000 (fun c u => spanTrap (c.view u) 0 0 c.th.st false 5 1 1 == none && !u.badGrans 0 5 1 &&
      !(u.core 0).busy (bankOf 5) (c.r + 4) && (c.xsource [] 4 + c.xsourceB [] 0xE027000100000000).toNat == 5) = true ∧
    atBeat 0xC027001100000000 (fun c u => spanTrap (c.view u) 0 0 c.th.st true 0 1 1 == none && areaOf 0 == .span &&
      !(u.core 0).busy (bankOf 0) (c.r + 4)) = true := by decide +kernel

/-- A FLASHOP word with its descriptor at X = 0x200. -/
def flashAt (op : Nat) (mn : Mn) (v : Nat) (th : Thread) (s : State) (p : Ctx → State → Bool) : Bool :=
  meets (strandAt [0xC382, 0x8000 + op] { th with x := 0x200 } { s with mem := writeNat 0 16 0x200 v [] }) fun c u => runsB c u mn && plainB c &&
    descriptorB c u 0x200 v && p c u

def barB (v : Nat) (c : Ctx) (u : State) : Option Nat := u.flashBar (flashOpOf c 0x200 v (u.core 0).epoch) (v / 2 ^ 56 % 2 ^ 8) c.pc.toNat

/-- R150, R401: each operation where its checks pass, at the edge of its COUNT; PRIV in OPERATE; one that runs already; a COUNT of 0. -/
theorem test_witness_flashop :
    flashAt 0 .flashProgram (2 ^ 32 * 1024 + 2 ^ 64 * 0x1000) {} bare (fun c u => c.th.st == .service && !u.flashPending 0 0 &&
      barB (2 ^ 32 * 1024 + 2 ^ 64 * 0x1000) c u == none) = true ∧
    flashAt 1 .flashErase (2 ^ 32 + 0x1FFE000) {} bare (fun c u => barB (2 ^ 32 + 0x1FFE000) c u == none) = true ∧
    flashAt 2 .flashBlank (2 ^ 32 + 0x1FFFFF8) {} bare (fun c u => barB (2 ^ 32 + 0x1FFFFF8) c u == none) = true ∧
    flashAt 3 .flashM0 (2 ^ 32 + 2 ^ 64 * 0xFFFF8) {} bare (fun c u => barB (2 ^ 32 + 2 ^ 64 * 0xFFFF8) c u == none) = true ∧
    flashAt 4 .flashM1 0 {} bare (fun c u => barB 0 c u == some 0x0A01) = true ∧
    flashAt 0 .flashProgram 0 { st := .operate } bare (fun c _ => c.th.st == .operate) = true ∧
    flashAt 1 .flashErase (2 ^ 32) {} { bare with fp := { bare.fp with q := [⟨0, 0, 1, 0, 1, 0, 0, 0x300, 0⟩] } } (fun _ u => u.flashPending 0 0) = true := by
  decide +kernel

/-! ## Threads and cores -/

/-- SP0.T0 as `th`, in SERVICE unless it says otherwise. -/
def withThread (th : Thread) (s : State := bare) : State := { s with threads := [(0, { th with st := if th.st = .idle then .service else th.st })] }

/-- R97, R99, R120, R142: an enabled event behind a disabled one, with EVB at the last handler address and with none; the deadline at its tick and
one tick before it. -/
theorem test_witness_events :
    (let s := withThread { pend := [(0x10, 3), (0x11, 2)], even := 2, evb := 0xFFFF0 }
     let th := s.thr 0
     s = s.chanDue 0 (s.bound 0 th) ∧ s.issues 0 = true ∧ th.active = true ∧ th.entry = none ∧ s.weight 0 0 ≠ 0 ∧ th.masked = false ∧
      (s.at 0 (s.bound 0 th - 1)).pend = [(0x10, 3)] ++ (0x11, 2) :: [] ∧ (s.at 0 (s.bound 0 th - 1)).enabled 0x10 = false ∧
      (s.at 0 (s.bound 0 th - 1)).enabled 0x11 = true ∧ evbOk (s.at 0 (s.bound 0 th - 1)).evb = true ∧ evbOk 0x100000 = false ∧ evbOk 0x404 = false) ∧
    (let s := withThread { arm := true, wt := 10 } { bare with clk := { mainRst := false, tb := 10 } }
     s.running = true ∧ s.inRst 0 = false ∧ (s.at 0 (s.core 0).round).arm = true ∧ (s.at 0 (s.core 0).round).wt.toNat ≤ s.clk.tb) ∧
    (let s := withThread { arm := true, wt := 11 } { bare with clk := { mainRst := false, tb := 10 } }
     s.running = true ∧ s.inRst 0 = false ∧ s.clk.tb < (s.at 0 (s.core 0).round).wt.toNat) := by decide +kernel

/-- R97: a latched entry of a TIMER, a CLOVE and a DEADLINE event comes next in its core. -/
theorem test_witness_entry : ∀ v ∈ [0x11, 0x12, 0x15],
    (let s := withThread { entry := some (3, 0x100, BitVec.ofNat 32 (v * 2 ^ 24 + 5)), pend := [(v, 5)] }
     match s.seek 0 (fun u => (u.thr 0).entry.isSome) 512 with
     | (.slot _ 0, u) => (u.thr 0).entry == some (3, 0x100, BitVec.ofNat 32 (v * 2 ^ 24 + 5)) && (u.nextSlot 0 0 ((u.core 0).round + 1)).isSome
     | _ => false) = true := by decide +kernel

/-- A request of SP0.T0 for `len` bytes at `a`. -/
def waitsFor (a len : Nat) (store : Option Nat) : Pend :=
  { dec := strandDecode 0xC012 0, pc := 0x100, a := 0, x := 0, y := 0, fl := 0, r := 5, lane := 0, addr := a, len := len, store := store }

/-- R82 to R84: a store of 8 bytes and a load of a word at the top of memory that wait, and a store-buffer entry that can be written. -/
theorem test_witness_requests : (∀ p ∈ [waitsFor 0xFFFF8 8 (some 7), waitsFor 0xFFFFC 4 none],
      (match (withThread { retry := some p }).seek 0 (fun u => (u.thr 0).retry.isSome) 512 with
       | (.retry 0, u) => (u.thr 0).retry == some p
       | _ => false) = true ∧
      p.part = none ∧ p.addr + p.len ≤ 0x100000 ∧ p.len ≤ 8 ∧ p.addr % 8 + p.len ≤ 8 ∧ p.dec.mn = .ld ∧ p.dec.size = 4) ∧
    (let e : SbEntry := ⟨0, 4, 0x1FFFF, 0xFF, 7⟩
     let s := { bare with cores := [(0, { inRst := false, round := 9, sb := [e] })] }
     s.clk.mainRst = false ∧ s.drainable 0 = some e ∧ sbFind (s.core 0).sb e.gran = some e ∧ e.gran < 0x20000) := by decide +kernel

/-- R108: a store to GPIO_OUT of SP0 and a load of it, both through the window, and an access to a Span in reset. -/
theorem test_witness_setup_access :
    (let p := waitsFor (0x20000000 + 0x7000) 4 (some 7)
     let s := withThread { setup := some p }
     let off := windowOff 0 p.addr
     s.clk.mainRst = false ∧ (s.thr 0).setup = some p ∧ p.dead = false ∧ s.offInRst off = false ∧
       ((s.setupWrite (.thread 0) off 7).thr 0).setup ≠ none ∧ ((s.setupWrite (.thread 0) off 7).thr 0).stepping = false) ∧
    (let p := waitsFor (0x30000000 + 0x108) 4 none
     let s := withThread { setup := some p }
     let off := windowOff 0 p.addr
     (s.thr 0).setup = some p ∧ s.offInRst off = false ∧ p.dec.mn = .ld ∧ p.dec.size = 4 ∧ ((s.setupRead (.thread 0) off).thr 0).setup ≠ none) ∧
    (let p := waitsFor (0x30000000 + 0x110000) 4 none
     let s := withThread { setup := some p }
     (s.thr 0).setup = some p ∧ s.offInRst (windowOff 0 p.addr) = true ∧ (s.thr 0).stepping = false) := by decide +kernel

/-- SP0.T0 parked on the first line of flash since tick 0. -/
def parked (s : State) : State := { withThread { park := some (lineOf 0x10000000, 0, none) } s with
  cores := [(0, { inRst := false, lreq := [⟨lineOf 0x10000000, 0, 0⟩] })] }

def atTick (n : Nat) : State := { bare with clk := { mainRst := false, tb := n } }

def busyBank (s : State) : State := { s with fp := { s.fp with q := [⟨0, 0, 1, 0, 1, 0, 0, 0x300, 0⟩] } }

/-- R25, R92, R96, R397: a requested line of a free and of a busy bank, and one that is not the next; a park of 64,000 ticks and one tick
more. -/
theorem test_witness_lines :
    (let s := parked (atTick 64001)
     let l := lineOf 0x10000000
     s.nextLine = some (0, ⟨l, 0, 0⟩) ∧ s.lineFault l = false ∧ (lineBank l).isSome = true ∧
       (s.thr (gthr 0 0)).park = some (l, 0, none) ∧ s.running = true ∧ 0 + 64000 < s.clk.tb ∧ (s.thr 0).xipWait = false) ∧
    (let s := parked (busyBank (atTick 64001))
     let l := lineOf 0x10000000
     s.nextLine = none ∧ s.lineBusy l = true ∧ 0 + 64000 < s.clk.tb ∧ (s.thr 0).parkLong = false) ∧
    (let s := parked (atTick 64000)
     (s.thr 0).park = some (lineOf 0x10000000, 0, none) ∧ s.running = true ∧ s.clk.tb ≤ 0 + 64000) := by decide +kernel

/-- R127: a thread in each wait, with its condition and without it. -/
theorem test_witness_wakes :
    (let s := withThread { wait := 1 } (withInput { buf := [(5, true, 0)] })
     s.issues 0 = true ∧ (s.thr 0).active = true ∧ (((s.waitFill 0 0).chanDue 0 (s.core 0).round).chEnd 0).ready (s.core 0).round = true) ∧
    (let s := withThread { wait := 2, waitTick := 10 } (atTick 9)
     s.issues 0 = true ∧ (((s.waitFill 0 0).chanDue 0 (s.core 0).round).chEnd 0).ready (s.core 0).round = false ∧ s.clk.tb < (s.thr 0).waitTick) ∧
    (let s := withThread { wait := 2, waitTick := 10 } (atTick 13)
     s.issues 0 = true ∧ (s.thr 0).waitTick + 3 ≤ s.clk.tb) ∧
    (let s := withThread { wait := 3, waitTick := 10 } (atTick 13)
     s.issues 0 = true ∧ (s.thr 0).active = true ∧ (s.thr 0).waitTick + 3 ≤ s.clk.tb) ∧
    (let s := withThread { wait := 3, waitTick := 10 } (atTick 9)
     s.issues 0 = true ∧ s.clk.tb < (s.thr 0).waitTick) ∧
    (let s := withThread { wait := 4 } (withPort 0 { recs := [(0, some 9)] })
     s.issues 0 = true ∧ s.portOf 0 0 (s.thr 0).waitOpnd = some 0 ∧ (s.port 0).recs = [(0, some 9)]) ∧
    (let s := withThread { wait := 5 }
     s.issues 0 = true ∧ (s.thr 0).active = true ∧ (s.thr 0).wait = 5) := by decide +kernel

/-- R71, R73: a round of a thread that cannot issue, one of a lane without a thread, one of an event entry, and a core that does not
run. -/
theorem test_witness_rounds :
    (let acts := fun (s : State) => ((s.chanDue 0 (s.core 0).round).servePorts 0 (s.core 0).round).firstAct 0 (s.core 0).round
     (withThread { wait := 1 }).coreRuns 0 = true ∧ (withThread { wait := 1 }).inRst 0 = false ∧ acts (withThread { wait := 1 }) = .idle ∧
     (let s := { withRegs bare [(spanOff 0 0x804, 0)] with cores := [(0, { inRst := false, round := 1 })] }
      s.coreRuns 0 = true ∧ acts s = .idle) ∧
     acts (withThread { entry := some (0, 2, 3) }) ≠ .idle) ∧
    (bare.coreRuns 1 = false ∧ bare.inRst 1 = true) := by decide +kernel

/-- R155, R156: every case of GO, at the edges of the code window, and of STOP. -/
theorem test_witness_go :
    (let s := withThread { st := .halted }
     s.clk.mainRst = false ∧ s.portShut .host = false ∧ s.inRst 0 = false ∧ (s.thr 0).active = false ∧ s.det 0 0 = false) ∧
    (withThread {}).portShut (.thread 0) = false ∧ ((withThread {}).thr 0).active = true ∧
    (let s := withThread { st := .halted, pc := 0x3FE } (withRegs bare [(spanOff 0 0x400, 0x08000000), (spanOff 0 0x40, 0x80000000)])
     s.det 0 0 = true ∧ s.inCwin 0 0 (s.thr 0).pc.toNat = true ∧ s.inCwin 0 0 0x400 = false) ∧
    (bits (0x90000000 : Word) 28 2 = 1 ∧ bits (0xA0000000 : Word) 28 2 = 2 ∧ bits (0xB0000000 : Word) 28 2 = 3 ∧
      (0x90000000 : Word).getLsbD 30 = false ∧ (0xD0000000 : Word).getLsbD 30 = true ∧ (0x40000000 : Word).getLsbD 31 = false) ∧
    (((withThread { entry := some (1, 2, 3) }).thr 0).entry = some (1, 2, 3) ∧ ((withThread {}).thr 0).entry = none) := by decide +kernel

/-! ## Timed ports, flash operations, channel ends -/

/-- SP0 with SPAN_EN. -/
def spanOn (l : List (Nat × Word)) : State := withRegs bare ((0x10, 1) :: l)

/-- An operation of port 0 at tick `k`. -/
def entry (opw guard : Word) (k : Nat) (late : Bool := false) (no : Option Nat := none) : TqEnt := ⟨0, 0, k, 0, opw, guard, k, 0, late, no, 0⟩

/-- R61, R65, R68: an operation of a squashed group and of an open one leave the crossing; a reopening of group 7. -/
theorem test_witness_tq_entry :
    (∀ sq ∈ [(0x01 : BitVec 8), 0x80],
      let s := { spanOn [] with threads := [(0, { squashed := sq, cross := [.op (entry 0x04000100 0x0F000000 5)] })] }
      s.pinLogic 0 = true ∧ (s.thr 0).cross = .op (entry 0x04000100 0x0F000000 5) :: [] ∧ (s.port 0).keighth < 8 ∧
        opRecords 0x04000100 = true ∧ ((0x0F000000 : Word).getLsbD 27 && sq.getLsbD (bits (0x0F000000 : Word) 24 3)) = (sq == 0x80)) ∧
    (let s := { spanOn [] with threads := [(0, { squashed := 0xFF, cross := [.reopen 7] })] }
     s.pinLogic 0 = true ∧ s.inRst 0 = false ∧ (s.thr 0).cross = .reopen 7 :: []) := by decide +kernel

/-- R55, R70: an enable that passes, one whose pins leave the bank, one of an enabled port with other fields and with its own. -/
theorem test_witness_port_setup :
    (bare.inRst 0 = false ∧ bare.bit (spanOff 0 0x200) 31 = false ∧
      (bare.setReg (spanOff 0 0x200) (0 &&& 0x60F7071F)).bothPass (fun s => s.tpBar 0 0 (0 ||| 0x80000000)) = none) ∧
    ((bare.setReg (spanOff 0 0x200) (24 &&& 0x60F7071F)).bothPass (fun s => s.tpBar 0 0 (24 ||| 0x80000000))).isSome = true ∧
    (let s := withRegs bare [(spanOff 0 0x2F8, 0x80000017)]
     s.inRst 0 = false ∧ s.bit (spanOff 0 (0x200 + 8 * 31)) 31 = true ∧ ((0x16 : Word) ||| 0x80000000) &&& 0xE0F7071F ≠ s.reg (spanOff 0 0x2F8) ∧
       ((0x17 : Word) ||| 0x80000000) &&& 0xE0F7071F = s.reg (spanOff 0 0x2F8)) := by decide +kernel

/-- Port 0 of T0 under configuration `cfg`, with one entry at tick 9 that makes a record. -/
def due (cfg : Word) (e : TqEnt) : State := { spanOn [(spanOff 0 0x200, cfg)] with
  clk := { mainRst := false, tb := 9 }
  ports := [(0, { queue := [e], recs := [(0, none)], recOut := 1 })] }

def dueB (cfg opw guard : Word) (late : Bool) : Bool :=
  let e := entry opw guard 9 late (some 0)
  let s := due cfg e
  let r := s.reg (spanOff 0 0x200)
  s.pinLogic 0 && r.getLsbD 31 && bits r 20 4 == 0 && (s.port 0).queue == [e] && Nat.ble e.ktick s.clk.tb && s.beforeApply e.ktick &&
    s.beforeDirect 0 e.ktick && s.guardsReady 0 e.ktick && Nat.blt e.keighth 8 && !e.squashed (s.thr 0).squashed &&
    (e.guard.getLsbD 31 && s.guardLevel 0 e.guard 0 e.ktick != e.guard.getLsbD 30) == guard.getLsbD 31

/-- R56, R62 to R67: an entry without a guard, one whose guard fails with and without a group, a late one under POLICY 0 and under 1, each at its
tick; a SMP and its record. No other port of the thread is enabled. -/
theorem test_witness_timed :
    (dueB 0x80000000 0x01000101 0 false && dueB 0x80000000 0x03000101 0xC0000000 false && dueB 0x80000000 0x02000101 0xCF000000 false &&
      dueB 0x80000000 0x01000101 0 true && dueB 0xA0000000 0x04000101 0 true && dueB 0xA0000017 0x05000000 0 false) = true ∧
    (∀ i : Fin 32, i ≠ 0 → ((due 0x80000000 (entry 0x01000101 0 9)).reg (spanOff 0 (0x200 + 8 * i))).getLsbD 31 = false) := by decide +kernel

/-- R397, R400 to R405: each operation at the end of flash, PROGRAM on a blank range and on one that is not. -/
theorem test_witness_flash_ends : ∀ o ∈ [(⟨0, 0, 0, 0x1FFFFF8, 1, 0, 0x1000, 0x200, 0⟩ : FlashOp), ⟨0, 0, 0, 0, 1, 0, 0x1000, 0x200, 0⟩,
      ⟨15, 0, 1, 0x1FFE000, 1, 0, 0, 0xFFFF0, 0⟩, ⟨0, 0, 2, 0, 1024, 0, 0, 0x200, 0⟩, ⟨0, 0, 3, 0, 1, 0, 0x204, 0x210, 0⟩, ⟨0, 0, 4, 0, 1, 0, 0x220, 0x210, 0⟩],
    let s := { bare with
      fp := { bare.fp with q := [o] }
      flash := [(0, 0)] }
    s.fp.q = o :: [] ∧ s.flashRuns = some o ∧ s.running = true ∧ o.n < 16 ∧ o.desc + 16 ≤ 2 ^ 20 ∧ o.desc % 8 = 0 ∧ o.count ≤ 1024 ∧ o.faddr + 8 * o.count ≤ 2 ^ 25 ∧
      (o.kind = 1 → o.faddr + 8192 ≤ 2 ^ 25) ∧
      (o.kind = 0 ∨ 3 ≤ o.kind → o.buf + 8 * o.count ≤ 2 ^ 20 ∧ (o.buf + 8 * o.count ≤ o.desc + 12 ∨ o.desc + 16 ≤ o.buf)) ∧
      (o.touches 3 = (o.faddr != 0)) ∧ (s.flashDw o.faddr = 2 ^ 64 - 1 ↔ o.faddr ≠ 0) := by decide +kernel

/-- End 0 enabled with CHE_CFG `v`, words staged and buffered and DROPS full; one write repeats `v` and one changes EVT. -/
def enabledB (v : Word) : Bool :=
  let s := { withRegs bare [(cheOff 0 0, v)] with ends := [(0, { buf := [(1, true, 0)], staged := [2], drops := 0xFFFF })] }
  let r := s.reg (cheOff 0 0)
  !s.inRst 0 && r.getLsbD 31 && r.getLsbD 30 == v.getLsbD 30 && (s.chEnd 0).landing == [] && (v ||| 0x80000000) &&& 0xFCF00000 == r &&
    ((v ||| 0x04000000) ||| 0x80000000) &&& 0xFCF00000 != r

/-- R161, R169: an input end that is enabled, an output end without a taker, and an enabled end of each direction. -/
theorem test_witness_end_setup :
    (bare.clk.mainRst = false ∧ bare.portShut .tap = false ∧ bare.inRst 0 = false ∧ bare.host.cdts = [] ∧ bare.bit (cheOff 0 127) 31 = false ∧
      (bare.setReg (cheOff 0 127) (0 &&& 0x7CF00000)).bothPass (fun s => s.cheBar 0 127 (0 ||| 0x80000000)) = none ∧
      ((bare.setReg (cheOff 0 127) (0x40000000 &&& 0x7CF00000)).bothPass (fun s => s.cheBar 0 127 (0x40000000 ||| 0x80000000))).isSome = true) ∧
    (enabledB 0x80000000 && enabledB 0xC0000000) = true := by decide +kernel

/-- SP0 with end 1 an input end of T0 from end 0, two words on their way and six in the buffer. -/
def moving (cfg : Word) : State := { spanOn [(cheOff 0 1, cfg), (cheOff 0 1 + 4, 0)] with
  ends := [(0, { store := [⟨7, false, 0, 0, 1⟩, ⟨8, true, 0, 0, 1⟩] }), (1, { buf := List.replicate 6 (1, true, 0) })] }

def movingB (cfg : Word) : Bool :=
  let s := moving cfg
  s.running && ((s.chEnd 0).store.all fun i => i.kind == 0 && !i.peer.getLsbD 31 && bits i.peer 15 4 == 0 && bits i.peer 0 7 == 1) &&
    (s.chEnd 0).compl == [] && (s.chEnd 0).landing == [] && s.host.cdts == [] && Nat.ble ((s.chEnd 0).store.length + (s.chEnd 1).buf.length) 8 &&
    s.accepts 0 1 0 0 == cfg.getLsbD 31

/-- Five words of end 0 of SP0 for end 0 of SP1. -/
def leaving : State := { spanOn [(spanOff 1 0x1000, 0x80000000), (spanOff 1 0x1004, 0)] with
  cores := [(0, { inRst := false }), (1, { inRst := false })]
  ends := [(0, { store := List.replicate 5 ⟨7, false, 0, 0, 0x8000⟩ })] }

/-- A word of end 0 for channel 3 of engine 11, whose in FIFO has room for one. -/
def toClove : State := { spanOn [(chnOff 0 11 3, 0x80000000), (cheOff 0 0, 0xC8000000), (cheOff 0 0 + 4, 47)] with
  ends := [(0, { store := [⟨7, true, 0, 1, 47⟩] })]
  chans := [(47, { inF := List.replicate 7 (0, 0) })] }

/-- A word of channel 0 of engine 0 for end 0, which holds `k` words. -/
def fromClove (k : Nat) : State := { spanOn [(cheOff 0 0, 0x88000000), (cheOff 0 0 + 4, 0)] with
  ends := [(0, { buf := List.replicate k (1, true, 0) })]
  chans := [(0, { outF := [5] })] }

/-- R163 to R165, R199: words to an end that takes them, filling its buffer, and to one that does not; words to another Span; a word for a Clove channel and one of it. -/
theorem test_witness_words :
    (movingB 0x80000000 && movingB 0) = true ∧ (moving 0 |>.chEnd 0).store ≠ [] ∧
    (leaving.running = true ∧ leaving.fabricNext 1 = some 0 ∧ (leaving.chEnd 0).store.length = 5 ∧ (leaving.chEnd 0).compl = [] ∧
      (leaving.chEnd 0).landing = [] ∧ ((leaving.chEnd 0).store.all fun i => i.kind == 0 && !i.peer.getLsbD 31 && bits i.peer 15 4 == 1 &&
        bits i.peer 0 7 == 0) = true ∧ leaving.accepts 1 0 0 0 = true ∧ leaving.host.cdts = [] ∧ leaving.accepts 1 1 0 0 = false) ∧
    (toClove.running = true ∧ toClove.fifoSource 0 11 3 = some 0 ∧ toClove.fifoRoom 0 11 3 = true ∧
      (toClove.chEnd 0).store = ⟨7, true, 0, 1, 47⟩ :: [] ∧ (toClove.chEnd 0).compl = []) ∧
    ((fromClove 7).boundEnd 0 0 0 false = some 0 ∧ ((fromClove 7).chan (chanKey 0 0 0)).outF = 5 :: [] ∧ ((fromClove 7).chEnd 0).buf.length = 7) ∧
    ((fromClove 8).boundEnd 0 0 0 false = some 0 ∧ ((fromClove 8).chEnd 0).buf.length = 8) := by decide +kernel

/-! ## Clove engines -/

/-- Engine 0 of SP0 at its first step, with instruction `w` for channel 0. -/
def cloveAt (w : Word) (ch : Chan) (l : List (Nat × Word) := []) : State := { spanOn ([(chnOff 0 0 0, 0x80000000), (spanOff 0 0x4000, w)] ++ l) with
  engines := [(0, { running := true })]
  chans := [(0, ch)] }

/-- The step is due, the channel executes, and the word is `mn`. -/
def clB (w : Word) (mn : ClMn) (ch : Chan) (p : CCtx → State → Bool) (l : List (Nat × Word) := []) : Bool :=
  let s := cloveAt w ch l
  let x := s.cctx 0 0 0
  s.engineDue 0 0 && s.chRuns 0 0 x.c x.ch && !s.clBad 0 0 x.ch.pc && clMn x.w == some mn && p x s

theorem clB_spec {w : Word} {mn : ClMn} {ch : Chan} {p : CCtx → State → Bool} {l : List (Nat × Word)} (h : clB w mn ch p l = true) :
    (cloveAt w ch l).cruns 0 0 0 mn ∧ p ((cloveAt w ch l).cctx 0 0 0) (cloveAt w ch l) = true := by
  simp only [clB, Bool.and_eq_true, beq_iff_eq, Bool.not_eq_true'] at h
  exact ⟨⟨h.1.1.1.1, h.1.1.1.2, h.1.1.2, h.1.2⟩, h.2⟩

/-- R190: the words of out, in, set and oe, at both ends of a count and of an offset. -/
theorem test_witness_clove_pins :
    (clB 0x08000000 .out {} (fun _ _ => true) && clB 0x0FE00000 .out { shcnt := 32 } (fun x s => Nat.blt (s.fld (chnOff 0 0 x.c) 0 3 + 1) (bits x.w 21 3 + bits x.w 24 3 + 1)) &&
      clB 0x10000000 .inn {} (fun _ _ => true) && clB 0x17000000 .inn { shcnt := 25 } (fun x _ => bits x.w 24 3 + 1 == 8) [(chnOff 0 0 0, 0xC0000007)] &&
      clB 0x1800FF55 .set {} (fun _ _ => true) && clB 0x20000003 .oe {} (fun x _ => x.w.getLsbD 1) [(chnOff 0 0 0 + 0xC, 0xFFFFFF)]) = true := by decide +kernel

/-- R188, R190, R195, R203: bit instructions on every kind of destination, the register moves, gadr with 0 and 32 bits, crc with and without a
polynomial, and wrap of a channel at its new end. -/
theorem test_witness_clove_bits :
    (clB 0x38000640 .mov {} (fun x _ => bits x.w 15 9 == 0 && bits x.w 6 9 == 25) && clB 0x3A100600 .and {} (fun x _ => bits x.w 15 9 == 32) &&
      clB 0x3C800640 .or {} (fun x _ => bits x.w 15 9 == 256) && clB 0x3F7F8640 .xor {} (fun x _ => bits x.w 15 9 == 0xFF && x.w.getLsbD 24) &&
      clB 0x38250640 .mov {} (fun x _ => bits x.w 15 9 == 74) && clB 0x5000FFFF .ldc {} (fun _ _ => true) && clB 0x54000001 .ldc {} (fun x _ => x.w.getLsbD 26) &&
      clB 0x5C200000 .mvr {} (fun x _ => bits x.w 24 3 == 4 && bits x.w 21 3 == 1) && clB 0x67000001 .ldsh {} (fun x _ => bits x.w 19 6 == 32) &&
      clB 0x70000500 .wrap {} (fun x _ => x.ch.pc == bits x.w 0 8) && clB 0x80000000 .gadr {} (fun _ _ => true) &&
      clB 0x84000000 .gadr {} (fun x _ => bits x.w 21 6 == 32) && clB 0x7F000000 .crc {} (fun x s => s.reg (chnOff 0 0 x.c + 0x14) == 0) &&
      clB 0x7F000000 .crc {} (fun x s => s.reg (chnOff 0 0 x.c + 0x14) == 0x83 && !s.bit (chnOff 0 0 x.c) 27 && !s.bit (chnOff 0 0 x.c) 30) [(chnOff 0 0 0 + 0x14, 0x83)])
        = true := by decide +kernel

/-- R184, R192: jmp by each condition, wait on a bit that has its value and one that has not, nop, dly, halt and irq with their event enabled, and a
step of a channel in dly, of one that stops, and of one that is disabled. -/
theorem test_witness_clove_flow :
    ((List.range 14).all fun k => clB (BitVec.ofNat 32 (0x40000000 + k * 2 ^ 23 + 7)) .jmp { cntA := 1, cntB := 1 } fun x _ => bits x.w 23 4 == k) = true ∧
    (clB 0x4C000000 .wait {} (fun x s => !x.bit s 0) && clB 0x4C064000 .wait {} (fun x s => x.bit s 25) && clB 0 .nop {} (fun _ _ => true) &&
      clB 0x6800FFFF .dly {} (fun _ _ => true) && clB 0xA0000000 .halt {} (fun x s => s.bit (chnOff 0 0 x.c) 17 && !x.ch.evPend) [(chnOff 0 0 0, 0x80030000)] &&
      clB 0x98000000 .irq {} (fun x s => s.bit (chnOff 0 0 x.c) 16 && !x.ch.evPend) [(chnOff 0 0 0, 0x80030000)]) = true ∧
    (let s := cloveAt 0 { dly := 1 }
     let x := s.cctx 0 0 0
     s.engineDue 0 0 = true ∧ s.chRuns 0 0 x.c x.ch = false ∧ s.chnEn 0 0 x.c = true ∧ x.ch.dly ≠ 0 ∧ s.drainHeld 0 0 x.c x.ch = false) ∧
    (let s := cloveAt 0 { stopping := true } [(chnOff 0 0 0, 0)]
     let x := s.cctx 0 0 0
     s.engineDue 0 0 = true ∧ s.chRuns 0 0 x.c x.ch = false ∧ x.ch.stopping = true) := by decide +kernel

/-- R197 to R202: pull and pulln on a word and on none; push and pushn with room and without; gpost that posts, that may not, and that stalls; hsh. -/
theorem test_witness_clove_fifos :
    (clB 0x28000000 .pull {} (fun x _ => x.ch.inF == []) && clB 0x28000001 .pulln {} (fun x _ => x.ch.inF == []) &&
      clB 0x30000000 .push { outF := List.replicate 8 0 } (fun x _ => Nat.ble 8 x.ch.outF.length) && clB 0x30000001 .pushn { outF := List.replicate 8 0 } (fun x _ => Nat.ble 8 x.ch.outF.length) &&
      clB 0x30000000 .push { outF := List.replicate 7 0 } (fun x _ => Nat.blt x.ch.outF.length 8) && clB 0x90000000 .hsh {} (fun x _ => !x.ch.flags.getLsbD 9) &&
      clB 0x88000000 .gpost { flags := 0x40 } (fun x _ => x.ch.flags.getLsbD 6) &&
      clB 0x88000000 .gpost {} (fun x s => !x.ch.flags.getLsbD 6 && !(s.reg (chnOff 0 0 x.c + 0x10)).getLsbD 31) &&
      clB 0x88000002 .gpost {} (fun x s => let g := s.reg (chnOff 0 0 x.c + 0x10)
        g.getLsbD 31 && s.gtEn (bits g 0 8) && (s.postBinding (bits g 0 8) 0 0 x.c).isSome)
        [(chnOff 0 0 0 + 0x10, 0x80000000), (gtOff 0, 0x80000000), (gtOff 0 + 8, 0x80000000)]) = true := by decide +kernel

/-- A word that entered the in FIFO at tick 0, seen by a step of tick 1. -/
theorem test_witness_clove_pull :
    (let s := { cloveAt 0x28000000 { inF := [(7, 0)] } with
       clk := { mainRst := false, tb := 100 }
       engines := [(0, { running := true, origin := 100 })] }
     let x := s.cctx 0 0 0
     s.cruns 0 0 0 .pull ∧ x.ch.inF = (7, 0) :: [] ∧ (x.ch.inF.all fun p => decide (x.tick ≤ p.2)) = false) := by
  refine ⟨⟨?_, ?_, ?_, ?_⟩, ?_, ?_⟩ <;> decide +kernel

/-- R205 to R208: an enable that passes and one that is refused, of a channel at the end of its range; a disable of a stepping engine and of one
that stands; a program word written, one refused as reserved, and one while the engine steps. -/
theorem test_witness_clove_setup :
    (let s := spanOn [(spanOff 0 0x7400, 1)]
     s.clk.mainRst = false ∧ s.portShut .host = false ∧ s.inRst 0 = false ∧ s.bit (chnOff 0 0 0) 31 = false ∧ (s.chan 0).stopping = false ∧
       (0x10000000 : Word) &&& 0x78FF1F07 = s.stg (chnOff 0 0 0) &&& 0x78FF1F07 ∧ s.bothPass (State.chanBar 0 0 0) = none) ∧
    (let s := spanOn []
     0x10000000 &&& 0x78FF1F07 = s.stg (chnOff 0 11 3) &&& 0x78FF1F07 ∧ (s.bothPass (State.chanBar 0 11 3)).isSome = true) ∧
    (let s := cloveAt 0 {}
     s.bit (chnOff 0 0 0) 31 = true ∧ (s.engine 0).running = true ∧ s.spanEn 0 = true ∧ s.ceRunning 0 0 = true) ∧
    (let s := withRegs bare [(chnOff 0 0 0, 0x80000000)]
     s.bit (chnOff 0 0 0) 31 = true ∧ (s.engine 0).running = false) ∧
    (bare.ceRunning 0 0 = false ∧ ((List.range 4).any fun j => bare.chnEn 0 0 j) = false ∧ clReserved 0 = false ∧ clReserved 0xA8000000 = true) := by decide +kernel

/-! ## Resets, power, timers and pins -/

/-- R29, R30, R458: RST_CTRL without, with a wrong and with its key; the core supply; the releases that do nothing and the one that ends
MAIN reset. -/
theorem test_witness_main_reset :
    (bare.clk.mainRst = false ∧ (0x4D520000 : Word).getLsbD 0 = false ∧ (0x4D530001 : Word).getLsbD 0 = true ∧
      bits (0x4D530001 : Word) 16 16 ≠ 0x4D52 ∧ (0x4D520001 : Word).getLsbD 0 = true ∧ bits (0x4D520001 : Word) 16 16 = 0x4D52 ∧
      (bare.fp.q = [] ∧ bare.meas.ring = none ∧ bare.optn.writing = none) ∧ bare.clk.pok = true) ∧
    State.reset.clk.backupRst = true ∧
    (let s := { bare with clk := { mainRst := true, pok := false, backupRst := false } }
     s.clk.pok = false) ∧
    (let s := { bare with clk := { mainRst := true, backupRst := false, cause := 2 } }
     s.clk.backupRst = false ∧ s.clk.pok = true ∧ s.clk.mainRst = true ∧ (s.bank 15).pcb = [] ∧ 2 ≤ s.clk.cause) := by decide +kernel

/-- R39, R40, R464: an enable that passes and one whose pin has DRV 3; a Span that stops, with and without a thread in an entry; a Span
that serves a target; a reset of Span 0 before and after boot, of Span 15; its release at its tick and before. -/
theorem test_witness_span_lifecycle :
    (bare.clk.mainRst = false ∧ bare.spanEn 0 = false ∧ bare.bothPass (State.spanBar 0) = none ∧ bare.bothPass (State.spanBar 15) = none ∧
      ((withRegs bare [(spanOff 15 0x7404, 6)]).bothPass (State.spanBar 15)).isSome = true) ∧
    ((spanOn []).spanEn 0 = true ∧ (spanOn []).servedTarget 0 = none ∧ ((spanOn []).thr 0).entry = none) ∧
    (let s := withRegs (spanOn []) [(gtOff 255, 0x80000000), (gtOff 255 + 8, 0x80000000)]
     s.spanEn 0 = true ∧ s.servedTarget 0 ≠ none) ∧
    (((List.range 16).any fun t => bare.inFlight 0 t) = false) ∧
    ((0x0001 : BitVec 16).getLsbD 0 = true ∧ (bare.core 0).inRst = false ∧ bare.boot.done = false ∧ ((bare.core 15).inRst = true) ∧
      ({ bare with boot := { done := true } } : State).boot.done = true ∧ (0x8000 : BitVec 16).getLsbD 15 = true ∧
      (0x8000 : BitVec 16).getLsbD 0 = false ∧ (({ bare with cores := [(15, { inRst := false })] } : State).core 15).inRst = false ∧
      (bare.cores.all fun c => c.2.sb.isEmpty) = true ∧ (bare.threads.all fun t => t.2.retry.isNone) = true) ∧
    (let s := { bare with clk := { mainRst := false, tb := 15 }, cores := [(15, { rstEnd := some 16 }), (0, { rstEnd := some 15 })] }
     (s.core 15).rstEnd = some 16 ∧ s.clk.tb < 16 ∧ (s.core 0).rstEnd = some 15 ∧ 15 ≤ s.clk.tb) := by decide +kernel

/-- R33, R34, R330, R331: a grant and a denial of SLEEP, its end; LF edges in and outside LF mode, at each of their steps. -/
theorem test_witness_time_and_power :
    (bare.clk.sleeping = false ∧ bare.mayOnSleep = true ∧ bare.clk.lfMode = false ∧ bare.lfCause = false ∧ bare.portShut .host = false) ∧
    ({ bare with frz := { st := .checking } } : State).mayOnSleep = false ∧
    (let s := { bare with clk := { mainRst := false, backupRst := false, sleeping := true, acc := 27 } }
     s.clk.sleeping = true ∧ s.clk.lfMode = false ∧ s.lfCause = true ∧ 64 ≤ s.clk.acc + 37) ∧
    (let s := { bare with clk := { mainRst := false, lfMode := true, sleeping := true, acc := 26 } }
     s.clk.lfMode = true ∧ s.lfLeaves 0xFFE = false ∧ ¬ 64 ≤ s.clk.acc + 37) ∧
    (let s := { bare with clk := { mainRst := false, lfMode := true } }
     s.lfLeaves 1 = true) ∧
    State.reset.clk.backupRst = true ∧ State.reset.clk.mainRst = true := by decide +kernel

/-- R333 to R344: an increment at a tick of the phase, of a single channel and of a low one; the words of a single channel and of both
halves of a pair; a first sample, one with an edge and one without; an enable that passes, one that shares its pin, a disable. -/
theorem test_witness_timers :
    (let s := { withRegs bare [(tmOff 0 0, 0xC0300000), (tmOff 0 0 + 4, 0x00010001)] with
       clk := { mainRst := false, tb := 5 }, timers := [(tmKey 0 0, { lastInc := 1 })] }
     s.tmRuns 0 0 = true ∧ s.tmHigh 0 0 = false ∧ s.tmLow 0 0 = false ∧ (s.reg (tmOff 0 0)).getLsbD 28 = false ∧
       (s.timer (tmKey 0 0)).lastInc < 3 ∧ 3 % (s.fld (tmOff 0 0 + 4) 16 16 + 1) = s.fld (tmOff 0 0 + 4) 0 16 % (s.fld (tmOff 0 0 + 4) 16 16 + 1) ∧
       2 % (s.fld (tmOff 0 0 + 4) 16 16 + 1) ≠ s.fld (tmOff 0 0 + 4) 0 16 % (s.fld (tmOff 0 0 + 4) 16 16 + 1) ∧ 3 ≤ s.clk.tb ∧
       s.capFirst 0 0 3 = false) ∧
    (let s := withRegs bare [(tmOff 0 6, 0xC0000000), (tmOff 0 7, 0x20000000)]
     s.tmRuns 0 6 = true ∧ s.tmLow 0 6 = true ∧ s.tmHigh 0 7 = true ∧ s.tmLow 0 7 = false ∧ s.inRst 0 = false) ∧
    (let s := { withRegs bare [(tmOff 0 0, 0x80000200), (pinOff 0 0, 13), (spanOff 0 0x7404, 1)] with
       clk := { mainRst := false, tb := 5 }, timers := [(tmKey 0 0, { fresh := false })] }
     s.running = true ∧ s.inRst 0 = false ∧ s.bit (tmOff 0 0) 31 = true ∧ s.tmHigh 0 0 = false ∧ s.tmLow 0 0 = false ∧
       ((s.timer (tmKey 0 0)).lastSmp / 2 ^ s.fld (tmOff 0 0) 5 4 + 1) * 2 ^ s.fld (tmOff 0 0) 5 4 = 1 ∧ 1 ≤ s.clk.tb ∧
       s.incFirst 0 0 1 = false ∧ (s.reg (tmOff 0 0)).getLsbD 28 = false ∧ s.fld (tmOff 0 0) 3 2 = 0 ∧
       s.fld (tmOff 0 0) 1 2 = 0 ∧ s.tmSource 0 0 true = true ∧ s.tmSource 0 0 false = (s.timer (tmKey 0 0)).level ∧
       ((s.timer (tmKey 0 1)).fresh = true ∧ (s.timer (tmKey 0 0)).fresh = false)) ∧
    (bare.portShut .host = false ∧ (0x5FFF01FF : Word) &&& 0 = bare.stg (tmOff 0 0) &&& 0x5FFF01FF ∧ bare.bit (tmOff 0 0) 31 = false ∧
      (bare.setReg (tmOff 0 0) (0x200 &&& 0x2000FE00)).bothPass (fun s => s.tmBar 0 0) = none ∧
      ((withRegs bare [(tmOff 0 1, 0x80000200), (tmOff 0 0, 0x200 &&& 0x2000FE00)]).bothPass (fun s => s.tmBar 0 0)).isSome = true ∧
      (withRegs bare [(tmOff 0 1, 0x80000200)]).bit (tmOff 0 1) 31 = true) := by decide +kernel

/-- R216 to R227: a pin of an enabled port and a free one; direct writes that are off, locked, passed and refused; a crossing function, a
keeper at its tick; the Rime sequence at each of its words, complete, wrong and late. -/
theorem test_witness_pins :
    (bare.inRst 0 = false ∧ ((withRegs bare [(spanOff 0 0x200, 0x80000017)]).portOfPin 0 23).isSome = true ∧ (bare.portOfPin 0 23).isSome = false) ∧
    (bare.portShut .host = false ∧ (0x7FFFFFFF : Word).getLsbD 31 = false ∧ (0x8000000E : Word).getLsbD 31 = true ∧
      ({ bare with banks := [(0, { rimeLock := 0x800000 })] } : State).bank 0 = { rimeLock := 0x800000 } ∧
      (0x800000 : BitVec 24).getLsbD 23 = true ∧ (bare.bank 0).rimeLock.getLsbD 23 = false ∧
      bare.bothPass (State.directBar 0 23 (bits (0x8000000F : Word) 0 4)) = none ∧
      (bare.bothPass (State.directBar 0 23 (bits (0x8000000E : Word) 0 4))).isSome = true) ∧
    (let s := { bare with clk := { mainRst := false, tb := 4 }, banks := [(0, { direct := [(23, 15, 4)] })] }
     (s.bank 0).direct = (23, 15, 4) :: [] ∧ 4 ≤ s.clk.tb ∧ s.beforeApply 4 = true ∧ s.bankTo 0 4 = true) ∧
    ¬ ({ bare with banks := [(0, { direct := [(23, 15, 4)] })] } : State).clk.tb ≥ 4 ∧
    bare.firnBar .host = none ∧
    (let s := { bare with clk := { mainRst := false, tb := 64 }, banks := [(0, { keep := [(23, 64)] })] }
     tabGet 0 (s.bank 0).keep 23 ≤ s.clk.tb ∧ tabGet 0 (s.bank 0).keep 23 ≠ 0) ∧
    (let at_ (k : Nat) (tb : Nat) : State := { bare with clk := { mainRst := false, tb := tb }, banks := [(0, { rimeSeq := k })] }
     ((at_ 0 0).bank 0).rimeSeq = 0 ∧ ((at_ 1 0).bank 0).rimeSeq = 1 ∧ ¬ (((at_ 1 0).bank 0).rimeSeq = 0 ∧ (0x1CE5 : Word) = 0x1CE5) ∧
       ¬ (((at_ 1 0).bank 0).rimeSeq = 1 ∧ (0x1CE5 : Word) = 0xC01D) ∧ (((at_ 2 0).bank 0).rimeSeq = 2 ∧ bits (0xA5FFFFFF : Word) 24 8 = 0xA5) ∧
       ¬ (((at_ 2 0).bank 0).rimeSeq = 2 ∧ bits (0xA4FFFFFF : Word) 24 8 = 0xA5) ∧
       (((at_ 2 4096).bank 0).rimeSeq ≠ 0 ∧ ((at_ 2 4096).bank 0).rimeTick + 4096 ≤ (at_ 2 4096).clk.tb) ∧
       (at_ 2 4095).clk.tb < ((at_ 2 4095).bank 0).rimeTick + 4096) := by decide +kernel

/-! ## The Guard and the boot record -/

/-- A post of Clove channel (e, 3) on target 255. -/
def post (e code op : Nat) (fside : Option (Nat × Nat)) (oor monitored : Bool) : Post :=
  ⟨e, 3, 255, 1, 0x3FFFFFFFFFF, op, 8, code, 7, 0x8000, oor, fside, monitored, false⟩

/-- An ended transaction of binding 1 of target 255. -/
def txn : Txn := { id := 0, n := 0, e := 11, c := 3, target := 255, b := 1, addr := 0, comp := 7, p8 := 8, lane := 15, data := [1, 2], ended := true }

/-- R234, R245 to R256: posts that wait for a unit and for their answers, of each kind; full units; a transaction that folds; an enable
that passes and one that does not; targets that may and may not be cleared. -/
theorem test_witness_guard :
    (let q := post 11 2 1 none true true
     let s := { bare with gd := { slices := [(0, { queue := [q] })] } }
     s.clk.mainRst = false ∧ s.inRst 0 = false ∧ (s.slice 0).units.length < 2 ∧ firstPost (s.slice 0).queue = some q ∧ q.code = 2 ∧ q.oor = true) ∧
    (let q := post 0 1 0 none false false
     let s := { withRegs bare [(gtOff 255, 0x80000000), (gtOff 255 + 4, 0x000F8000)] with gd := { slices := [(0, { units := [q, q] })] } }
     2 ≤ (s.slice 0).units.length ∧ (s.slice 0).units = q :: [q] ∧ q.fside = none ∧ q.code = 1 ∧ q.op = 0 ∧
       s.laneOfTarget q.target = some 15) ∧
    (let q := post 11 2 1 (some (10, 3)) true true
     let s := { bare with gd := { slices := [(0, { units := [q] })] } }
     (s.slice 0).units = q :: [] ∧ q.fside = some (10, 3) ∧ ¬ (q.code = 1 ∧ q.op = 0) ∧ q.code = 2 ∧ q.monitored = true) ∧
    (bare.slice 0).units = [] ∧ (bare.slice 0).queue = [] ∧
    (let s := { bare with meas := { txns := [txn] } }
     firstTxn (fun x => x.target == 255 && x.b == 1 && x.ended) s.meas.txns none = some txn ∧ s.foldable txn = true) ∧
    firstTxn (fun x => x.target == 255 && x.b == 1 && x.ended) bare.meas.txns none = none ∧
    (let s := withRegs bare [(gtOff 255 + 8, 0x80010000)]
     s.portShut .host = false ∧ (0x830C8800 : Word) &&& 0x7FFFFF80 = s.stg (gtOff 255) &&& 0x7FFFFF80 ∧ s.gtEn 255 = false ∧
       s.bothPass (State.gtBar 255) = none ∧ (bare.bothPass (State.gtBar 255)).isSome = true) ∧
    (let s := { withRegs bare [(gtOff 255, 0x830C8800)] with meas := { txns := [{ txn with ended := false }] } }
     s.gtEn 255 = true ∧ s.gd.sealed = false ∧ s.meas.txns = [{ txn with ended := false }] ∧ txn.target = 255 ∧ txn.data ≠ [] ∧
       ({ s with gd := { sealed := true } } : State).gtEn 255 = true) := by decide +kernel

/-- R237, R260 to R266: table writes with and without the copy that follows a swap, at the last index; a probe that starts and one that ends;
closes at their ticks; a signature with a valid key, with no key, with the key 0; ring writes into the last slot. -/
theorem test_witness_region_table :
    (bare.clk.mainRst = false ∧ bare.portShut .host = false ∧ bare.gd.sync = false ∧ bare.firnBar .host = none) ∧
    (let s := { withRegs bare [(0x30010, 0xC0007FFF)] with gd := { sync := true, buf := [(2, 1)] } }
     s.gd.sync = true ∧ s.gdIndex = 0x7FFF ∧ s.bit 0x30010 30 = true ∧ s.bit 0x30010 31 = true ∧
       tabGet 0 s.regionStaged s.gdIndex ≠ BitVec.ofNat 128 (1 * 2 ^ 64 + 5 * 2 ^ 96)) ∧
    (bare.gd.probe = none ∧ bits (0x5FFFFFFF : Word) 29 2 ≠ 3 ∧ ({ bare with gd := { probe := some 1 } } : State).gd.probe = some 1) ∧
    (({ bare with meas := { closing := true } } : State).meas.closing = true ∧ bare.meas.closing = false ∧ bare.meas.closePend = false) ∧
    (let s := { bare with meas := { closeAt := some 1 } }
     s.meas.closePend = false ∧ s.meas.closeAt = some 1 ∧ s.clk.tb < 1) ∧
    (let s := { bare with meas := { closePend := true } }
     s.meas.closePend = true ∧ s.meas.closeAt = none ∧ s.meas.closing = false) ∧
    (let s := { bare with meas := { closePend := true, closeAt := some 0 }, casc := { bare.casc with master := true } }
     s.meas.closePend = true ∧ s.meas.closeAt = some 0 ∧ 0 ≤ s.clk.tb ∧ s.casc.master = true) ∧
    (bare.meas.closeAt = none ∧ bare.meas.closePend = false) ∧
    (let r : Rec := ⟨0, 0, 0, 0, [], 0, 0, false⟩
     let s := { bare with meas := { closing := true, queue := [r] } }
     s.meas.closing = true ∧ s.meas.ring = none ∧ s.meas.queue = r :: [] ∧ s.alm.keysOff = false ∧ keyOk 1 = true ∧
       (some (0 : Digest)).all (fun k => !keyOk k) = true ∧ (none : Option Digest).all (fun k => !keyOk k) = true ∧
       ({ s with alm := { s.alm with keysOff := true } } : State).alm.keysOff = true) ∧
    (bare.fp.ringRuns = false ∧ bare.meas.ring = none) ∧
    (let s := { bare with meas := { ring := some (2 ^ 32 - 1, List.replicate 224 9) }, fp := { bare.fp with ringRuns := true } }
     s.fp.ringRuns = true ∧ s.ringFaulty = false ∧ ({ s with fp := { s.fp with fault := 15 } } : State).ringFaulty = true ∧ s.meas.ring = some (2 ^ 32 - 1, List.replicate 224 9) ∧ (List.replicate 224 (9 : Byte)).length ≤ 0x1FF8 ∧
       s.ringSlot (2 ^ 32 - 1) + 8192 ≤ 2 ^ 25) := by decide +kernel

/-! ## The host interface -/

/-- The interface enabled, with session `k` in its state `x`: rings of 64 commands and 256 responses. -/
def hostAt (k : Nat) (x : Ses) (s : State := bare) : State := { withRegs s [(0x20000, 0x80000000), (0x20008, 0x10000), (0x20010, 0x20000),
    (sesOff k, 0x80080600), (sesOff k + 8, 0x30000), (sesOff k + 16, 0x40000)] with
  host := { s.host with sess := tabSet {} s.host.sess k x, dbSet := true, stSet := true } }

/-- The bytes of a command's header: OPCODE, SLOTS, FLAGS, TAG, PLEN, conduit, then bytes 16 on. -/
def header (op slots flags tag plen d : Nat) (args : List Byte) : List Byte :=
  leBytes 2 op ++ leBytes 1 slots ++ leBytes 1 flags ++ leBytes 4 tag ++ leBytes 2 plen ++ leBytes 2 d ++ leBytes 4 0 ++ args

/-- A command read in. -/
def command (op plen d : Nat) (args payload : List Byte) : Cmd := cmdOf ((header op ((64 + plen + 63) / 64) 0 9 plen d args ++ leBytes 64 0).take 64 ++ payload) false

/-- R273 to R305: enables of the interface and of a session that pass and fail; sessions of each state; a doorbell read; a turn with room and
without; a notice; items of a receive and its LINGER. -/
theorem test_witness_host_sessions :
    (let s := hostAt 5 {}
     let t := s.setReg 0x20000 0
     s.clk.mainRst = false ∧ t.hiEn = false ∧ (0x80000000 : Word).getLsbD 31 = true ∧
       (t.host.dbSet = true ∧ t.host.stSet = true ∧ Sys2Proof.Machine.meets (t.base64 0x20008) 8192 (t.base64 0x20010) 16384 = false) ∧
       bare.hiEn = false ∧ bare.host.dbSet = false ∧ s.hiEn = true ∧ (0 : Word).getLsbD 31 = false ∧
       (s.host.sess.all fun x => x.2.st == .free) = true ∧ ((hostAt 5 { st := .ready }).host.sess.all fun x => x.2.st == .free) = false) ∧
    (let s := (hostAt 1023 {}).setReg (sesOff 1023) 0x80600
     s.bit (sesOff 1023) 31 = false ∧ (s.setReg (sesOff 1023) (0x80600 &&& 0x401F1F00)).sesBar 1023 = none ∧
       ((s.setReg (sesOff 1023) (0x80500 &&& 0x401F1F00)).sesBar 1023).isSome = true) ∧
    (let s := hostAt 5 { st := .opened }
     s.bit (sesOff 5) 31 = true ∧ (s.ses 5).st ≠ .free ∧ (s.ses 5).st ≠ .quiescing ∧ (s.ses 5).live = true ∧ s.hiEn = true ∧ (s.ses 5).st ≠ .faulted ∧
       ((hostAt 5 { st := .faulted }).ses 5).st = .faulted ∧ s.groupLive (5 / 8) = true ∧
       ((hostAt 5 { st := .quiescing }).ses 5).st = .quiescing ∧ ((hostAt 5 { st := .quiescing }).ses 5).cmds = []) ∧
    (let s := hostAt 5 { st := .opened, ctail := 1 }
     let l := header 0 1 0 9 0 0 []
     let c := cmdOf l ((s.cdt (hdr l 10 2 % 4096)).kind == 2)
     s.hiEn = true ∧ s.turnNext = some 5 ∧ s.nextCmd 5 = none ∧ (s.ses 5).st ≠ .closing ∧ c.slots ≤ (s.ses 5).posted ∧ c.need + 0 ≤ s.freeSlots 5 ∧
       (s.ses 5).cmds = [] ∧ (s.ses 0).cmds = [] ∧ c.bad = false ∧ knownOp c.opcode = true ∧ c.opcode ≠ 2 ∧
       ((hostAt 5 { st := .closing, ctail := 1 }).ses 5).st = .closing ∧ (hostAt 5 { st := .closing, ctail := 1 }).turnNext = some 5) ∧
    (let s := { hostAt 5 { st := .opened } with clk := { mainRst := false, tb := 256 } }
     s.mayRead = true ∧ s.nextRead = some 0 ∧ (s.ses (8 * 0 + 5)).live = true ∧ cntSub (bits (0x00000100000040 : DWord) 0 24) (s.ses 5).chead ≤ s.cmdSlots 5 ∧
       cntSub (s.ses 5).rtail (bits (0x40 : DWord) 24 24) ≤ s.rspSlots 5 ∧ s.cmdSlots 5 < cntSub (bits (0x41 : DWord) 0 24) (s.ses 5).chead) ∧
    (let x : Notice := ⟨0x8002, [], List.replicate 32 7⟩
     let s := hostAt 0 { st := .opened, feat := 0x7FF } { bare with host := { notices := [x] } }
     s.host.notices = x :: [] ∧ (s.ses 0).live = true ∧ s.noticeOk x = true ∧
       (let u := hostAt 0 { st := .opened } { bare with host := { notices := [x] } }
        u.host.notices = x :: [] ∧ (u.ses 0).live = true ∧ u.noticeOk x = false) ∧ x.code ≠ 0x8003 ∧ slotsOf x.payload.length ≤ s.freeSlots 0) ∧
    (let c := { command 0x11 0 7 (leBytes 2 68 ++ leBytes 2 0 ++ leBytes 4 100) [] with started := true }
     let s := hostAt 5 { st := .opened, feat := 32, cmds := [c] } (withRegs { bare with
       host := { cdts := [(7, { bound := true, kind := 1, dir := 1, session := 5, unit := 47 })] }, chans := [(chanKey 0 11 3, { outF := [3] })] }
       [(chnOff 0 11 3, 0x80000000)])
     let b := itemBytes [3]
     s.running = true ∧ s.recvFront 7 = some (5, 0, c) ∧ s.cdtItem 7 = some b ∧ (s.cdt 7).dir ≠ 0 ∧ s.attached 7 = true ∧ s.lingered 5 c = false ∧
       c.data.length + b.length ≤ hdr c.args 16 2 ∧ s.recvFull 5 ((s.cdt 7).kind == 2) { c with
         data := c.data ++ b
         items := c.items + 1
         first := if c.items = 0 then s.clk.tb else c.first
         lost := c.lost || ((s.cdt 7).kind == 2 && decide (0 < (s.cdt 7).lost)) } = false ∧ (s.cdt 7).kind = 1) ∧
    (let c := { command 0x11 0 7 (leBytes 2 68 ++ leBytes 2 0 ++ leBytes 4 100) [] with started := true, data := itemBytes [3], items := 1, first := 4 }
     let s := { hostAt 5 { st := .opened, feat := 32, cmds := [c] } { bare with
       host := { cdts := [(7, { bound := true, kind := 1, dir := 1, session := 5, unit := 47 })] } } with clk := { mainRst := false, tb := 104 } }
     s.recvFront 7 = some (5, 0, c) ∧ (s.ses 5).cmds = [c] ∧ (s.ses 5).live = true ∧ (s.ses 0).cmds = [] ∧ c.items ≠ 0 ∧
       c.first + s.linger 5 c ≤ s.clk.tb) := by
  refine ⟨?_, ?_, ?_, ?_, ?_, ?_, ?_, ?_⟩ <;> decide +kernel

/-- Session `k` in a state of its life, with the one command `c`. -/
def cmdAt (k : Nat) (st : SesState) (c : Cmd) (s : State := bare) : State := hostAt k { st := st, cmds := [c], feat := 0x7FF, rsv := c.need } s

/-- The command starts alone in its session. -/
def startsB (s : State) (k : Nat) (c : Cmd) : Bool := s.clk.mainRst == false && (s.ses k).cmds == [c] && !c.started && !c.bad &&
  (k == 0 || (s.ses 0).cmds == [])

theorem startsB_spec {s : State} {k : Nat} {c : Cmd} (h : startsB s k c = true) : s.starts k c := by
  simpa [startsB, State.starts, and_assoc] using h

/-- A bound conduit of an end, of session 5. -/
def endCdt (dir : Nat) : Conduit := { bound := true, dir := dir, session := 5, span := 15, unit := 127 }

/-- An input end 127 of SP15 for conduit 4095. -/
def endHost (s : State) : State := withRegs { s with cores := [(15, { inRst := false })] } [(0x10, 0x8000), (cheOff 15 127, 0x90000000), (cheOff 15 127 + 4, 4095)]

/-- R281 to R296, R366: each opcode starts alone in its session, in a state that meets each clause about it. -/
theorem test_witness_host_commands :
    (let nop := command 0 0 0 [] []
     startsB (cmdAt 5 .opened nop) 5 nop = true ∧ startsB (cmdAt 5 .ready nop) 5 nop = true ∧
       (let s := cmdAt 5 .opened nop
        s.base64 (sesOff 5 + 0x10) + (s.ses 5).rtail % s.rspSlots 5 * 64 + 64 ≤ s.base64 0x20010 + 16 * 5 ∨
          s.base64 0x20010 + 16 * 5 + 16 ≤ s.base64 (sesOff 5 + 0x10) + (s.ses 5).rtail % s.rspSlots 5 * 64)) ∧
    (let op (lo hi : Nat) := command 1 0 0 (leBytes 2 lo ++ leBytes 2 hi ++ leBytes 4 0 ++ leBytes 8 0x7FF) []
     startsB (cmdAt 1023 .ready (op 0x0200 0xFFFF)) 1023 (op 0x0200 0xFFFF) = true ∧ startsB (cmdAt 0 .ready (op 0x0305 0xFFFF)) 0 (op 0x0305 0xFFFF) = true ∧
       (versions.find? fun v => decide (hdr (op 0x0200 0xFFFF).args 16 2 ≤ v) && decide (v ≤ hdr (op 0x0200 0xFFFF).args 18 2)) = some 0x0304 ∧
       (versions.find? fun v => decide (hdr (op 0x0305 0xFFFF).args 16 2 ≤ v) && decide (v ≤ hdr (op 0x0305 0xFFFF).args 18 2)) = none) ∧
    (let c := command 2 0 0 [] []
     startsB (cmdAt 5 .closing c) 5 c = true) ∧
    (let c := command 3 0 0 (leBytes 4 8) []
     startsB (cmdAt 5 .opened c) 5 c = true) ∧
    (let c := command 0x10 4 4095 (leBytes 1 1) (leBytes 4 0xABCD)
     let s := endHost (cmdAt 5 .opened c { bare with host := { cdts := [(4095, endCdt 0)] } })
     startsB s 5 c = true ∧ s.cdtBar 5 0 c = none ∧ (s.cdt 4095).kind = 0 ∧ s.endTakes 4095 15 127 = true ∧
       (s.chEnd (15 * 128 + 127)).buf.length < 8 ∧ c.plen = 4 ∧ c.lost = false ∧ c.done = 0 ∧ c.sent = [] ∧ c.conduit = 4095 ∧
       startsB (cmdAt 5 .opened c) 5 c = true ∧ ((cmdAt 5 .opened c).cdtBar 5 0 c).isSome = true) ∧
    (let c := command 0x11 0 4095 (leBytes 2 68 ++ leBytes 2 0 ++ leBytes 4 0) []
     let s := cmdAt 5 .opened c { bare with host := { cdts := [(4095, endCdt 1)] } }
     startsB s 5 c = true ∧ s.cdtBar 5 1 c = none ∧ startsB (cmdAt 5 .opened c) 5 c = true ∧ ((cmdAt 5 .opened c).cdtBar 5 1 c).isSome = true) ∧
    (let c := command 0x32 0 0 (leBytes 4 0 ++ leBytes 1 1 ++ leBytes 1 0 ++ leBytes 2 0 ++ leBytes 4 0) []
     startsB (cmdAt 5 .opened c) 5 c = true ∧ startsB (cmdAt 0 .opened c) 0 c = true ∧ (cmdAt 0 .opened c).has 0 8 = true) ∧
    (let c := command 0x20 0 4095 (leBytes 1 0 ++ leBytes 1 1 ++ leBytes 2 0 ++ leBytes 2 0 ++ leBytes 1 15 ++ leBytes 1 127) []
     startsB (cmdAt 0 .opened c) 0 c = true ∧ (cmdAt 0 .opened c).bindOwner c.conduit (bindOf c.args) = none ∧
       (cmdAt 0 .opened c).bindBar c.args = none ∧
       ((cmdAt 0 .opened c { bare with host := { cdts := [(4095, endCdt 1)] } }).bindOwner c.conduit (bindOf c.args)).isSome = true) ∧
    (let c := command 0x20 0 4095 (leBytes 1 0 ++ leBytes 1 1 ++ leBytes 2 1023 ++ leBytes 2 0 ++ leBytes 1 15 ++ leBytes 1 127) []
     startsB (cmdAt 0 .opened c) 0 c = true ∧ (cmdAt 0 .opened c).bindOwner c.conduit (bindOf c.args) = none ∧
       ((cmdAt 0 .opened c).bindBar c.args).isSome = true) ∧
    (let c := command 0x21 0 4095 [] []
     let s := cmdAt 0 .opened c { bare with host := { cdts := [(4095, endCdt 1)] } }
     startsB s 0 c = true ∧ (s.cdt 4095).bound = true ∧ s.sending 4095 = false ∧ (s.ses (s.cdt 4095).session).cmds = [] ∧
       ((cmdAt 0 .opened c).cdt 4095).bound = false) ∧
    (let c := command 0x30 0 0 [] []
     startsB (cmdAt 0 .opened c) 0 c = true ∧ (cmdAt 0 .opened c).has 0 1 = true ∧ (cmdAt 0 .opened c).meas.closing = false ∧
       startsB (cmdAt 0 .opened c { bare with meas := { closing := true } }) 0 c = true) ∧
    (let c := command 0x31 0 0 (leBytes 4 63 ++ leBytes 1 0) []
     let s := cmdAt 0 .opened c
     startsB s 0 c = true ∧ s.ringRec (hdr c.args 16 4) = none ∧
       (((s.flashPut (s.ringSlot 63) 16 (leNat ([0x56, 0x58, 0x42, 0x52, 1, 0, 0, 0] ++ leBytes 4 224 ++ leBytes 4 63))).flashPut
         (s.ringSlot 63 + 0x1FF8) 8 (63 * 2 ^ 32 + 0x43525856)).ringRec 63).isSome = true) ∧
    (let c := command 0x40 8 0 (leBytes 2 0x8000 ++ leBytes 2 0 ++ leBytes 4 0xFFFF8) (leBytes 8 1)
     let b := command 0x40 8 0 (leBytes 2 0x8000 ++ leBytes 2 0 ++ leBytes 4 0x100000) (leBytes 8 1)
     let s := cmdAt 0 .opened c
     startsB s 0 c = true ∧ s.has 0 3 = true ∧ hdr c.args 16 2 = 2 ^ 15 ∧ c.payload.length = c.plen ∧ c.plen % 8 = 0 ∧ c.plen ≠ 0 ∧
       rangeBad (hdr c.args 20 4) c.plen = false ∧ s.inRst 15 = true ∧ ({ s with cores := [(15, { inRst := false })] } : State).inRst 15 = false ∧
       startsB (cmdAt 0 .opened b) 0 b = true ∧ rangeBad (hdr b.args 20 4) b.plen = true ∧
       (let u := { s with host := { s.host with sess := [(0, { st := .opened, cmds := [c], feat := 0, rsv := c.need })] } }
        startsB u 0 c = true ∧ u.has 0 (if countBelow ((hdr c.args 16 2).testBit ·) 16 = 1 then 3 else 9) = false)) ∧
    (let c := command 0x41 0 0 (leBytes 1 15 ++ leBytes 3 0 ++ leBytes 4 0xFFFF8 ++ leBytes 2 8) []
     let b := command 0x41 0 0 (leBytes 1 15 ++ leBytes 3 0 ++ leBytes 4 0xFFFF8 ++ leBytes 2 16) []
     let s := cmdAt 0 .opened c
     startsB s 0 c = true ∧ rangeBad (hdr c.args 20 4) (hdr c.args 24 2) = false ∧ s.inRst 15 = true ∧ s.upset = [] ∧ hdr c.args 24 2 % 8 = 0 ∧
       ({ s with cores := [(15, { inRst := false })] } : State).inRst 15 = false ∧ startsB (cmdAt 0 .opened b) 0 b = true ∧
       rangeBad (hdr b.args 20 4) (hdr b.args 24 2) = true) := by
  refine ⟨?_, ?_, ?_, ?_, ?_, ?_, ?_, ?_, ?_, ?_, ?_, ?_, ?_, ?_⟩ <;> decide +kernel

/-! ## Firn, the recorder and alarms, options -/

/-- The Freeze controller in state `z` at tick `tb`. -/
def frzAt (z : Frz) (tb : Nat) (s : State := bare) : State := { s with
  clk := { mainRst := false, tb := tb }
  frz := z }

/-- A staged change of a pin's function, and one of a persistent setting. -/
def pinChange : State := { bare with staged := [(spanOff 0 0x7400, 13)], dirty := [spanOff 0 0x7400] }
def setChange : State := { bare with staged := [(0x420, 2)], dirty := [0x420] }

/-- R11, R310 to R325: writes outside the window, into reset and to no register; the lock free, held and held by another; the controller in
each of its states, with every outcome of each; ticks on both sides of F's limits. -/
theorem test_witness_freeze :
    (bare.clk.mainRst = false ∧ bare.portShut .host = false ∧ (1 ≠ 4 ∧ 8 ≠ 4) ∧ 0x1FFFFD % 4 ≠ 0 ∧ 0x200000 ≤ 0x200000 ∧ bare.offInRst (spanOff 15 0x200) = true ∧
      bare.offInRst 0x1FC = false ∧ regAt 0x1FC = none ∧ bare.inRst 0 = false ∧ bare.firnBar .host = none ∧
      (5 : Word) ≠ bare.stg (tmOff 0 7 + 4) ∧ bare.frz.holder = 0) ∧
    (let s := frzAt { holder := srcCode (.thread 255) } 0
     (s.firnBar .host).isSome = true ∧ ¬ (s.frz.holder = 0 ∨ s.frz.holder = srcCode .host) ∧ s.portShut .host = false ∧
       s.frz.holder = srcCode (.thread 255)) ∧
    (let s := frzAt { st := .armed } 0
     s.frz.st ≠ .idle ∧ s.frz.holder = 0 ∧ bits (0x1FFFFFFF : Word) 29 3 = 0 ∧ bare.frz.st = .idle ∧ (0x1FFFFFFB : Word).getLsbD 2 = false) ∧
    (let z : Frz := { st := .checking, commit := true }
     (frzAt z 0).readStaged = frzAt z 0 ∧ (frzAt z 0 pinChange).readStaged = frzAt z 0 pinChange ∧
       (frzAt z 0 setChange).readStaged = frzAt z 0 setChange ∧ (frzAt z 0).freezeBar = none ∧ z.st = .checking ∧ (frzAt z 0 pinChange).freezeBar = none ∧ (frzAt z 0).charges = [] ∧ z.cascade = false ∧ z.atF = false ∧
       (frzAt { st := .checking } 0).freezeBar = none ∧ ({ st := .checking } : Frz).commit = false ∧
       (let s := (frzAt { z with atF := true } 0).setReg 0x108 0xFF
        s.frz.atF = true ∧ s.frzTick < s.clk.tb + 256 ∧ s.freezeBar = none ∧ s.charges = []) ∧
       (let s := (frzAt { z with atF := true } 0).setReg 0x10C 1
        s.clk.tb + 256 ≤ s.frzTick ∧ s.frzTick ≤ s.clk.tb + 2 ^ 32 ∧ s.freezeBar = none ∧ s.charges = []) ∧
       (let s := frzAt z 0 setChange
        s.freezeBar = none ∧ s.charges = [1] ∧ s.frz.atF = false ∧ s.frz.drain = false ∧ s.frz.cascade = false) ∧
       (let s := frzAt { z with drain := true } 0 setChange
        s.freezeBar = none ∧ s.charges ≠ [] ∧ s.frz.drain = true) ∧
       (let s := frzAt { z with used := [(1, 16)] } 0 setChange
        s.freezeBar.isSome = true)) ∧
    (({ st := .persist, charged := [1] } : Frz).st = .persist ∧ ({ st := .persist, charged := [1] } : Frz).charged = [1] ∧
      ({ st := .persist, charged := [1] } : Frz).atF = false) ∧
    (let s := frzAt { st := .armed, tick := 9 } 8
     s.frz.st = .armed ∧ s.clk.tb < s.frz.tick ∧ (frzAt { st := .armed, tick := 9 } 9).readyAt 9 = true ∧
       ({ frzAt { st := .armed, tick := 9 } 9 (spanOn []) with engines := [(0, { running := true })] } : State).readyAt 9 = false) ∧
    (let s := frzAt { st := .armed, tick := 9, drain := true } 9
     s.frz.tick ≤ s.clk.tb ∧ (s.frz.drain = true ∧ s.casc.frz = none) ∧ ¬ ((frzAt { st := .armed, tick := 9 } 9).frz.drain = true ∧ s.casc.frz = none)) ∧
    ((frzAt { st := .draining } 0).casc.frz = none ∧ (frzAt { st := .draining } 0).drainOver = true ∧ (frzAt { st := .draining } 0).drainLate = false) ∧
    (let s := { frzAt { st := .draining } 4096 (withRegs pinChange [(chnOff 0 0 0, 0x90000000), (0x10, 1)]) with
       staged := [(chnOff 0 0 0, 1)], dirty := [chnOff 0 0 0], chans := [(chanKey 0 0 0, { shcnt := 1 })] }
     s.frz.st = .draining ∧ s.casc.frz = none ∧ s.drainOver = false ∧ s.drainLate = true) ∧
    (({ st := .sync } : Frz).discard = false ∧ ({ st := .sync, discard := true } : Frz).discard = true) := by
  refine ⟨?_, ?_, ?_, ?_, ?_, ?_, ?_, ?_, ?_, ?_⟩ <;> decide +kernel

/-- R351 to R362, R416 to R429: an entry inside a block and at its start; alarm inputs high and low, alone enabled, with a filter that stands and
one that does not; a test that runs and one that is over; wipes; the ring of the backup domain empty and full; a sample without the supply. -/
theorem test_witness_recorder :
    (let e : MorEntry := { code := 0x0404 }
     let s := { bare with clk := { mainRst := false, tb := 16 }, mor := { queue := [e], lastWrite := some 0, next := 2 ^ 32 - 1 } }
     s.mor.queue = e :: [] ∧ s.mor.lastWrite = some 0 ∧ 0 + 16 ≤ s.clk.tb ∧ s.mor.waiting = [] ∧ s.mor.since = [] ∧ s.mor.next < 2 ^ 32 ∧
       s.mor.next % 64 ≠ 0 ∧ ({ s.mor with next := 0 } : Mor).next % 64 = 0 ∧ s.mor.blocks.length < 128 ∧
       ({ s with clk := { tb := 15 } } : State).clk.tb < 0 + 16) ∧
    (let s := { withRegs bare [(almOff 7, 0x80020000), (almOff 7 + 4, 8)] with
       clk := { mainRst := false, tb := 8 }, alm := { alarms := [(7, { opened := true, count := 1 })] } }
     s.bit (almOff 7) 31 = true ∧ ((List.range 7).all fun j => !s.bit (almOff j) 31) = true ∧ s.alm.test = none ∧ s.alm.lastSmp ≠ some s.sampleKey ∧
       s.clk.tb % 8 = 0 ∧ ((s.alarm 7).opened && decide (s.clk.tb < (s.alarm 7).start + s.fld (almOff 7 + 4) 3 21 * 8)) = false ∧
       (0x80 : BitVec 8).getLsbD 7 = true ∧ (0x7F : BitVec 8).getLsbD 7 = false ∧
       (let u := s.setReg (almOff 7 + 4) 16
        ((u.alarm 7).opened && decide (u.clk.tb < (u.alarm 7).start + u.fld (almOff 7 + 4) 3 21 * 8)) = true ∧
          max 1 (u.fld (almOff 7) 16 8) ≤ (u.alarm 7).count + 1 ∧ (u.alarm 7).latched = false)) ∧
    ((0x80000007 : Word).getLsbD 31 = true ∧ bare.alm.test = none) ∧
    (let s := { bare with clk := { mainRst := false, tb := 1279 }, alm := { test := some (7, 0) } }
     s.alm.test = some (7, 0) ∧ s.clk.tb < 0 + 1280 ∧ 0 + 1280 ≤ ({ s with clk := { tb := 1280 } } : State).clk.tb) ∧
    (({ wipe := some ⟨0, false, 1⟩ } : Alm).wipe = some ⟨0, false, 1⟩ ∧ ({ wipe := some ⟨0, true, 256⟩ } : Alm).wipe = some ⟨0, true, 256⟩) ∧
    (let s := { bare with clk := { mainRst := false, lf := 5 }, alm := { keyErase := some 5 } }
     s.alm.keyErase = some 5 ∧ 5 ≤ s.clk.lf ∧ ({ s with clk := { lf := 4 } } : State).clk.lf < 5) ∧
    (let s := { bare with clk := { mainRst := true, backupRst := false, pok := false }, bk := { queue := [(1, 0x10, 0, 0)], head := 31 } }
     s.clk.backupRst = false ∧ s.bk.queue = (1, 0x10, 0, 0) :: [] ∧ ¬ 32 ≤ (s.bk.head + 65536 - s.bk.ack) % 65536 ∧
       32 ≤ (({ s.bk with head := 32 } : Bkup).head + 65536 - s.bk.ack) % 65536 ∧ s.clk.pok = false ∧ s.bk.smpAt ≠ some s.clk.lf) := by
  refine ⟨?_, ?_, ?_, ?_, ?_, ?_, ?_⟩ <;> decide +kernel

/-- An OA2 whose 512 records are all taken. -/
def fullOpt : State := { bare with opt := (List.range' 0 512).map fun i => (0x4000 + 16 * i, (0 : Byte)) }

theorem fullOpt_get (j n k : Nat) (h1 : k ≤ j) (h2 : j < k + n) :
    tabGet (0xFF : Byte) ((List.range' k n).map fun i => (0x4000 + 16 * i, (0 : Byte))) (0x4000 + 16 * j) = 0 := by
  induction n generalizing k with
  | zero => omega
  | succ n ih =>
    by_cases h : k = j
    · subst h
      simp [List.range'_succ, tabGet]
    · have := ih (k + 1) (by omega) (by omega)
      rw [List.range'_succ, List.map_cons, tabGet]
      split
      · omega
      · exact this

theorem findFrom_none {p : Nat → Bool} {f i : Nat} (h : ∀ j, i ≤ j → j < i + f → p j = false) : findFrom p f i = none := by
  induction f generalizing i with
  | zero => rfl
  | succ f ih =>
    rw [findFrom, h i (by omega) (by omega)]
    exact ih fun j h1 h2 => h j (by omega) (by omega)

theorem fullOpt_free : fullOpt.oa2Free = none := by
  unfold State.oa2Free
  refine findFrom_none fun j _ hj => ?_
  have h : fullOpt.optByte (0x4000 + 16 * j) = 0 := fullOpt_get j 512 0 (by omega) (by omega)
  simp only [State.optDw, readNat, h, beq_eq_false_iff_ne, ne_eq]
  have h0 : (0 : Byte).toNat = 0 := by decide
  rw [h0]
  omega

/-- R171, R397, R410 to R413, R436: the watchdog notice on an end of its kind and on none; an option write of a good block, of a bad one and at a
level; each change of the readout protection; time-outs of each kind; a scan at its tick and at no scan tick. -/
theorem test_witness_options :
    (let s := { withRegs bare [(cheOff 15 127, 0x98F00000)] with cores := [(15, { inRst := false })] }
     let v : Word := 0x00F0007F
     s.portShut .host = false ∧ s.inRst 15 = false ∧ s.bit (spanOff 15 0x380) 31 = false ∧
       (s.endMine 15 (bits v 20 4) (bits v 0 7) false && cheKind (s.reg (cheOff 15 (bits v 0 7))) == 3) = true ∧
       (bare.endMine 0 (bits v 20 4) (bits v 0 7) false && cheKind (bare.reg (cheOff 0 (bits v 0 7))) == 3) = false) ∧
    (let l := leNat [0x56, 0x58, 0x4F, 0x50, 1, 0]
     let s := { bare with mem := writeNat 0 8 0 l [] }
     bits (0x4F500001 : Word) 16 16 = 0x4F50 ∧ (0x4F500001 : Word).getLsbD 0 = true ∧ s.optn.writing = none ∧ s.optn.level = 0 ∧
       (s.optSourceRead.1 && optMagic s.optSource && optFieldsOk s.optSource) = true ∧
       (bare.optSourceRead.1 && optMagic bare.optSource && optFieldsOk bare.optSource) = false ∧ 1 ≤ ({ s.optn with level := 1 } : OptSt).level ∧
       bits (0x4F510001 : Word) 16 16 ≠ 0x4F50 ∧ ({ s.optn with writing := some [] } : OptSt).writing = some []) ∧
    (bits (0x52440002 : Word) 16 16 = 0x5244 ∧ bare.optn.changing = none ∧ bits (0x52440002 : Word) 0 2 ≠ 3 ∧
      bare.optn.level < bits (0x52440002 : Word) 0 2 ∧ bare.oa2Free.isSome = true ∧
      fullOpt.clk.mainRst = false ∧ fullOpt.optn.changing = none ∧ fullOpt.optn.level = 0 ∧ fullOpt.oa2Free = none) ∧
    (let s := { bare with optn := { level := 1 } }
     s.optn.changing = none ∧ bits (0x52440000 : Word) 0 2 < s.optn.level ∧ s.pfUsed 4 < 8 ∧ s.oa2Free.isSome = true ∧
       8 ≤ ({ s with frz := { used := [(4, 8)] } } : State).pfUsed 4) ∧
    (let s := { bare with optn := { changing := some (0, true) } }
     s.optn.changing = some (0, true) ∧ s.fp.q = [] ∧ s.meas.ring = none ∧ s.optn.writing = none ∧
       ({ s.optn with changing := some (2, false) } : OptSt).changing = some (2, false)) ∧
    ((hostAt 1023 { st := .ready }).ses 1023).live = true ∧
    (bare.bankBusy 3 = false ∧ bare.fp.q = [] ∧ (bare.threads.all fun t => t.2.park.isNone) = true ∧
      (let p := waitsFor 0x20007000 4 (some 7)
       ((withThread { setup := some p }).thr 0).setup = some p ∧ p.store.isSome = true)) ∧
    (let r : Rec := ⟨0, 0, 0, 0, [], 0, 0, false⟩
     let s := { bare with meas := { closing := true, queue := [r] } }
     s.meas.closing = true ∧ s.meas.ring = none ∧ s.meas.queue ≠ []) ∧
    (let s := { bare with clk := { mainRst := false, tb := 1024 }, boot := { done := true } }
     s.running = true ∧ s.clk.tb % 1024 = 0 ∧ s.src.lastScan ≠ some s.clk.tb ∧ s.boot.done = true ∧ s.cycles = [] ∧
       ({ s with clk := { mainRst := false, tb := 1023 } } : State).clk.tb % 1024 ≠ 0) := by
  refine ⟨?_, ?_, ⟨?_, ?_, ?_, ?_, ?_, ?_, ?_, ?_, fullOpt_free⟩, ?_, ?_, ?_, ?_, ?_, ?_⟩ <;> decide +kernel

/-! ## The cascade -/

/-- A root with its port 3 in the state `x`, at tick `tb`. -/
def linkAt (x : LPort) (tb : Nat := 0) (l : List (Nat × Word) := [(lpOff 3, 0x80000000)]) (c : Casc := { role := 1 }) : State :=
  { withRegs bare l with
    clk := { mainRst := false, tb := tb }
    casc := { c with ports := [(3, x)] } }

/-- A frame for node 0. -/
def frm (t arg : Nat) (body : List DWord) : Frame := bare.frame t 0 arg body

def hearsB (s : State) (t p : Nat) (f : Frame) : Bool := s.clk.mainRst == false && Nat.ble 2 (s.lport p).st && f.typ == t && f.ok

theorem hearsB_spec {s : State} {t p : Nat} {f : Frame} (h : hearsB s t p f = true) : s.hears t p f := by
  simpa [hearsB, State.hears, and_assoc] using h

/-- R371 to R387: a port that is off, on and in each state on its way up; its timers before and at their ends; each frame of the port, valid and
not; pulses and corrections. -/
theorem test_witness_links :
    (bare.clk.mainRst = false ∧ bare.bit (lpOff 3) 31 = false ∧ linkVer 2 3 0 0xFFFF = none ∧
      (withRegs bare [(lpOff 3 + 4, 0x00030002)]).reg (lpOff 3 + 4) = 0x00030002 ∧
      (let v := (linkAt {} 0 []).reg (lpOff 3 + 4)
       linkVer (bits v 0 16) (bits v 16 16) 0 0xFFFF ≠ none) ∧ ((linkAt {} 0 []).lport 3).rstEnd = none ∧ (linkAt {} 0 []).casc.role = 1) ∧
    ((linkAt {}).bit (lpOff 3) 31 = true ∧ 2 ≤ ((linkAt { st := 2 }).lport 3).st ∧ ((linkAt { st := 1 }).lport 3).st < 2) ∧
    (let s := linkAt { st := 2, phy := true }
     (s.lport 3).phy = true ∧ s.bit (lpOff 3) 31 = true ∧ (s.lport 3).rstEnd = none ∧ 2 ≤ (s.lport 3).st ∧
       ((linkAt { st := 1 }).lport 3).phy = false ∧ ((linkAt { st := 1 }).lport 3).st = 1) ∧
    (let s := linkAt { phy := true, rstEnd := some 64 } 64
     (s.lport 3).rstEnd = some 64 ∧ s.bit (lpOff 3) 31 = true ∧ (s.lport 3).phy = true ∧ s.casc.role = 1 ∧ 64 ≤ s.clk.tb ∧
       (linkAt { phy := true, rstEnd := some 64 } 63).clk.tb < 64) ∧
    (2 ≤ ((linkAt { st := 2 } 32768).lport 3).st ∧ ((linkAt { st := 2 } 32768).lport 3).lastRx + 32768 ≤ (linkAt { st := 2 } 32768).clk.tb ∧
      (linkAt { st := 2 } 32767).clk.tb < ((linkAt { st := 2 } 32767).lport 3).lastRx + 32768 ∧ 1 ≤ ((linkAt { st := 1 }).lport 3).st) ∧
    (let s := linkAt { st := 2, cred := [(0, 28)], lastHello := some 3072, freed := [(0, 8)] } 4096
     2 ≤ (s.lport 3).st ∧ (s.lport 3).tx = [] ∧ (s.lport 3).lastTx + 4096 ≤ s.clk.tb ∧ s.casc.node < 4096 ∧ (s.lport 3).st = 2 ∧
       tabGet 0 (s.lport 3).cred 0 ≤ 28 ∧ (s.lport 3).lastHello = some 3072 ∧ 3072 + 1024 ≤ s.clk.tb ∧ (s.lport 3).freed ≠ [] ∧
       ((s.lport 3).freed.any fun q => decide (8 ≤ q.2)) = true ∧ (linkAt { st := 2 } 4095).clk.tb < ((linkAt { st := 2 } 4095).lport 3).lastTx + 4096 ∧
       (let u := linkAt { st := 2, freed := [(2, 1)], freedAt := 0 } 64
        (u.lport 3).freed ≠ [] ∧ (u.lport 3).freedAt + 64 ≤ u.clk.tb)) ∧
    (let s := linkAt { st := 4 } 65536 [(lpOff 3, 0x80000000), (pinOff 0 6, 14), (pinOff 0 6 + 4, 1)]
     (s.lport 3).syncs = true ∧ s.syncPin 3 = true ∧ s.clk.lfMode = false ∧ s.clk.tb % 65536 = 0 ∧ (s.clk.tb / 65536 % 2 = 1 ↔ (s.lport 3).st = 4) ∧
       (s.lport 3).pulse ≠ some s.clk.tb ∧ (s.ieMask 0).getLsbD 6 = true ∧
       (let u := linkAt { st := 1 } 0 [(lpOff 3, 0x80000000), (pinOff 0 7, 14)]
        1 ≤ (u.lport 3).st ∧ u.funcOf 0 7 = 14) ∧ (linkAt { st := 4 } 65537).clk.tb % 65536 ≠ 0) ∧
    (let s := linkAt { st := 2 }
     let f (lo hi : Nat) := frm 1 0 [BitVec.ofNat 64 (hi * 65536 + lo), 0]
     let v := s.reg (lpOff 3 + 4)
     hearsB s 1 3 (f 0x0100 0x0101) = true ∧ (s.lport 3).st = 2 ∧
       linkVer (bits v 0 16) (bits v 16 16) (bits ((f 0x0100 0x0101).b 0) 0 16) (bits ((f 0x0100 0x0101).b 0) 16 16) = some 0x0101 ∧
       hearsB s 1 3 (f 2 3) = true ∧ linkVer (bits v 0 16) (bits v 16 16) (bits ((f 2 3).b 0) 0 16) (bits ((f 2 3).b 0) 16 16) = none) ∧
    (let s := linkAt { st := 2, cred := [(2, 64)] }
     hearsB s 5 3 (frm 5 0xFF0000 []) = true ∧ (s.lport 3).tx = []) ∧
    (let s := linkAt { st := 4, capt := some 9, pulse := some 8 }
     hearsB s 6 3 (frm 6 0 [1, 2]) = true ∧ hearsB s 6 3 (frm 6 0x20000000 [1, 2]) = true ∧ (s.lport 3).st = 4 ∧ (frm 6 0 [1, 2]).arg.testBit 29 = false ∧
       (frm 6 0x20000000 [1, 2]).arg.testBit 29 = true ∧ (s.lport 3).capt = some 9 ∧ (s.lport 3).pulse = some 8) ∧
    (((List.range 6).all fun k => (frm (k + 1) 0 []).typ == k + 1) = true ∧ (frm 1 0 []).ok = false ∧ (frm 2 0 [0]).ok = false ∧ (frm 3 0 []).ok = false ∧
      (frm 4 0 [0, 0]).ok = false ∧ (frm 5 0 [0]).ok = false ∧ (frm 6 0 [0]).ok = false ∧ (frm 2 0 [0]).typ = 2 ∧ (frm 4 0 [0, 0]).typ = 4 ∧
      (frm 5 0 [0]).typ = 5 ∧ (frm 6 0 [0]).typ = 6) ∧
    (let s (k : Int) := linkAt {} 64 [] { rooted := true, corrLeft := k, lastCorr := some 0, corrStep := 64 }
     (s 1).running = true ∧ (s 1).casc.corrDue (s 1).clk.tb = true ∧ 0 < (s 1).casc.corrLeft ∧ (s (-1)).casc.corrDue (s (-1)).clk.tb = true ∧
       (s (-1)).casc.corrLeft < 0) := by
  refine ⟨?_, ?_, ?_, ?_, ?_, ?_, ?_, ?_, ?_, ?_, ?_, ?_⟩ <;> decide +kernel

def reachedB (s : State) (t p : Nat) (f : Frame) : Bool :=
  hearsB s t p f && (s.lport p).carries && (t != 7 || s.casc.rooted) && s.mayPass p f && s.route f.dst == .here

theorem reachedB_spec {s : State} {t p : Nat} {f : Frame} (h : reachedB s t p f = true) : s.reached t p f := by
  simp only [reachedB, Bool.and_eq_true, Bool.or_eq_true, bne_iff_ne, beq_iff_eq] at h
  obtain ⟨⟨⟨⟨h1, h2⟩, h3⟩, h4⟩, h5⟩ := h
  exact ⟨hearsB_spec h1, h2, fun e => h3.resolve_left (fun n => n e), h4, h5⟩

/-- A root or a member with port 3 in state `st`. -/
def nodeAt (st : Nat) (c : Casc) (tb : Nat := 0) : State := linkAt { st := st, lver := 0x0101 } tb [] { c with rooted := true }

/-- A cascade Freeze on the root, or on a member. -/
def cfz (up : Option Nat) (miss : List Nat) (drain : Bool) : CFrz :=
  { id := 7, drain := drain, limitD := 0, vlim := 65536, lead := 512, at0 := 0, up := up, own := some true, miss := miss }

/-- A CFRZ frame of a kind for Freeze 7, with or without its flag. -/
def cfrm (kind : Nat) (ok : Bool) : Frame := frm 9 (kind * 2 ^ 27 + b2n ok * 2 ^ 26 + 7 * 2 ^ 10) (if kind = 0 then [5, 6, 7] else [5, 6])

/-- R376 to R393: sweeps of a root; each frame of the tree at a node that takes it, with each outcome. -/
theorem test_witness_cascade :
    (let s := linkAt {} 0 [] { master := true }
     s.clk.mainRst = false ∧ s.casc.master = true ∧ s.casc.sweeping = false ∧ s.cascBusy = false ∧ ((List.range 4).all fun q => !s.sweepsTo q) = true ∧
       ({ s with frz := { st := .armed, commit := true, cascade := true } } : State).cascBusy = true ∧ ({ s with casc := { s.casc with ports := [(0, { st := 6 })] } } : State).sweepsTo 0 = true) ∧
    (let s := linkAt { st := 3 }
     let f := frm 2 0 [0x1005, 0x77]
     hearsB s 2 3 f = true ∧ s.casc.master = false ∧ (s.lport 3).st = 3 ∧ bits (f.b 0) 12 4 ≠ 0 ∧ bits (f.b 0) 0 12 ≠ 0 ∧ s.casc.rooted = false ∧
       hearsB (linkAt { st := 3 } 0 [] { master := true }) 2 3 f = true) ∧
    (let s := linkAt { st := 5 } 0 [] { master := true, sweep := some ⟨none, 3, 1⟩ }
     hearsB (linkAt { st := 4 }) 3 3 (frm 3 0x20000000 [2]) = true ∧ (frm 3 0x20000000 [2]).arg.testBit 29 = true ∧
       hearsB s 3 3 (frm 3 0 [2]) = true ∧ (frm 3 0 [2]).arg.testBit 29 = false ∧ s.casc.sweep = some ⟨none, 3, 1⟩ ∧ s.sweepsTo 3 = true) ∧
    (((List.range 3).all fun k => hearsB (linkAt { st := 5 }) 4 3 (frm 4 0 [BitVec.ofNat 64 (0x0901 + k)])) = true ∧ ((linkAt { st := 5 }).lport 3).st ≠ 7 ∧
      hearsB (linkAt { st := 7 }) 4 3 (frm 4 0 [0x0901]) = true ∧ ((linkAt { st := 8 }).lport 3).st = 8 ∧ hearsB (linkAt { st := 8 }) 4 3 (frm 4 0 [0x0901]) = true) ∧
    (let s := nodeAt 5 { master := true, nodes := 1 }
     let u := { s with casc := { s.casc with nodes := 3, ports := (1, { st := 5, lo := 2, hi := 2, lver := 0x0101 }) :: s.casc.ports } }
     ([7, 8, 0xA, 0xB, 0xC].all fun t =>
       let l := if t == 8 || t == 0xB then [] else [1]
       let f := bare.frame t 9 0 l
       let g := bare.frame t 2 0 l
       hearsB s t 3 f && (s.lport 3).carries && s.casc.rooted && s.mayPass 3 f && s.route f.dst == .drop &&
         hearsB u t 3 g && (u.lport 3).carries && u.casc.rooted && u.mayPass 3 g && u.route g.dst == .port 1 && u.mayPass 1 g) = true) ∧
    (let s := nodeAt 5 { master := true, nodes := 2 }
     let f := { frm 7 (127 * 2 ^ 12 + 5) [1] with header := (frm 7 (127 * 2 ^ 12 + 5) [1]).header ||| (3 * 2 ^ 30 : DWord) }
     reachedB s 7 3 f = true ∧ s.takesFrom 127 f.src (b2n (f.arg.testBit 29)) (f.arg % 4096) = false ∧ f.src ≠ s.casc.node) ∧
    (let s := { nodeAt 5 { master := true } with cores := [(0, { inRst := false })] }
     let u := withRegs s [(cheOff 0 127, 0x80000000), (cheOff 0 127 + 4, 0x80000000 + 0x80000 * 3 + 5)]
     let f := { frm 7 (127 * 2 ^ 12 + 5) [1] with header := (frm 7 (127 * 2 ^ 12 + 5) [1]).header ||| (3 * 2 ^ 30 : DWord) }
     reachedB u 7 3 f = true ∧ f.arg.testBit 24 = false ∧ u.takesFrom 127 f.src (b2n (f.arg.testBit 29)) (f.arg % 4096) = true ∧
       (u.chEnd 127).landing = [] ∧ (u.chEnd 127).buf.length < 8 ∧ f.arg / 2 ^ 25 % 16 = 0 ∧ f.body ≠ []) ∧
    (let s := { nodeAt 5 { master := true } with
       host := { cdts := [(4095, { bound := true, kind := 3, dir := 1, node := 0, span := 15, unit := 127 })] } }
     let f := frm 7 (2 ^ 24 + 4095 * 2 ^ 12 + 2047) [1]
     reachedB s 7 3 f = true ∧ f.arg.testBit 24 = true ∧ s.cdtTakes 4095 f.src (b2n (f.arg.testBit 29)) (f.arg % 4096) = true) ∧
    (let s := { nodeAt 5 { master := true } 1048576 with ends := [(2047, { sent := [(2, 0)], credits := 14 })] }
     let f := frm 8 (2 ^ 25 + 2047 * 2 ^ 12) []
     reachedB s 8 3 f = true ∧ f.arg.testBit 24 = false ∧ f.arg.testBit 29 = false ∧ takeSent 2 (s.chEnd 2047).sent = some [] ∧
       (s.chEnd 2047).store = [] ∧ s.running = true ∧ (s.chEnd 2047).sent = (2, 0) :: [] ∧ 0 + 1048576 ≤ s.clk.tb ∧
       (nodeAt 5 {} 1048575).clk.tb < 0 + 1048576) ∧
    (let s := nodeAt 4 {}
     reachedB s 9 3 (cfrm 0 false) = true ∧ (cfrm 0 false).arg / 2 ^ 27 % 8 = 0 ∧ (s.lport 3).st = 4 ∧ s.frz.st = .idle ∧ ({ s with frz := { st := .armed } } : State).frz.st ≠ .idle) ∧
    (let s (z : CFrz) := nodeAt 5 { master := true, frz := some z }
     ((s (cfz none [3] false)).lport 3).st = 5 ∧ (s (cfz none [3] false)).cfMissed (cfz none [3] false) 1 = false ∧
       (s (cfz none [3] true)).cfMissed (cfz none [3] true) 1 = false ∧ (s (cfz none [2, 3] true)).cfMissed (cfz none [2, 3] true) 1 = false ∧
       (let u := { s (cfz none [3] false) with frz := { st := .voted }, clk := { mainRst := false, tb := 65537 } }
        reachedB u 9 3 (cfrm 1 true) = true ∧ u.cfOf (cfrm 1 true) = some (cfz none [3] false) ∧ u.cfMissed (cfz none [3] false) 1 = true) ∧
     ((List.range 2).all fun k => reachedB (s (cfz none [3] false)) 9 3 (cfrm 1 (k == 0)) && (s (cfz none [3] false)).cfOf (cfrm 1 (k == 0)) == some (cfz none [3] false)) = true ∧
       (cfrm 1 true).arg / 2 ^ 27 % 8 = 1 ∧ (cfrm 1 true).arg.testBit 26 = true ∧ (cfrm 1 false).arg.testBit 26 = false ∧
       (cfz none [3] false).miss = [3] ∧ (cfz none [3] true).drain = true ∧ (cfz none [2, 3] true).voted = false ∧ 2 ∈ (cfz none [2, 3] true).miss ∧
       (s (cfz none [2, 3] true)).cfOf (cfrm 1 true) = some (cfz none [2, 3] true) ∧ (s (cfz none [3] true)).frz.atF = false ∧
       (cfz none [3] true).f0 = none ∧ (cfz none [3] true).no = none) ∧
    (let z := { cfz none [3] true with f0 := some 0, drained := true }
     let s := nodeAt 5 { master := true, frz := some z }
     reachedB s 9 3 (cfrm 3 true) = true ∧ (cfrm 3 true).arg / 2 ^ 27 % 8 = 3 ∧ s.cfOf (cfrm 3 true) = some z ∧ z.drained = true ∧ z.failed = none ∧
       reachedB s 9 3 (cfrm 3 false) = true ∧ s.cfOf (cfrm 3 false) = some z ∧ (s.lport 3).st = 5 ∧
       s.cfMissed z 1 = false ∧ z.up = none ∧ z.miss = [3]) ∧
    (let z := { cfz (some 3) [] true with voted := true }
     let s := { nodeAt 4 { frz := some z, master := false } 131072 with frz := { st := .voted } }
     ([2, 4, 5].all fun k => reachedB s 9 3 (cfrm k true) && (cfrm k true).arg / 2 ^ 27 % 8 == k && s.cfOf (cfrm k true) == some z) = true ∧
       (s.lport 3).st = 4 ∧ s.frz.st = .voted ∧ z.f0 = none ∧ z.up.isSome = true ∧ z.no = none ∧ z.at0 + 2 * z.vlim ≤ s.clk.tb) ∧
    ((cfz none [3] true).up = none ∧ (cfz none [3] true).at0 + (cfz none [3] true).vlim ≤ 65536 ∧ 65535 < (cfz none [3] true).at0 + (cfz none [3] true).vlim) ∧
    (reachedB (nodeAt 4 {}) 0xA 3 (frm 0xA 0 [9]) = true ∧ ((nodeAt 4 {}).lport 3).st = 4 ∧ (nodeAt 4 {}).meas.closeAt = none ∧
      ({ nodeAt 4 {} with meas := { closeAt := some 7 } } : State).meas.closeAt ≠ none) ∧
    (reachedB (nodeAt 5 { master := true }) 0xB 3 (frm 0xB 0 []) = true ∧ (frm 0xB 0 []).arg.testBit 29 = false) ∧
    (let s := nodeAt 4 { fwdRec := some (leBytes 12 0 ++ leBytes 4 9) }
     reachedB s 0xC 3 (frm 0xC 0x20000000 [9]) = true ∧ (frm 0xC 0x20000000 [9]).arg.testBit 29 = true ∧
       s.casc.fwdRec = some (leBytes 12 0 ++ leBytes 4 9) ∧ recSeq (leBytes 12 0 ++ leBytes 4 9) = bits ((frm 0xC 0x20000000 [9]).b 0) 0 32 ∧
       reachedB s 0xC 3 (frm 0xC 0 [9]) = true) := by
  refine ⟨?_, ?_, ?_, ?_, ?_, ?_, ?_, ?_, ?_, ?_, ?_, ?_, ?_, ?_, ?_, ?_, ?_⟩ <;> decide +kernel

/-! ## Debug and the queue -/

/-- SP15.T15 under the debugger, DBG_TREG on it with `sel`. -/
def heldAt (sel : Word) : State := { withRegs bare [(0x80020, 0xFF00 ||| sel)] with
  threads := [(255, { st := .halted, haltCause := 1, before := .service })] }

/-- SP15 with an output end 127 of T15 that holds a staged word, and Clove channel (11, 3). -/
def dbgSpan (th : Thread) (flags : BitVec 16) : State := { withRegs bare [(0x10, 0x8000), (cheOff 15 127, 0xC0F00000), (chnOff 15 11 3, 0x90000000)] with
  cores := [(15, { inRst := false })]
  threads := [(255, th)]
  ends := [(2047, { staged := [7] })]
  chans := [(chanKey 15 11 3, { flags := flags })] }

/-- R438 to R446: each debug command with none running, in a Span in reset and out of it, on a thread that the debugger holds and one that it
does not; aborts, channels on, off and halted; the device halted or not, barred or not; both ways of each register access; each level. -/
theorem test_witness_debug :
    (bare.clk.mainRst = false ∧ bare.dbg.busy = none ∧ bare.inRst 15 = true ∧ bare.inRst 0 = false ∧ bare.dbgHeld 0 = false) ∧
    (let s := { heldAt 0x20 with cores := [(15, { inRst := false })] }
     s.inRst 15 = false ∧ s.dbg.busy = none ∧ s.dbgHeld (gthr 15 15) = true ∧ (s.thr 255).before ≠ .idle ∧ (s.thr 255).st = .halted ∧
       (s.thr 0).st ≠ .halted) ∧
    ((dbgSpan { st := .halted } 0).inRst 15 = false ∧ (dbgSpan { st := .halted } 0).abortBar 15 127 = false ∧ (dbgSpan { st := .service } 0).abortBar 15 127 = true) ∧
    (let on (s : State) := s.chnEn 15 11 3 && !(s.chan (chanKey 15 11 3)).stopping
     on (dbgSpan {} 0) = true ∧ on bare = false ∧ ((dbgSpan {} 0).chan (chanKey 15 11 3)).flags.getLsbD 11 = false ∧ on (dbgSpan {} 0x800) = true ∧
       ((dbgSpan {} 0x800).chan (chanKey 15 11 3)).flags.getLsbD 11 = true ∧ (dbgSpan {} 0x800).dbg.busy = none) ∧
    (bare.dbg.devHalt = false ∧ bare.devHaltBar = 0 ∧ (withRegs bare [(gtOff 255, 0x80000000)]).devHaltBar = 3 ∧
      (let s (lf : Bool) : State := { bare with clk := { mainRst := false, lfMode := lf }, dbg := { devHalt := true } }
       (s true).dbg.devHalt = true ∧ (s true).clk.lfMode = true ∧ (s false).clk.lfMode = false ∧ (s true).dbg.busy = none)) ∧
    (let s := withRegs bare [(0x80000, 0x40000000), (pinOff 0 8, 14), (pinOff 0 8 + 4, 1)]
     s.bit 0x80000 30 = true ∧ s.funcOf 0 8 = 14 ∧ (s.ieMask 0).getLsbD 8 = true ∧ s.devHaltBar = 0 ∧ bare.bit 0x80000 30 = false) ∧
    (bare.portShut .tap = false ∧ (heldAt 0x20).dbgHeld (heldAt 0x20).tregThr = true ∧ (heldAt 0x20).tregSel = 0x20 ∧ (heldAt 0x23).tregSel = 0x23 ∧
      (heldAt 0x23).dbgHeld (heldAt 0x23).tregThr = true ∧ bare.dbgHeld bare.tregThr = false) ∧
    (let s := withRegs bare [(0x80030, 0x800FFFF8)]
     s.dmSpan = 0 ∧ s.dmAddr = 0xFFFF8 ∧ s.dmSecret = false ∧ s.inRst s.dmSpan = false ∧ tabGet 0 s.upset (upKey 0 (spanGran s.dmSpan s.dmAddr)) < 2 ∧
       s.bit 0x80030 31 = true ∧ bare.bit 0x80030 31 = false ∧ bare.dmSecret = false ∧
       ({ s with cores := [(0, { inRst := false, secret := 0x8000000000000000 })] } : State).dmSecret = true ∧
       2 ≤ tabGet 0 [(upKey 0 (spanGran s.dmSpan s.dmAddr), 2)] (upKey 0 (spanGran s.dmSpan s.dmAddr))) ∧
    (bits (0x4D520001 : Word) 16 16 = 0x4D52 ∧ (0x4D520001 : Word).getLsbD 0 = true ∧ (0x4D520000 : Word).getLsbD 0 = false ∧ bits (0x4D530001 : Word) 16 16 ≠ 0x4D52) ∧
    (2 ≤ ({ level := 2 } : OptSt).level ∧ ({ level := 1 } : OptSt).level = 1 ∧ tapBarred (((2 ^ 51 + (0x30030 / 4) * 2 ^ 32 : Nat) : BitVec 52).getLsbD 51)
      (bits (BitVec.ofNat 52 (2 ^ 51 + (tmOff 0 0 / 4) * 2 ^ 32)) 32 19 * 4) = true ∧ bare.optn.level < 2 ∧
      bits (BitVec.ofNat 52 (2 ^ 51 + 0x42 * 2 ^ 32 + 5)) 32 19 = 0x42 ∧ (BitVec.ofNat 52 (2 ^ 51 + 0x42 * 2 ^ 32 + 5)).getLsbD 51 = true ∧
      (BitVec.ofNat 52 (0x42 * 2 ^ 32)).getLsbD 51 = false) := by
  refine ⟨?_, ?_, ?_, ?_, ?_, ?_, ?_, ?_, ?_, ?_⟩ <;> decide +kernel

/-- A queue with a command, an empty one of a block that runs, and one of a block in reset. -/
theorem test_witness_step :
    ({ bare with pending := [.wake, .lfEdge 0xFFF] } : State).pending = .wake :: [.lfEdge 0xFFF] ∧
    (let s := { bare with boot := {} }
     s.pending = [] ∧ s.clk.mainRst = false ∧ s.boot.toRun = false) ∧
    (State.reset.pending = [] ∧ State.reset.clk.mainRst = true) := by decide +kernel

/-! ## The spec's worked examples -/

/-- R138's example. -/
theorem test_crcs_example : crcFold 0x83 false 0 (crcsData 0xA4 0) = 0x75 := by decide

/-- The example of 04: its words and what they are. -/
theorem test_listing_example : ∀ p ∈ ([([0xC2C0, 0x0000], .lil, 0), ([0xC2C8, 0x0040], .lil, 0), ([0xC2CC, 0x0006], .lih, 0), ([0xC328, 0x000A], .loop, 0),
    ([0xC0F4, 0x0004], .add, 0), ([0xC091, 0x0100], .st, 0), ([0xC3A6, 0x0000], .xop, 0)] : List Row),
    ∃ c u, (strandAt p.1 {}).slot 0 0 = some (c, u) ∧ c.d.mn = p.2.1 := by
  intro p hp
  obtain ⟨c, u, h, e⟩ := meets_spec (s := strandAt p.1 {}) (p := fun c _ => c.d.mn == p.2.1) (by
    revert p
    decide)
  exact ⟨c, u, h, eq_of_beq e⟩

/-- R387's example. -/
theorem test_sync_example : syncDelta 6553612 6553600 6619132 6619136 = 8 := by decide

/-- FIPS 180-4: the digest of the three bytes of abc; byte 0 is the first of the digest. -/
theorem test_sha384_abc : sha384Bytes [0x61, 0x62, 0x63] = [0xCB, 0x00, 0x75, 0x3F, 0x45, 0xA3, 0x5E, 0x8B, 0xB5, 0xA0, 0x3D, 0x69, 0x9A, 0xC6, 0x50, 0x07,
    0x27, 0x2C, 0x32, 0xAB, 0x0E, 0xDE, 0xD1, 0x63, 0x1A, 0x8B, 0x60, 0x5A, 0x43, 0xFF, 0x5B, 0xED, 0x80, 0x86, 0x07, 0x2B, 0xA1, 0xE7, 0xCC, 0x23, 0x58,
    0xBA, 0xEC, 0xA1, 0x34, 0xC8, 0x25, 0xA7] := by decide +kernel

/-- R370: the check value of the nine bytes 123456789, and a CREDIT frame, which has no body, on the link. -/
theorem test_crc32_check : crc32 [0x31, 0x32, 0x33, 0x34, 0x35, 0x36, 0x37, 0x38, 0x39] = 0xCBF43926 ∧ (frm 5 0 []).wire.length = 2 := by decide +kernel

/-- R262: the signature of RFC 6979's example A.2.6 (P-384, SHA-384, message "sample"). -/
theorem test_ecdsa_sample :
    ecdsaSign 0x6B9D3DAD2E1B8C1C05B19875B6659F4DE23C3B667BF297BA9AA47740787137D896D5724E4C70A825F872C9EA60D2EDF5 [0x73, 0x61, 0x6D, 0x70, 0x6C, 0x65] =
      (0x94EDBB92A5ECB8AAD4736E56C691916B3F88140666CE9FA73D64C4EA95AD133C81A648152E44ACF96E36DD1E80FABE46,
       0x99EF4AEB15F178CEA1FE40DB2603138F130E740A19624526203B6351D0A3A94FA329C145786E679E7B82C71A38628AC8) := by decide +kernel

/-- R8: a write that is no aligned word of the window is answered with an error response and writes nothing. -/
theorem test_bad_writes : (∀ w ∈ [1, 2, 8], exec (.registerWrite .host 0x108 7 w) bare = .next { bare with spErr := true }) ∧
    (∀ off ∈ [0x109, 0x200000], exec (.registerWrite .host off 7 4) bare = .next { bare with spErr := true }) := by
  refine ⟨fun w hw => ?_, fun off h => ?_⟩
  · fin_cases hw <;> rfl
  · fin_cases h <;> rfl

end Sys2Proof.Tests
end

/-! SUPPORT and CERTIFICATE. TBRD (R46): the TB copy a core reads, the value a thread takes from it, and the settled statement. -/
namespace Sys2Proof.Machine

/-! ## The TB copy of a core -/

/-- R46: the copy lags TB by what two free bits say, so by at most 3 ticks. -/
theorem State.tb_le_seeTb_add_three (s : State) (n : Nat) : s.clk.tb ≤ (s.seeTb n).1 + 3 := by
  have lag : bits s.free 0 2 < 4 := Nat.mod_lt _ (by decide)
  unfold State.seeTb
  dsimp only
  omega

/-- R46: the copy never runs ahead of TB. -/
theorem State.seeTb_le_tb (s : State) (n : Nat) : (s.seeTb n).1 ≤ s.clk.tb := Nat.min_le_left _ _

@[simp] theorem State.seeTb_thr (s : State) (n i : Nat) : (s.seeTb n).2.thr i = s.thr i := (rfl)

/-! ## The thread's last TBRD value, which no landing write and no end of an instruction moves -/

@[simp] theorem Thread.lands_tbrd (r : Nat) (ws : List LandW) (t : Thread) : (t.lands r ws).tbrd = t.tbrd := by
  induction ws generalizing t with
  | nil => rfl
  | cons w ws ih => exact ih _

theorem Ctx.fin_tbrd (c : Ctx) (ws : List LandW) (s : State) : ((c.fin ws s).thr c.g).tbrd = (s.thr c.g).tbrd := by
  obtain ⟨lc, hlc⟩ := loopNext_lc c.pc 3 ((s.thr c.g).lands (c.r + 6) ws)
  have counted : (loopNext c.pc 3 ((s.thr c.g).lands (c.r + 6) ws)).1.tbrd = (s.thr c.g).tbrd := by
    rw [hlc]
    exact Thread.lands_tbrd _ _ _
  unfold Ctx.fin
  dsimp only
  split <;> rw [State.setThr_thr_self] <;> exact counted

@[simp] theorem State.endStep_tbrd (s : State) (g i : Nat) : ((s.endStep g).thr i).tbrd = (s.thr i).tbrd := by
  unfold State.endStep
  split
  · rw [State.dbgEnd_thr, State.thr_setThr]
    split
    · subst_vars; rfl
    · rfl
  · rfl

@[simp] theorem State.stepDone_tbrd (s : State) (n t i : Nat) : ((s.stepDone n t).thr i).tbrd = (s.thr i).tbrd := by
  unfold State.stepDone
  dsimp only
  split
  · rw [State.endStep_tbrd, State.thr_setThr]
    split
    · subst_vars; rfl
    · rfl
  · rfl

/-! ## What TBRD does to its thread -/

/-- R46: the value of a TBRD that begins in `s`: the core's TB copy, or that of the thread's earlier TBRD where it is higher. -/
def Ctx.tbrdValue (c : Ctx) (s : State) : Nat := max (s.seeTb c.n).1 c.th.tbrd

/-- The writes of a TBRD of value `v`: A the low word, X the high one. -/
def tbrdWrites (v : Nat) : List LandW := [.a (BitVec.ofNat 32 v), .x (BitVec.ofNat 32 (v / 2 ^ 32))]

/-- TBRD goes on in sequence from a state in which its thread differs by the kept value alone. -/
theorem tbrdBody_eq_fin (c : Ctx) (s : State) : ∃ s1, tbrdBody c s = c.fin (tbrdWrites (c.tbrdValue s)) s1 ∧
    s1.thr c.g = { s.thr c.g with tbrd := c.tbrdValue s } :=
  ⟨_, rfl, State.setThr_thr_self _ _ _⟩

theorem tbrdBody_tbrd (c : Ctx) (s : State) : ((tbrdBody c s).thr c.g).tbrd = c.tbrdValue s := by
  obtain ⟨s1, hbody, hthr⟩ := tbrdBody_eq_fin c s
  rw [hbody, Ctx.fin_tbrd, hthr]

theorem tbrdBody_alike (c : Ctx) (s : State) :
    ((tbrdBody c s).thr c.g).Alike ((s.thr c.g).lands (c.r + 6) (tbrdWrites (c.tbrdValue s))) := by
  obtain ⟨s1, hbody, hthr⟩ := tbrdBody_eq_fin c s
  obtain ⟨th, hfin, halike, _⟩ := c.fin_spec (tbrdWrites (c.tbrdValue s)) s1
  rw [hbody, hfin, State.setThr_thr_self]
  have hkept : (s1.thr c.g).Alike (s.thr c.g) := by
    rw [hthr]
    exact ⟨rfl, rfl, rfl, rfl, rfl, rfl, rfl⟩
  exact halike.trans (Thread.lands_alike hkept _ _)

/-- R46: a value of 64 bits is the pair A:X that its TBRD writes. -/
theorem tbrdWrites_pair (v : Nat) (h : v < 2 ^ 64) (t : Thread) :
    let u := (tbrdWrites v).foldl landOne t
    u.a.toNat + 2 ^ 32 * u.x.toNat = v := by
  show (BitVec.ofNat 32 v).toNat + 2 ^ 32 * (BitVec.ofNat 32 (v / 2 ^ 32)).toNat = v
  rw [BitVec.toNat_ofNat, BitVec.toNat_ofNat]
  omega

/-- A:X reads the value of a TBRD from its WBK on, and the thread keeps it. -/
theorem tbrd_leaves_value {s u : State} {n t : Fin 16} {c : Ctx} (hs : s.slot n t = some (c, u)) (hr : c.runs u .tbrd)
    (hv : c.tbrdValue u < 2 ^ 64) : ∃ w, exec (.tbrd n t) s = .next w ∧
      (let new := w.at (gthr n t) (c.r + 6)
       new.a.toNat + 2 ^ 32 * new.x.toNat = c.tbrdValue u) ∧
      (w.thr (gthr n t)).tbrd = c.tbrdValue u := by
  obtain ⟨hn, ht, _, _⟩ := State.slot_ctx hs
  have hg : gthr n t = c.g := by rw [Ctx.g, hn, ht, gthr]
  have hexec : exec (.tbrd n t) s = .next ((tbrdBody c u).stepDone n t) := congrArg _ (strand_runs tbrdBody hs hr)
  refine ⟨_, hexec, ?_, ?_⟩
  · have halike := ((State.stepDone_alike (tbrdBody c u) n t c.g).trans (tbrdBody_alike c u)).settle (c.r + 6)
    rw [Thread.settle_lands] at halike
    dsimp only [State.at]
    rw [hg, halike.a, halike.x]
    exact tbrdWrites_pair _ hv _
  · rw [State.stepDone_tbrd, hg, tbrdBody_tbrd]

/-- Settles O18: TBRD returns the higher of the core's TB copy, at most 3 ticks old, and the thread's last value. -/
theorem tbrdWithinThreeTicks : Obligations.TbrdWithinThreeTicks := by
  unfold Obligations.TbrdWithinThreeTicks
  intro s u n t c hs hr htb hlast
  have hold : u.clk.tb ≤ (u.seeTb c.n).1 + 3 := u.tb_le_seeTb_add_three c.n
  have hseen : (u.seeTb c.n).1 ≤ c.tbrdValue u := Nat.le_max_left _ _
  have hearlier : c.th.tbrd ≤ c.tbrdValue u := Nat.le_max_right _ _
  have hle : c.tbrdValue u ≤ u.clk.tb := Nat.max_le.mpr ⟨u.seeTb_le_tb c.n, hlast⟩
  obtain ⟨w, hw, hpair, hkept⟩ := tbrd_leaves_value hs hr (Nat.lt_of_le_of_lt hle htb)
  dsimp only at hpair ⊢
  refine ⟨w, hw, ?_⟩
  rw [hpair]
  exact ⟨hold.trans (Nat.add_le_add_right hseen 3), hle, hearlier, hkept⟩

end Sys2Proof.Machine

/-! SUPPORT. Strand rows (R86, R97, R99, R114, R121): what a row that goes on in sequence leaves in its thread, and what a trap leaves. -/
namespace Sys2Proof.Machine

/-! ## Rows that land a result -/

/-- A result for A lands with its value, and with the flags that `m` names. -/
theorem foldl_resA (r : Res) (m : BitVec 6) (t : Thread) : ((resA r m).foldl landOne t).a = r.val ∧
    ((resA r m).foldl landOne t).fl = (t.fl &&& ~~~m) ||| (r.fl &&& m) := ⟨rfl, rfl⟩

/-- A memory-format row that forms a result leaves it in A from WBK on, and the flags of the result that `m` names. -/
theorem memForm_resA {s u : State} {n t : Fin 16} {c : Ctx} {mn : Mn} {v : Nat} {r : Res} {m : BitVec 6}
    (hs : s.slot n t = some (c, u)) (hr : c.runs u mn) (hv : c.reads u v) (hm : mn ≠ .mul) (hl : isLoad mn = false)
    (hres : operandRes c.d c.th v = resA r m) :
    ((strand mn Ctx.memForm n t s).at (gthr n t) (c.r + 6)).a = r.val ∧
      ((strand mn Ctx.memForm n t s).at (gthr n t) (c.r + 6)).fl = ((u.at (gthr n t) (c.r + 6)).fl &&& ~~~m) ||| (r.fl &&& m) := by
  have h := memForm_at hs hr hv hm hl
  rw [hres] at h
  obtain ⟨hfl, hsr, -⟩ := postMod_fl c.d c.th.x c.th.y
  obtain ⟨ha, hflags⟩ := foldl_resA r m (((u.thr (gthr n t)).lands (c.r + 6) (postMod c.d c.th.x c.th.y)).settle (c.r + 6))
  rw [Thread.settle_lands_fl _ _ _ hfl hsr] at hflags
  exact ⟨h.a.trans ha, h.fl.trans hflags⟩

/-- A row that goes on in sequence leaves the writes it lands, read in WBK. -/
theorem fin_at {s u : State} {n t : Fin 16} {c : Ctx} {mn : Mn} {body : Ctx → State → State} {ws : List LandW}
    (hs : s.slot n t = some (c, u)) (hr : c.runs u mn) (hbody : body c u = c.fin ws u) :
    ((strand mn body n t s).at (gthr n t) (c.r + 6)).Alike (ws.foldl landOne (u.at (gthr n t) (c.r + 6))) := by
  obtain ⟨hn, ht, -, -⟩ := State.slot_ctx hs
  have hg : c.g = gthr n t := by simp [Ctx.g, gthr, hn, ht]
  obtain ⟨th, hfin, halike, -⟩ := c.fin_spec ws u
  rw [State.at, State.at, ← Thread.settle_lands, strand_runs body hs hr]
  refine Thread.Alike.settle ((State.stepDone_alike _ _ _ _).trans ?_) _
  rw [hbody, hfin, ← hg, State.setThr_thr_self]
  exact halike

/-! ## The trap of an instruction in DEC -/

/-- R105: no special register that MTS writes is the PC, and none is the debugger's. -/
theorem srWrite_pc_stepping (t : Thread) (k : Nat) (v : Word) :
    (srWrite t k v).pc = t.pc ∧ (srWrite t k v).stepping = t.stepping := by
  unfold srWrite
  split
  case h_21 =>
    dsimp only
    split <;> exact ⟨rfl, rfl⟩
  all_goals exact ⟨rfl, rfl⟩

theorem landOne_pc_stepping (t : Thread) (w : LandW) : (landOne t w).pc = t.pc ∧ (landOne t w).stepping = t.stepping := by
  cases w with
  | sr k v => exact srWrite_pc_stepping t k v
  | _ => exact ⟨rfl, rfl⟩

theorem settleList_pc_stepping (r : Nat) (l : List (Nat × LandW)) (t : Thread) :
    (settleList r l t).pc = t.pc ∧ (settleList r l t).stepping = t.stepping := by
  induction l generalizing t with
  | nil => exact ⟨rfl, rfl⟩
  | cons p l ih =>
    rw [settleList]
    split
    · obtain ⟨hpc, hstep⟩ := ih (landOne t p.2)
      obtain ⟨hpc', hstep'⟩ := landOne_pc_stepping t p.2
      exact ⟨hpc.trans hpc', hstep.trans hstep'⟩
    · exact ⟨rfl, rfl⟩

/-- Landing writes move neither the PC nor the mark of a debugger's step. -/
theorem Thread.settle_pc_stepping (t : Thread) (r : Nat) : (t.settle r).pc = t.pc ∧ (t.settle r).stepping = t.stepping :=
  settleList_pc_stepping r t.land t

theorem srWrite_evb (t : Thread) (k : Nat) (v : Word) : (srWrite t k v).evb = if k = 4 then v else t.evb := by
  unfold srWrite
  split
  case h_5 => rfl
  case h_21 =>
    dsimp only
    split <;> rfl
  case h_23 => exact (if_neg ‹k = 4 → False›).symm
  all_goals rfl

theorem landOne_evb (t : Thread) (w : LandW) : (landOne t w).evb = match w with
    | .sr k v => if k = 4 then v else t.evb
    | _ => t.evb := by
  cases w with
  | sr k v => exact srWrite_evb t k v
  | _ => rfl

/-- What EVB reads as does not depend on the PC. -/
theorem Thread.settle_evb_pc (t : Thread) (pc : Word) (r : Nat) : (({ t with pc := pc } : Thread).settle r).evb = (t.settle r).evb :=
  Thread.settle_field (fun t => t.evb) (fun old w => match w with
    | .sr k v => if k = 4 then v else old
    | _ => old) landOne_evb (fun _ _ => rfl) r rfl rfl

/-- R114: an instruction that is ILLEGAL traps in DEC, whatever its condition. -/
theorem strandBy_ill {s : State} {n t : Nat} {c : Ctx} {u : State} {mn : Mn} (body : Ctx → State → State)
    (beat : Ctx → Beats → State → State) (h : s.slot n t = some (c, u)) (hmn : c.d.mn = mn)
    (hill : (c.view u).decIll c.d c.th = true) : strandBy mn body beat n t s = (c.trap 2 (1, c.d.h0.toNat) u).stepDone n t := by
  unfold State.slot at h
  unfold strandBy
  split at h
  case isFalse => exact absurd h (by simp)
  case isTrue hc =>
  simp only [Bool.and_eq_true] at hc
  rw [if_neg (by simp [hc.1, hc.2])]
  split at h
  case h_2 => exact absurd h (by simp)
  case h_1 r lane h0 h1 s1 hf =>
  simp only [Option.some.injEq, Prod.mk.injEq] at h
  obtain ⟨rfl, rfl⟩ := h
  simp only [hf]
  have hdec := (State.entered_decIll s1 n t r lane (strandDecode h0 h1) _).symm.trans hill
  have hd : (strandDecode h0 h1).mn = mn := hmn
  simp only [hd, hdec, ne_eq, not_true, if_false, if_true, Bool.not_true, Bool.false_and]
  rfl

/-- R99, R121: a thread that halts with a cause keeps its PC, and its Span memory stays. -/
theorem State.haltThr_spec (s : State) {n t g : Nat} (hg : n * 16 + t = g) (cause : Nat) (ecause : Word)
    (hstep : (s.thr g).stepping = false) :
    let w := s.haltThr n t cause ecause
    let th := w.thr g
    th.st = .halted ∧ th.haltCause = cause ∧ th.pc = (s.thr g).pc ∧ th.stepping = false ∧ w.mem = s.mem := by
  subst hg
  unfold State.haltThr State.endStep
  simp [hstep]

theorem Thread.dropWork_evb (t : Thread) : t.dropWork.evb = t.evb := (rfl)
theorem Thread.dropWork_pc (t : Thread) : t.dropWork.pc = t.pc := (rfl)
theorem Thread.dropWork_stepping (t : Thread) : t.dropWork.stepping = t.stepping := (rfl)

/-- R97, R99: an entry that latches before round `l` goes to EVB as the thread reads it there, or halts the thread where EVB is no
handler address. -/
theorem State.latch_spec (s : State) {n t g : Nat} (hg : n * 16 + t = g) (l : Nat) (epc cause : Word)
    (hstep : (s.thr g).stepping = false) :
    let w := s.latch n t l epc cause
    let th := w.thr g
    let evb := ((s.thr g).settle (l - 1)).evb
    (if evbOk evb then th.entry = some (l, epc, cause) ∧ th.pc = evb
      else th.st = .halted ∧ th.haltCause = 3 ∧ th.pc = (s.thr g).pc) ∧ th.stepping = false ∧ w.mem = s.mem := by
  subst hg
  obtain ⟨hpc, hst⟩ := (s.thr (n * 16 + t)).settle_pc_stepping (l - 1)
  rw [hstep] at hst
  unfold State.latch
  dsimp only
  rw [Thread.dropWork_evb]
  split
  · simp [hst, Thread.dropWork_stepping]
  · have hhalt := State.haltThr_spec (s.setThr (n * 16 + t) ((s.thr (n * 16 + t)).settle (l - 1)).dropWork)
      (n := n) (t := t) rfl 3 cause
    rw [State.setThr_thr_self, Thread.dropWork_stepping, Thread.dropWork_pc, hpc] at hhalt
    obtain ⟨hhalted, hcause, hpc', hstep', hmem⟩ := hhalt hst
    exact ⟨⟨hhalted, hcause, hpc'⟩, hstep', hmem⟩

/-- R121: the state with the PC of a thread back at the instruction that traps. -/
def State.backTo (s : State) (g : Nat) (pc : Word) : State := s.setThr g { s.thr g with pc := pc }

theorem State.backTo_thr (s : State) (g : Nat) (pc : Word) : (s.backTo g pc).thr g = { s.thr g with pc := pc } :=
  State.setThr_thr_self ..

theorem Ctx.trap_eq (c : Ctx) (stage v d : Nat) (u : State) : c.trap stage (v, d) u =
    let cause := BitVec.ofNat 32 (v * 2 ^ 24 + d % 2 ^ 24)
    if (u.thr c.g).masked then (u.backTo c.g c.pc).haltThr c.n c.t 2 cause
    else (u.backTo c.g c.pc).latch c.n c.t (c.r + stage + 1) c.pc cause := (rfl)

/-- R97, R99, R121: a trap of a thread that no debugger steps. -/
theorem Ctx.trap_trapped (c : Ctx) (u : State) (stage v d : Nat) (hth : c.th = u.thr c.g) (hstep : c.th.stepping = false) :
    let w := c.trap stage (v, d) u
    c.trapped u w stage v d ∧ (w.thr c.g).stepping = false ∧ w.mem = u.mem := by
  have hback : ((u.backTo c.g c.pc).thr c.g).stepping = false := by rw [State.backTo_thr, ← hth, hstep]
  dsimp only
  rw [Ctx.trap_eq, Ctx.trapped, hth]
  dsimp only
  cases hm : (u.thr c.g).masked with
  | true =>
    obtain ⟨hhalted, hcause, hpc, hstep', hmem⟩ := State.haltThr_spec _ (show c.n * 16 + c.t = c.g from rfl) 2
      (BitVec.ofNat 32 (v * 2 ^ 24 + d % 2 ^ 24)) hback
    rw [State.backTo_thr] at hpc
    rw [if_pos rfl, if_pos rfl]
    exact ⟨⟨hhalted, hcause, hpc⟩, hstep', hmem⟩
  | false =>
    have h := State.latch_spec _ (show c.n * 16 + c.t = c.g from rfl) (c.r + stage + 1) c.pc
      (BitVec.ofNat 32 (v * 2 ^ 24 + d % 2 ^ 24)) hback
    dsimp only at h
    rw [State.backTo_thr, Thread.settle_evb_pc] at h
    rw [if_neg Bool.false_ne_true, if_neg Bool.false_ne_true]
    exact h

end Sys2Proof.Machine

/-! SUPPORT and CERTIFICATE. Packed decimal (R135, R136): both digit rules as one run over the digits of two words, and what the
run says in decimal; what DADD, DSUB and DADJ leave in their thread, and the settled statement. -/
namespace Sys2Proof.Machine

/-! ## The run of a digit rule -/

/-- R135: one digit of DADD, with the carry in and out. -/
def daddDigit (x y : Nat) (c : Bool) : Nat × Bool :=
  (if 9 < x + y + b2n c then (x + y + b2n c - 10) % 16 else x + y + b2n c, decide (9 < x + y + b2n c))

/-- R135: one digit of DSUB, with the borrow in and out. -/
def dsubDigit (x y : Nat) (w : Bool) : Nat × Bool :=
  (if x < y + b2n w then (x + 26 - (y + b2n w)) % 16 else x - (y + b2n w), decide (x < y + b2n w))

/-- A digit rule over the `k` low digits of `x` and `y`, lowest first: the digits it forms as a number, and the last carry. -/
def digitRun (rule : Nat → Nat → Bool → Nat × Bool) : Nat → Nat → Nat → Bool → Nat × Bool
  | 0, _, _, c => (0, c)
  | k + 1, x, y, c =>
    let d := rule (x % 16) (y % 16) c
    let rest := digitRun rule k (x / 16) (y / 16) d.2
    (d.1 + 16 * rest.1, rest.2)

/-- The `k` low digits of a number are at most 9. -/
def decimal : Nat → Nat → Bool
  | 0, _ => true
  | k + 1, x => decide (x % 16 ≤ 9) && decimal k (x / 16)

/-- The `k` low digits of a number, read in decimal. -/
def decimalValue : Nat → Nat → Nat
  | 0, _ => 0
  | k + 1, x => x % 16 + 10 * decimalValue k (x / 16)

@[simp] theorem b2n_true : b2n true = 1 := (rfl)
@[simp] theorem b2n_false : b2n false = 0 := (rfl)

theorem one_sub_b2n (b : Bool) : 1 - b2n b = b2n (!b) := by cases b <;> rfl

/-- A digit of a word is the lowest one past those below it. -/
theorem bits_digit (a : Word) (i : Nat) : bits a (4 * i) 4 = a.toNat / 16 ^ i % 16 := by
  rw [bits, Nat.shiftRight_eq_div_pow, Nat.pow_mul]
  norm_num

theorem div_digit_succ (x i : Nat) : x / 16 ^ i / 16 = x / 16 ^ (i + 1) := by
  rw [Nat.div_div_eq_div_mul, Nat.pow_succ]

theorem goodDigits_eq (a : Word) : goodDigits a = decimal 8 a.toNat := by
  simp [goodDigits, List.range_succ, decimal, bits_digit, Nat.div_div_eq_div_mul]

theorem badDigit_eq (a : Word) : badDigit a = !goodDigits a := by
  rw [badDigit, goodDigits, List.not_all_eq_any_not]
  congr 1
  funext i
  exact (decide_eq_decide.mpr Nat.not_le.symm).trans (decide_not ..)

theorem foldr_digits_eq_value (a : Word) (k i : Nat) :
    (List.range' i k).foldr (fun i acc => bits a (4 * i) 4 * 10 ^ i + acc) 0 = 10 ^ i * decimalValue k (a.toNat / 16 ^ i) := by
  induction k generalizing i with
  | zero => rfl
  | succ k ih =>
    rw [List.range'_succ, List.foldr_cons, ih, decimalValue, bits_digit, div_digit_succ]
    ring

theorem decVal_eq (a : Word) : decVal a = decimalValue 8 a.toNat := by
  rw [decVal, List.range_eq_range', foldr_digits_eq_value, Nat.pow_zero, Nat.pow_zero, Nat.one_mul, Nat.div_one]

theorem decimalValue_lt {k x : Nat} (h : decimal k x = true) : decimalValue k x < 10 ^ k := by
  induction k generalizing x with
  | zero => exact Nat.one_pos
  | succ k ih =>
    simp only [decimal, Bool.and_eq_true, decide_eq_true_eq] at h
    have := ih h.2
    rw [decimalValue, Nat.pow_succ]
    omega

section
variable {rule : Nat → Nat → Bool → Nat × Bool}

/-- Each digit of a run is below 16, so the run over `k` digits is a number of `k` digits. -/
theorem digitRun_lt (hrule : ∀ x < 16, ∀ y < 16, ∀ c, (rule x y c).1 < 16) (k x y : Nat) (c : Bool) :
    (digitRun rule k x y c).1 < 16 ^ k := by
  induction k generalizing x y c with
  | zero => exact Nat.one_pos
  | succ k ih =>
    have hd := hrule (x % 16) (Nat.mod_lt _ (by decide)) (y % 16) (Nat.mod_lt _ (by decide)) c
    have hr := ih (x / 16) (y / 16) (rule (x % 16) (y % 16) c).2
    rw [digitRun, Nat.pow_succ]
    dsimp only
    omega

/-- A loop over the digits of two words that adds each digit of the rule in its place makes the run. -/
theorem foldl_digits_eq_run {a b : Word} {f : Nat × Nat → Nat → Nat × Nat}
    (hf : ∀ p c i, f (p, b2n c) i =
      (p + (rule (bits a (4 * i) 4) (bits b (4 * i) 4) c).1 * 16 ^ i, b2n (rule (bits a (4 * i) 4) (bits b (4 * i) 4) c).2))
    (k i p : Nat) (c : Bool) : (List.range' i k).foldl f (p, b2n c) =
      (p + 16 ^ i * (digitRun rule k (a.toNat / 16 ^ i) (b.toNat / 16 ^ i) c).1,
        b2n (digitRun rule k (a.toNat / 16 ^ i) (b.toNat / 16 ^ i) c).2) := by
  induction k generalizing i p c with
  | zero => simp [digitRun]
  | succ k ih =>
    rw [List.range'_succ, List.foldl_cons, hf, ih, digitRun]
    simp only [bits_digit, div_digit_succ, Prod.mk.injEq, and_true]
    ring

/-- A rule that forms decimal digits from decimal digits, and keeps `d ± 10 · carry out = x ± (y + carry in)`, adds or subtracts in
decimal. -/
theorem digitRun_decimal {σ : Int} (hrule : ∀ x ≤ 9, ∀ y ≤ 9, ∀ c, (rule x y c).1 ≤ 9 ∧
      ((rule x y c).1 + σ * 10 * b2n (rule x y c).2 : Int) = x + σ * (y + b2n c))
    {k x y : Nat} {c : Bool} (hx : decimal k x = true) (hy : decimal k y = true) :
    decimal k (digitRun rule k x y c).1 = true ∧
      (decimalValue k (digitRun rule k x y c).1 + σ * 10 ^ k * b2n (digitRun rule k x y c).2 : Int)
        = decimalValue k x + σ * (decimalValue k y + b2n c) := by
  induction k generalizing x y c with
  | zero => simp [digitRun, decimal, decimalValue]
  | succ k ih =>
    simp only [decimal, Bool.and_eq_true, decide_eq_true_eq] at hx hy
    obtain ⟨hd, hval⟩ := hrule _ hx.1 _ hy.1 c
    obtain ⟨hrest, hrestVal⟩ := ih (c := (rule (x % 16) (y % 16) c).2) hx.2 hy.2
    have hlt : (rule (x % 16) (y % 16) c).1 < 16 := by omega
    simp only [digitRun, decimal, decimalValue, Nat.add_mul_mod_self_left, Nat.add_mul_div_left _ _ (Nat.zero_lt_succ 15),
      Nat.mod_eq_of_lt hlt, Nat.div_eq_of_lt hlt, Nat.zero_add, hd, decide_true, hrest, Bool.and_self, true_and]
    push_cast at hval ⊢
    linear_combination hval + 10 * hrestVal
end

/-! ## The two rules -/

theorem daddDigit_lt (x : Nat) (_ : x < 16) (y : Nat) (_ : y < 16) (c : Bool) : (daddDigit x y c).1 < 16 := by
  unfold daddDigit
  split <;> omega

theorem dsubDigit_lt (x : Nat) (_ : x < 16) (y : Nat) (_ : y < 16) (w : Bool) : (dsubDigit x y w).1 < 16 := by
  unfold dsubDigit
  split <;> omega

theorem daddDigit_decimal (x : Nat) (hx : x ≤ 9) (y : Nat) (hy : y ≤ 9) (c : Bool) : (daddDigit x y c).1 ≤ 9 ∧
    ((daddDigit x y c).1 + 1 * 10 * b2n (daddDigit x y c).2 : Int) = x + 1 * (y + b2n c) := by
  have hc := b2n_le c
  by_cases h : 9 < x + y + b2n c
  · simp only [daddDigit, h, if_true, decide_true, b2n_true]
    omega
  · simp only [daddDigit, h, if_false, decide_false, b2n_false]
    omega

theorem dsubDigit_decimal (x : Nat) (hx : x ≤ 9) (y : Nat) (hy : y ≤ 9) (w : Bool) : (dsubDigit x y w).1 ≤ 9 ∧
    ((dsubDigit x y w).1 + -1 * 10 * b2n (dsubDigit x y w).2 : Int) = x + -1 * (y + b2n w) := by
  have hw := b2n_le w
  by_cases h : x < y + b2n w
  · simp only [dsubDigit, h, if_true, decide_true, b2n_true]
    omega
  · simp only [dsubDigit, h, if_false, decide_false, b2n_false]
    omega

/-- R136: the marks of the digits at hand and of those above them. -/
theorem mark_digit (x y : Nat) (p q : Bool) :
    (!(p && q) || decide (9 < x) || decide (9 < y)) = !((decide (x ≤ 9) && p) && (decide (y ≤ 9) && q)) := by
  simp only [← Nat.not_le, decide_not, Bool.not_and]
  ac_rfl

/-- R135, R136: the recursion of DADD runs its digit rule, and marks a digit above 9. -/
theorem daddDigits_eq (a b : Word) (k i : Nat) (c : Bool) :
    let run := digitRun daddDigit k (a.toNat / 16 ^ i) (b.toNat / 16 ^ i) c
    let half := if k = 0 then false else (daddDigit (a.toNat / 16 ^ i % 16) (b.toNat / 16 ^ i % 16) c).2
    daddDigits a b k i c = (run.1, run.2, half, !(decimal k (a.toNat / 16 ^ i) && decimal k (b.toNat / 16 ^ i))) := by
  induction k generalizing i c with
  | zero => rfl
  | succ k ih =>
    simp only [daddDigits, digitRun, ih, bits_digit, div_digit_succ, decimal, daddDigit, decide_eq_true_eq, mark_digit,
      Nat.succ_ne_zero, if_false]

/-- R135, R136: the recursion of DSUB runs its digit rule, and marks a digit above 9. -/
theorem dsubDigits_eq (a b : Word) (k i : Nat) (w : Bool) :
    let run := digitRun dsubDigit k (a.toNat / 16 ^ i) (b.toNat / 16 ^ i) w
    let half := if k = 0 then false else (dsubDigit (a.toNat / 16 ^ i % 16) (b.toNat / 16 ^ i % 16) w).2
    dsubDigits a b k i w = (run.1, run.2, half, !(decimal k (a.toNat / 16 ^ i) && decimal k (b.toNat / 16 ^ i))) := by
  induction k generalizing i w with
  | zero => rfl
  | succ k ih =>
    simp only [dsubDigits, digitRun, ih, bits_digit, div_digit_succ, decimal, dsubDigit, decide_eq_true_eq, mark_digit,
      Nat.succ_ne_zero, if_false, Nat.sub_sub]

/-! ## The results of DADD and DSUB -/

/-- A result that a digit rule forms from two words, with the flags of R135. -/
def digitRes (rule : Nat → Nat → Bool → Nat × Bool) (carry : Bool → Bool) (a b : Word) (c : Bool) : Res :=
  let run := digitRun rule 8 a.toNat b.toNat c
  let v := BitVec.ofNat 32 run.1
  ⟨v, mkFlags false (rule (a.toNat % 16) (b.toNat % 16) c).2 (!(goodDigits a && goodDigits b)) v.msb (v == 0) (carry run.2)⟩

theorem daddForm_eq (a b : Word) (c : Bool) : daddForm a b c = digitRes daddDigit id a b c := by
  simp [daddForm, digitRes, daddDigits_eq, goodDigits_eq]

theorem dsubForm_eq (a b : Word) (c : Bool) : dsubForm a b c = digitRes dsubDigit not a b (!c) := by
  simp [dsubForm, digitRes, dsubDigits_eq, goodDigits_eq]

section
variable {rule : Nat → Nat → Bool → Nat × Bool} {carry : Bool → Bool} {a b : Word} {c : Bool}

theorem digitRes_toNat (hrule : ∀ x < 16, ∀ y < 16, ∀ c, (rule x y c).1 < 16) :
    (digitRes rule carry a b c).val.toNat = (digitRun rule 8 a.toNat b.toNat c).1 := by
  rw [digitRes, BitVec.toNat_ofNat]
  exact Nat.mod_eq_of_lt (digitRun_lt hrule 8 _ _ _)

/-- R135: the result and the last carry are those of a loop over the eight digits. -/
theorem digitRes_eq_foldl {f : Nat × Nat → Nat → Nat × Nat} (hrule : ∀ x < 16, ∀ y < 16, ∀ c, (rule x y c).1 < 16)
    (hf : ∀ p c i, f (p, b2n c) i =
      (p + (rule (bits a (4 * i) 4) (bits b (4 * i) 4) c).1 * 16 ^ i, b2n (rule (bits a (4 * i) 4) (bits b (4 * i) 4) c).2)) :
    ((digitRes rule carry a b c).val.toNat, b2n (digitRun rule 8 a.toNat b.toNat c).2) = (List.range 8).foldl f (0, b2n c) := by
  rw [digitRes_toNat hrule, List.range_eq_range', foldl_digits_eq_run hf]
  simp

/-- R136: on digits that are all at most 9 the result is decimal, and decimal arithmetic. -/
theorem digitRes_decimal {σ : Int} (hrule : ∀ x < 16, ∀ y < 16, ∀ c, (rule x y c).1 < 16)
    (hdec : ∀ x ≤ 9, ∀ y ≤ 9, ∀ c, (rule x y c).1 ≤ 9 ∧
      ((rule x y c).1 + σ * 10 * b2n (rule x y c).2 : Int) = x + σ * (y + b2n c))
    (ha : goodDigits a = true) (hb : goodDigits b = true) :
    goodDigits (digitRes rule carry a b c).val = true ∧
      (decVal (digitRes rule carry a b c).val + σ * 10 ^ 8 * b2n (digitRun rule 8 a.toNat b.toNat c).2 : Int)
        = decVal a + σ * (decVal b + b2n c) := by
  rw [goodDigits_eq] at ha hb ⊢
  rw [decVal_eq, decVal_eq, decVal_eq, digitRes_toNat hrule]
  exact digitRun_decimal hdec ha hb
end

theorem decVal_lt {a : Word} (h : goodDigits a = true) : decVal a < 10 ^ 8 := by
  rw [decVal_eq]
  exact decimalValue_lt (goodDigits_eq a ▸ h)

/-- R136: DADD on decimal words. -/
theorem daddForm_decimal {a b : Word} (c : Bool) (ha : goodDigits a = true) (hb : goodDigits b = true) :
    goodDigits (daddForm a b c).val = true ∧
      decVal (daddForm a b c).val + 10 ^ 8 * b2n (flC (daddForm a b c).fl) = decVal a + decVal b + b2n c := by
  rw [daddForm_eq]
  obtain ⟨hgood, hval⟩ := digitRes_decimal (carry := id) (c := c) daddDigit_lt daddDigit_decimal ha hb
  refine ⟨hgood, ?_⟩
  rw [show flC (digitRes daddDigit id a b c).fl = (digitRun daddDigit 8 a.toNat b.toNat c).2 from flC_mkFlags ..]
  omega

/-- R136: DSUB on decimal words. -/
theorem dsubForm_decimal {a b : Word} (c : Bool) (ha : goodDigits a = true) (hb : goodDigits b = true) :
    goodDigits (dsubForm a b c).val = true ∧
      decVal (dsubForm a b c).val + decVal b + (1 - b2n c) = decVal a + 10 ^ 8 * (1 - b2n (flC (dsubForm a b c).fl)) := by
  rw [dsubForm_eq]
  obtain ⟨hgood, hval⟩ := digitRes_decimal (carry := not) (c := !c) dsubDigit_lt dsubDigit_decimal ha hb
  refine ⟨hgood, ?_⟩
  rw [show flC (digitRes dsubDigit not a b (!c)).fl = !(digitRun dsubDigit 8 a.toNat b.toNat (!c)).2 from flC_mkFlags ..]
  rw [one_sub_b2n, one_sub_b2n, Bool.not_not]
  omega

/-- R135, R136: with C = 0 DADJ forms the magnitude of a decimal word. -/
theorem dsubForm_zero_decimal {a : Word} (ha : goodDigits a = true) :
    goodDigits (dsubForm 0 a true).val = true ∧ decVal (dsubForm 0 a true).val = (10 ^ 8 - decVal a) % 10 ^ 8 := by
  obtain ⟨hgood, hval⟩ := dsubForm_decimal true (show goodDigits 0 = true by decide) ha
  refine ⟨hgood, ?_⟩
  have hlt := decVal_lt hgood
  have ha' := decVal_lt ha
  have hzero : decVal 0 = 0 := by decide
  rw [hzero, b2n_true] at hval
  have := b2n_le (flC (dsubForm 0 a true).fl)
  omega

/-- R135: one turn of the loop of DADD over its digits, on the result so far and the carry. -/
abbrev daddTurn (a b : Word) (p : Nat × Nat) (i : Nat) : Nat × Nat :=
  let q := bits a (4 * i) 4 + bits b (4 * i) 4 + p.2
  if 9 < q then (p.1 + (q - 10) % 16 * 16 ^ i, 1) else (p.1 + q * 16 ^ i, 0)

/-- R135: one turn of the loop of DSUB over its digits, on the result so far and the borrow. -/
abbrev dsubTurn (a b : Word) (p : Nat × Nat) (i : Nat) : Nat × Nat :=
  let m := bits b (4 * i) 4 + p.2
  if bits a (4 * i) 4 < m then (p.1 + (bits a (4 * i) 4 + 26 - m) % 16 * 16 ^ i, 1) else (p.1 + (bits a (4 * i) 4 - m) * 16 ^ i, 0)

/-- R135: DADD on any digits. -/
theorem daddForm_eq_loop (a b : Word) (c : Bool) :
    ((daddForm a b c).val.toNat, b2n (flC (daddForm a b c).fl)) = (List.range 8).foldl (daddTurn a b) (0, b2n c) := by
  rw [daddForm_eq, ← digitRes_eq_foldl (carry := id) daddDigit_lt]
  · exact congrArg _ (congrArg b2n (flC_mkFlags ..))
  · intro p c i
    unfold daddTurn daddDigit
    dsimp only
    split <;> rename_i h <;> simp [h]

/-- R135: DSUB on any digits; the borrow out is 1 − C. -/
theorem dsubForm_eq_loop (a b : Word) (c : Bool) :
    ((dsubForm a b c).val.toNat, 1 - b2n (flC (dsubForm a b c).fl)) = (List.range 8).foldl (dsubTurn a b) (0, 1 - b2n c) := by
  rw [dsubForm_eq, one_sub_b2n, one_sub_b2n, ← digitRes_eq_foldl (carry := not) dsubDigit_lt]
  · exact congrArg _ (congrArg b2n ((congrArg not (flC_mkFlags ..)).trans (Bool.not_not _)))
  · intro p c i
    unfold dsubTurn dsubDigit
    dsimp only
    split <;> rename_i h <;> simp [h]

/-- R135: the magnitude that DADJ forms, on any digits. -/
theorem dsubForm_zero_eq_loop (a : Word) : (dsubForm 0 a true).val.toNat = ((List.range 8).foldl (dsubTurn 0 a) (0, 0)).1 := by
  have h := dsubForm_eq_loop 0 a true
  rw [b2n_true, Nat.sub_self] at h
  rw [← h]

/-! ## What DADD, DSUB and DADJ leave in their thread -/

theorem daddForm_flags (a b : Word) (c : Bool) :
    flV (daddForm a b c).fl = (!(goodDigits a && goodDigits b)) ∧ flZ (daddForm a b c).fl = ((daddForm a b c).val == 0) ∧
    flN (daddForm a b c).fl = (daddForm a b c).val.msb ∧
    flH (daddForm a b c).fl = decide (9 < a.toNat % 16 + b.toNat % 16 + b2n c) := by
  rw [daddForm_eq]
  exact ⟨flV_mkFlags .., flZ_mkFlags .., flN_mkFlags .., flH_mkFlags ..⟩

theorem dsubForm_flags (a b : Word) (c : Bool) :
    flV (dsubForm a b c).fl = (!(goodDigits a && goodDigits b)) ∧ flZ (dsubForm a b c).fl = ((dsubForm a b c).val == 0) ∧
    flN (dsubForm a b c).fl = (dsubForm a b c).val.msb ∧
    flH (dsubForm a b c).fl = decide (a.toNat % 16 < b.toNat % 16 + (1 - b2n c)) := by
  rw [dsubForm_eq, one_sub_b2n]
  exact ⟨flV_mkFlags .., flZ_mkFlags .., flN_mkFlags .., flH_mkFlags ..⟩

/-- R135: DADJ on any digits; C and H, which the row leaves, are not told. -/
theorem dadjForm_fields (a : Word) (c : Bool) : (dadjForm a c).val = (if c then a else (dsubForm 0 a true).val) ∧
    flN (dadjForm a c).fl = !c ∧ flV (dadjForm a c).fl = !goodDigits a ∧ flZ (dadjForm a c).fl = ((dadjForm a c).val == 0) := by
  rw [← badDigit_eq]
  exact ⟨rfl, flN_mkFlags .., flV_mkFlags .., flZ_mkFlags ..⟩

theorem dadjRes_true (a : Word) : dadjRes a true = [.fl mNZV (dadjForm a true).fl] := (rfl)
theorem dadjRes_false (a : Word) : dadjRes a false = resA (dadjForm a false) mNZV := (rfl)

/-- R135: DADJ writes N, Z and V, and A only where C is 0. -/
theorem dadj_at {s u : State} {n t : Fin 16} {c : Ctx} (hs : s.slot n t = some (c, u)) (hr : c.runs u .dadj) :
    let w := strand .dadj (fun c => c.fin (dadjRes c.th.a (flC c.th.fl))) n t s
    let old := u.at (gthr n t) (c.r + 6)
    let new := w.at (gthr n t) (c.r + 6)
    new.a = (if flC c.th.fl then old.a else (dadjForm c.th.a (flC c.th.fl)).val) ∧
      new.fl = (old.fl &&& ~~~mNZV) ||| ((dadjForm c.th.a (flC c.th.fl)).fl &&& mNZV) := by
  have h := fin_at (body := fun c => c.fin (dadjRes c.th.a (flC c.th.fl))) hs hr rfl
  dsimp only
  cases hc : flC c.th.fl with
  | true =>
    rw [hc, dadjRes_true] at h
    exact ⟨h.a, h.fl⟩
  | false =>
    rw [hc, dadjRes_false] at h
    obtain ⟨ha, hfl⟩ := foldl_resA (dadjForm c.th.a false) mNZV (u.at (gthr n t) (c.r + 6))
    exact ⟨h.a.trans ha, h.fl.trans hfl⟩

/-- Settles O10: DADD, DSUB and DADJ run the digit rule of R135 on any digits, and on digits of at most 9 that is decimal arithmetic. -/
theorem decimalResult : Obligations.DecimalResult := by
  unfold Obligations.DecimalResult
  intro s u n t c mn v hs hr hmn hv
  simp only [List.mem_cons, List.not_mem_nil, or_false] at hmn
  rcases hmn with rfl | rfl | rfl
  · have hres : operandRes c.d c.th v = resA (daddForm c.th.a (BitVec.ofNat 32 v) (flC c.th.fl)) mNZCVH := by
      rw [operandRes, hr.1]
    obtain ⟨ha, hfl⟩ := memForm_resA hs hr (hv.resolve_left (by decide)) (by decide) rfl hres
    obtain ⟨hV, hZ, hN, hH⟩ := daddForm_flags c.th.a (BitVec.ofNat 32 v) (flC c.th.fl)
    refine ⟨strand .dadd Ctx.memForm n t s, rfl, ?_⟩
    simpa [ha, hfl, hV, hZ, hN, hH] using And.intro
      (daddForm_decimal (a := c.th.a) (b := BitVec.ofNat 32 v) (flC c.th.fl)) (daddForm_eq_loop c.th.a (BitVec.ofNat 32 v) (flC c.th.fl))
  · have hres : operandRes c.d c.th v = resA (dsubForm c.th.a (BitVec.ofNat 32 v) (flC c.th.fl)) mNZCVH := by
      rw [operandRes, hr.1]
    obtain ⟨ha, hfl⟩ := memForm_resA hs hr (hv.resolve_left (by decide)) (by decide) rfl hres
    obtain ⟨hV, hZ, hN, hH⟩ := dsubForm_flags c.th.a (BitVec.ofNat 32 v) (flC c.th.fl)
    refine ⟨strand .dsub Ctx.memForm n t s, rfl, ?_⟩
    simpa [ha, hfl, hV, hZ, hN, hH] using And.intro
      (dsubForm_decimal (a := c.th.a) (b := BitVec.ofNat 32 v) (flC c.th.fl)) (dsubForm_eq_loop c.th.a (BitVec.ofNat 32 v) (flC c.th.fl))
  · obtain ⟨ha, hfl⟩ := dadj_at hs hr
    refine ⟨_, rfl, ?_⟩
    cases hc : flC c.th.fl with
    | true =>
      obtain ⟨hA, hN, hV, hZ⟩ := dadjForm_fields c.th.a true
      rw [hc] at ha hfl
      simp [ha, hfl, hA, hV, hZ, hN]
    | false =>
      obtain ⟨hA, hN, hV, hZ⟩ := dadjForm_fields c.th.a false
      rw [hc] at ha hfl
      simpa [ha, hfl, hA, hV, hZ, hN] using And.intro (dsubForm_zero_decimal (a := c.th.a)) (dsubForm_zero_eq_loop c.th.a)

end Sys2Proof.Machine

/-! SUPPORT and CERTIFICATE. CRCS (R138): the fold over the data bits in both forms, the trap of a bad configuration, and the settled
statement. -/
namespace Sys2Proof.Machine

/-! ## The reversed generator -/

/-- R138: the loop that takes the bits of the generator lowest first reverses them. -/
theorem foldl_bits_eq_revBits (w acc g : Nat) :
    (List.range w).foldl (fun acc i => 2 * acc + g / 2 ^ i % 2) acc = acc * 2 ^ w + revBits w g := by
  induction w generalizing acc g with
  | zero => simp [revBits]
  | succ w ih =>
    have hshift : ∀ i, g / 2 ^ i.succ = g / 2 / 2 ^ i := fun i => by
      rw [Nat.div_div_eq_div_mul, Nat.pow_succ']
    simp only [List.range_succ_eq_map, List.foldl_cons, List.foldl_map, hshift, ih, revBits]
    rw [Nat.pow_zero, Nat.div_one]
    ring

theorem revBits_lt (w g : Nat) : revBits w g < 2 ^ w := by
  induction w generalizing g with
  | zero => exact Nat.one_pos
  | succ w ih =>
    have hrest := ih (g / 2)
    rcases Nat.mod_two_eq_zero_or_one g with h | h <;> rw [revBits, h, Nat.pow_succ] <;> omega

/-! ## One data bit -/

/-- R138: the bit shifted out on the left. -/
theorem top_bit_eq {w acc : Nat} (hw : 0 < w) (h : acc < 2 ^ w) : (acc / 2 ^ (w - 1) % 2 == 1) = decide (2 ^ w ≤ 2 * acc) := by
  obtain ⟨w, rfl⟩ := Nat.exists_eq_add_of_lt hw
  rw [Nat.zero_add, Nat.add_sub_cancel] at *
  rw [Nat.pow_succ] at h ⊢
  rw [Nat.mod_eq_of_lt (Nat.div_lt_of_lt_mul h), Bool.eq_iff_iff, beq_iff_eq, decide_eq_true_iff]
  have hlt : acc / 2 ^ w < 2 := Nat.div_lt_of_lt_mul h
  have hle : 1 ≤ acc / 2 ^ w ↔ 2 ^ w ≤ acc := by rw [Nat.le_div_iff_mul_le (Nat.two_pow_pos w), Nat.one_mul]
  omega

/-- R138: the unreflected form. -/
theorem crcBit_up {w g acc : Nat} (hw : 0 < w) (h : acc < 2 ^ w) (d : Bool) :
    crcBit w g false acc d = (2 * acc % 2 ^ w) ^^^ (if (decide (2 ^ w ≤ 2 * acc)) != d then g else 0) := by
  rw [← top_bit_eq hw h, apply_ite (2 * acc % 2 ^ w ^^^ ·), Nat.xor_zero, Nat.mul_comm 2]
  rfl

/-- R138: the reflected form. -/
theorem crcBit_down (w g acc : Nat) (d : Bool) :
    crcBit w g true acc d = (acc / 2) ^^^ (if (acc % 2 == 1) != d then revBits w g else 0) := by
  rw [apply_ite (acc / 2 ^^^ ·), Nat.xor_zero]
  rfl

/-- R138: no bit comes in above the low `w`. -/
theorem crcBit_lt {w g acc : Nat} (refl : Bool) (hg : g < 2 ^ w) (h : acc < 2 ^ w) (d : Bool) : crcBit w g refl acc d < 2 ^ w := by
  have hup : acc * 2 % 2 ^ w < 2 ^ w := Nat.mod_lt _ (Nat.two_pow_pos w)
  have hdown : acc / 2 < 2 ^ w := Nat.lt_of_le_of_lt (Nat.div_le_self ..) h
  unfold crcBit
  dsimp only
  split <;> split
  · exact Nat.xor_lt_two_pow hdown (revBits_lt w g)
  · exact hdown
  · exact Nat.xor_lt_two_pow hup hg
  · exact hup

/-- A loop over the data bits that does on every state of `w` bits what CRCS does has its result, a state of `w` bits. -/
theorem foldl_crcBit {w g : Nat} {refl : Bool} {f : Nat → Bool → Nat} (hg : g < 2 ^ w)
    (hf : ∀ acc < 2 ^ w, ∀ d, crcBit w g refl acc d = f acc d) {acc : Nat} (h : acc < 2 ^ w) (data : List Bool) :
    data.foldl (crcBit w g refl) acc = data.foldl f acc ∧ data.foldl (crcBit w g refl) acc < 2 ^ w :=
  List.foldl_rel (r := fun x y => x = y ∧ x < 2 ^ w) ⟨rfl, h⟩ fun d _ x _ ⟨hxy, hx⟩ =>
    ⟨hxy ▸ hf x hx d, crcBit_lt refl hg hx d⟩

/-! ## The fold and the data bits -/

theorem crcWidth_eq {poly : Word} (h : poly ≠ 0) : crcWidth poly = poly.toNat.log2 + 1 := if_neg h

theorem crcWidth_le {poly : Word} (h : poly ≠ 0) : crcWidth poly ≤ 32 := by
  rw [crcWidth_eq h]
  exact (Nat.log2_lt (fun hz => h (BitVec.eq_of_toNat_eq hz))).mpr poly.isLt

theorem crcGen_lt (poly : Word) : crcGen poly < 2 ^ crcWidth poly := Nat.mod_lt _ (Nat.two_pow_pos _)

/-- R138: the fold is the loop over the data bits on the state reduced to its low `w` bits, and its result has no bit above them. -/
theorem crcFold_toNat {poly : Word} (h : poly ≠ 0) (refl : Bool) {f : Nat → Bool → Nat}
    (hf : ∀ acc < 2 ^ crcWidth poly, ∀ d, crcBit (crcWidth poly) (crcGen poly) refl acc d = f acc d) (a : Word) (data : List Bool) :
    (crcFold poly refl a data).toNat = data.foldl f (a.toNat % 2 ^ crcWidth poly) ∧
      (crcFold poly refl a data).toNat < 2 ^ crcWidth poly := by
  obtain ⟨heq, hlt⟩ := foldl_crcBit (crcGen_lt poly) hf (Nat.mod_lt a.toNat (Nat.two_pow_pos _)) data
  have hword : 2 ^ crcWidth poly ≤ 2 ^ 32 := Nat.pow_le_pow_right (by decide) (crcWidth_le h)
  rw [crcFold, BitVec.toNat_ofNat, Nat.mod_eq_of_lt (hlt.trans_le hword)]
  exact ⟨heq, hlt⟩

theorem bitsDown_eq (v : Word) (k : Nat) : bitsDown v k = ((List.range k).map fun i => v.getLsbD i).reverse := by
  induction k with
  | zero => rfl
  | succ k ih => simp [bitsDown, List.range_succ, ih]

/-- R138: how many data bits of X the field DBITS of Y selects. -/
def crcsCount (y : Word) : Nat := if bits y 1 2 = 0 then 8 else if bits y 1 2 = 3 then 1 else 16 * bits y 1 2

theorem crcsCount_eq (y : Word) : nth 0 [8, 16, 32, 1] (bits y 1 2) = crcsCount y := by
  have h : bits y 1 2 < 4 := Nat.mod_lt _ (by decide)
  unfold crcsCount
  interval_cases bits y 1 2 <;> rfl

/-- R138: the data bits come lowest first in the reflected form, and highest first in the other. -/
theorem crcsData_eq (x y : Word) :
    let up := (List.range (crcsCount y)).map fun i => x.getLsbD i
    crcsData x y = if y.getLsbD 0 then up else up.reverse := by
  simp only [crcsData, crcsCount_eq, bitsUp, bitsDown_eq, List.reverse_reverse]

/-! ## What CRCS leaves in its thread -/

/-- R138: a CRCS that runs has a generator. -/
theorem crccfg_ne_zero {c : Ctx} {u : State} (hr : c.runs u .crcs) : c.th.crccfg ≠ 0 := by
  obtain ⟨hmn, hill, -⟩ := hr
  intro hz
  simp [State.decIll, hmn, hz] at hill

theorem crcs_at {s u : State} {n t : Fin 16} {c : Ctx} (hs : s.slot n t = some (c, u)) (hr : c.runs u .crcs) :
    let a := crcFold c.th.crccfg (c.th.y.getLsbD 0) c.th.a (crcsData c.th.x c.th.y)
    let old := u.at (gthr n t) (c.r + 6)
    let new := (strand .crcs crcsBody n t s).at (gthr n t) (c.r + 6)
    new.a = a ∧ new.fl = (old.fl &&& ~~~0b000010) ||| (flNZ a &&& 0b000010) := by
  have h := fin_at (body := crcsBody) hs hr rfl
  exact ⟨h.a, h.fl⟩

/-- R138: a CRCS that runs forms the state that the loop of its form leaves. -/
theorem crcs_result {c : Ctx} {u : State} (hr : c.runs u .crcs) :
    let w := c.th.crccfg.toNat.log2 + 1
    let gen := (c.th.crccfg.toNat * 2 + 1) % 2 ^ w
    let genR := (List.range w).foldl (fun acc i => 2 * acc + gen / 2 ^ i % 2) 0
    let up := (List.range (crcsCount c.th.y)).map fun i => c.th.x.getLsbD i
    let state := c.th.a.toNat % 2 ^ w
    let a := crcFold c.th.crccfg (c.th.y.getLsbD 0) c.th.a (crcsData c.th.x c.th.y)
    (c.th.y.getLsbD 0 = false → a.toNat =
      up.reverse.foldl (fun acc d => (2 * acc % 2 ^ w) ^^^ (if (decide (2 ^ w ≤ 2 * acc)) != d then gen else 0)) state) ∧
    (c.th.y.getLsbD 0 = true → a.toNat =
      up.foldl (fun acc d => (acc / 2) ^^^ (if (acc % 2 == 1) != d then genR else 0)) state) ∧ a.toNat < 2 ^ w := by
  have hne := crccfg_ne_zero hr
  have hw := crcWidth_eq hne
  have hgen : (c.th.crccfg.toNat * 2 + 1) % 2 ^ crcWidth c.th.crccfg = crcGen c.th.crccfg := rfl
  simp only [← hw, hgen, foldl_bits_eq_revBits, Nat.zero_mul, Nat.zero_add, crcsData_eq]
  have hpos : 0 < crcWidth c.th.crccfg := hw ▸ Nat.succ_pos _
  cases hrefl : c.th.y.getLsbD 0 with
  | false =>
    obtain ⟨heq, hlt⟩ := crcFold_toNat hne false (fun acc h d => crcBit_up hpos h d) c.th.a
      ((List.range (crcsCount c.th.y)).map fun i => c.th.x.getLsbD i).reverse
    exact ⟨fun _ => heq, nofun, hlt⟩
  | true =>
    obtain ⟨heq, hlt⟩ := crcFold_toNat hne true (fun acc _ d => crcBit_down _ _ acc d) c.th.a
      ((List.range (crcsCount c.th.y)).map fun i => c.th.x.getLsbD i)
    exact ⟨nofun, fun _ => heq, hlt⟩

/-- R138: what makes CRCS trap, whatever its condition. -/
theorem crcs_decIll {d : SDec} {th : Thread} (s : State) (hmn : d.mn = .crcs) (h : th.crccfg = 0 ∨ 7 < th.y.toNat) :
    s.decIll d th = true := by
  rcases h with hcfg | hmode
  · simp [State.decIll, hmn, hcfg]
  · have hble : Nat.ble 8 th.y.toNat = true := Nat.ble_eq.mpr hmode
    simp [State.decIll, hmn, hble]

/-- R138: CRCS with a bad configuration traps ILLEGAL in DEC and leaves memory. -/
theorem crcs_traps {s u : State} {n t : Fin 16} {c : Ctx} (hs : s.slot n t = some (c, u)) (hmn : c.d.mn = .crcs)
    (hstep : c.th.stepping = false) (hbad : c.th.crccfg = 0 ∨ 7 < c.th.y.toNat) :
    c.trapped u (strand .crcs crcsBody n t s) 2 1 c.d.h0.toNat ∧ (strand .crcs crcsBody n t s).mem = u.mem := by
  obtain ⟨hn, ht, hth, -⟩ := State.slot_ctx hs
  have hg : n.val * 16 + t.val = c.g := by rw [Ctx.g, hn, ht]
  obtain ⟨htrapped, hafter, hmem⟩ := c.trap_trapped u 2 1 c.d.h0.toNat (hg ▸ hth) hstep
  have hrun : strand .crcs crcsBody n t s = c.trap 2 (1, c.d.h0.toNat) u :=
    (strandBy_ill crcsBody Ctx.plainBeat hs hmn (crcs_decIll _ hmn hbad)).trans (State.stepDone_off (hg ▸ hafter))
  rw [hrun]
  exact ⟨htrapped, hmem⟩

/-- R138: CRCS writes Z and no other flag. -/
theorem flags_mask_Z (old v : BitVec 6) :
    let new := (old &&& ~~~0b000010) ||| (v &&& 0b000010)
    flZ new = flZ v ∧ flN new = flN old ∧ flC new = flC old ∧ flV new = flV old ∧ flH new = flH old ∧ flT new = flT old :=
  ⟨(flZ_mask ..).trans (if_pos rfl), (flN_mask ..).trans (if_neg (by decide)), (flC_mask ..).trans (if_neg (by decide)),
    (flV_mask ..).trans (if_neg (by decide)), (flH_mask ..).trans (if_neg (by decide)), (flT_mask ..).trans (if_neg (by decide))⟩

/-- Settles O11: CRCS folds its data bits one by one in either form, and with a bad configuration it traps. -/
theorem crcResult : Obligations.CrcResult := by
  unfold Obligations.CrcResult
  intro s u n t c hs
  constructor
  · intro hr
    obtain ⟨ha, hfl⟩ := crcs_at hs hr
    obtain ⟨hup, hdown, hlt⟩ := crcs_result hr
    refine ⟨strand .crcs crcsBody n t s, rfl, ?_⟩
    dsimp only at ha hfl ⊢
    rw [ha, hfl, ← flZ_flNZ]
    exact ⟨hup, hdown, hlt, flags_mask_Z ..⟩
  · intro hmn hstep hbad
    exact ⟨strand .crcs crcsBody n t s, rfl, crcs_traps hs hmn hstep hbad⟩

end Sys2Proof.Machine

/-! SUPPORT and CERTIFICATE. Flow of the Clove engines (R184, R189, R190, R192, R193, R204, R207): what a step that completes, a step that
stalls and a step without an instruction leave, and the settled statement. -/
namespace Sys2Proof.Machine

/-! ## What a step leaves alone -/

/-- R184: `u` has the Span registers, the engines and every channel but the step's own as `s` has them. -/
structure CCtx.Leaves (x : CCtx) (s u : State) : Prop where
  reg : ∀ o, 0x100000 ≤ o → u.reg o = s.reg o
  engine : ∀ i, u.engine i = s.engine i
  chan : ∀ i, i ≠ x.key → u.chan i = s.chan i

theorem CCtx.Leaves.trans {x : CCtx} {s u w : State} (h : x.Leaves s u) (k : x.Leaves u w) : x.Leaves s w :=
  ⟨fun o ho => (k.reg o ho).trans (h.reg o ho), fun i => (k.engine i).trans (h.engine i), fun i hi => (k.chan i hi).trans (h.chan i hi)⟩

theorem CCtx.leaves_setChan (x : CCtx) (s : State) (ch : Chan) : x.Leaves s (s.setChan x.key ch) :=
  ⟨fun _ _ => rfl, fun _ => rfl, fun _ hi => State.setChan_chan_ne _ _ _ hi.symm⟩

@[simp] theorem State.dbgEnd_chan (s : State) (k i : Nat) : (s.dbgEnd k).chan i = s.chan i := by
  unfold State.dbgEnd
  split
  · rfl
  · rw [State.offer_chan]; rfl

@[simp] theorem State.dbgEnd_engine (s : State) (k i : Nat) : (s.dbgEnd k).engine i = s.engine i := by
  unfold State.dbgEnd
  split
  · rfl
  · rw [State.offer_engine]; rfl

@[simp] theorem State.dbgEnd_banks (s : State) (k : Nat) : (s.dbgEnd k).banks = s.banks := by
  unfold State.dbgEnd
  split
  · rfl
  · rw [State.offer_banks]

/-! ## The read of the instruction word -/

/-- R435: the counts and the capture of an error stand below the registers of the Spans. -/
theorem State.eccNote_reg (s : State) (ue : Bool) {id : Nat} (hid : id < 8) (span addr : Nat) {o : Nat} (ho : 0x100000 ≤ o) :
    (s.eccNote ue id span addr).reg o = s.reg o := by
  have hcount : 0x80100 + id * 4 ≠ o := by omega
  have hcapture : 0x80120 ≠ o := by omega
  have haddr : 0x80124 ≠ o := by omega
  unfold State.eccNote
  dsimp only
  rw [State.offer_reg]
  split
  · rw [State.setReg_reg_ne _ _ _ haddr, State.setReg_reg_ne _ _ _ hcapture, State.setReg_reg_ne _ _ _ hcount, State.drawn_reg]
  · rw [State.setReg_reg_ne _ _ _ hcount, State.drawn_reg]

/-- `u` has the channels, engines, pin banks and Span registers of `s`. -/
structure State.SameSteps (s u : State) : Prop where
  chans : u.chans = s.chans
  engines : u.engines = s.engines
  banks : u.banks = s.banks
  reg : ∀ o, 0x100000 ≤ o → u.reg o = s.reg o

theorem State.eccNote_sameSteps (s : State) (ue : Bool) {id : Nat} (hid : id < 8) (span addr : Nat) :
    s.SameSteps (s.eccNote ue id span addr) := by
  refine ⟨?_, ?_, ?_, fun o ho => s.eccNote_reg ue hid span addr ho⟩ <;>
  · unfold State.eccNote
    dsimp only
    split <;> simp

/-- R433: a read of a granule changes nothing of the engines but the counts of its errors. -/
theorem State.readGran_sameSteps (s : State) {id : Nat} (hid : id < 8) (g span addr : Nat) :
    s.SameSteps (s.readGran id g span addr).2 := by
  unfold State.readGran
  split
  · exact ⟨rfl, rfl, rfl, fun _ _ => rfl⟩
  · obtain ⟨hc, he, hb, hr⟩ := State.eccNote_sameSteps { s with upset := tabSet 0 s.upset (upKey id g) 0 } false hid span addr
    exact ⟨hc, he, hb, hr⟩
  · exact s.eccNote_sameSteps true hid span addr

/-- The state in which the word of a step has been read. -/
def CCtx.fetched (x : CCtx) (s : State) : State := (s.clRead x.n x.e x.ch.pc).2

theorem CCtx.fetched_sameSteps (x : CCtx) (s : State) : s.SameSteps (x.fetched s) := s.readGran_sameSteps (by decide) _ _ _

theorem CCtx.leaves_fetched (x : CCtx) (s : State) : x.Leaves s (x.fetched s) := by
  obtain ⟨hc, he, -, hr⟩ := x.fetched_sameSteps s
  exact ⟨hr, fun i => by rw [State.engine, he, State.engine], fun i _ => by rw [State.chan, hc, State.chan]⟩

/-- The state in which an instruction takes effect: its word is read, and the channel is as the step sees it (R187). -/
def CCtx.begun (x : CCtx) (s : State) : State := (x.fetched s).setChan x.key { x.ch with pins := x.pins }

theorem CCtx.leaves_begun (x : CCtx) (s : State) : x.Leaves s (x.begun s) := (x.leaves_fetched s).trans (x.leaves_setChan _ _)

theorem CCtx.begun_banks (x : CCtx) (s : State) : (x.begun s).banks = s.banks := (x.fetched_sameSteps s).banks

theorem CCtx.begun_chan (x : CCtx) (s : State) : (x.begun s).chan x.key = { x.ch with pins := x.pins } := State.setChan_chan_self _ _ _

/-! ## The bits and registers a step reads -/

theorem chnOff_ge (n e c : Nat) : 0x100000 ≤ chnOff n e c := by
  unfold chnOff spanOff
  omega

section
variable {x : CCtx} {s u : State} (h : x.Leaves s u)
include h

theorem CCtx.Leaves.chn_reg : u.reg (chnOff x.n x.e x.c) = s.reg (chnOff x.n x.e x.c) := h.reg _ (chnOff_ge _ _ _)

theorem CCtx.Leaves.chn_bit (i : Nat) : u.bit (chnOff x.n x.e x.c) i = s.bit (chnOff x.n x.e x.c) i :=
  congrArg (·.getLsbD i) h.chn_reg

theorem CCtx.Leaves.chn_fld (lo len : Nat) : u.fld (chnOff x.n x.e x.c) lo len = s.fld (chnOff x.n x.e x.c) lo len :=
  congrArg (bits · lo len) h.chn_reg

theorem CCtx.Leaves.stepFlags : u.stepFlags x.n x.e x.c x.tick x.ch = s.stepFlags x.n x.e x.c x.tick x.ch := by
  unfold State.stepFlags State.chFlags State.chnEn
  rw [h.chn_bit]

/-- R188: the bit space of a channel holds nothing that such a change touches. -/
theorem CCtx.Leaves.bit (a : Nat) : x.bit u a = x.bit s a := by
  have hsibling : ∀ j, (if j = x.c then x.ch else u.chan (chanKey x.n x.e j)) = if j = x.c then x.ch else s.chan (chanKey x.n x.e j) := by
    intro j
    split
    · rfl
    · next hj => exact h.chan _ fun hk => hj (Nat.add_left_cancel hk)
  unfold CCtx.bit State.bitVar
  simp only [h.stepFlags, hsibling]

theorem CCtx.Leaves.cond : x.cond u = x.cond s := by
  unfold CCtx.cond
  simp only [h.stepFlags, h.bit, h.chn_fld]

end

/-! ## A step that executes an instruction -/

/-- R189, R441: the end of a step whose instruction took effect in `s1`: the channel goes on at `j`, or in sequence. -/
def CCtx.done (x : CCtx) (s1 : State) (j : Option Nat) : State :=
  let ch := s1.chan x.key
  let s2 := s1.setChan x.key { ch with
    pc := j.getD (nextPc ch), flags := (ch.flags &&& ~~~2) ||| (if ch.dbgStep then 0x800 else 0), dbgStep := false }
  (if ch.dbgStep then s2.dbgEnd 0 else s2).stepped x.n x.e

@[simp] theorem State.stepped_chan (s : State) (n e i : Nat) : (s.stepped n e).chan i = s.chan i := (rfl)
@[simp] theorem State.stepped_thr (s : State) (n e i : Nat) : (s.stepped n e).thr i = s.thr i := (rfl)
@[simp] theorem State.stepped_banks (s : State) (n e : Nat) : (s.stepped n e).banks = s.banks := (rfl)

theorem State.stepped_k (s : State) (n e : Nat) : ((s.stepped n e).engine (n * 12 + e)).k = (s.engine (n * 12 + e)).k + 1 := by
  unfold State.stepped
  rw [State.setEngine_engine_self]

section
variable (x : CCtx) (s1 : State) (j : Option Nat)

theorem CCtx.done_chan : (x.done s1 j).chan x.key = { s1.chan x.key with
    pc := j.getD (nextPc (s1.chan x.key))
    flags := ((s1.chan x.key).flags &&& ~~~2) ||| (if (s1.chan x.key).dbgStep then 0x800 else 0)
    dbgStep := false } := by
  unfold CCtx.done
  dsimp only
  split <;> simp

theorem CCtx.done_chan_ne {i : Nat} (h : i ≠ x.key) : (x.done s1 j).chan i = s1.chan i := by
  unfold CCtx.done
  dsimp only
  split <;> simp [State.setChan_chan_ne _ _ _ h.symm]

theorem CCtx.done_k : ((x.done s1 j).engine (x.n * 12 + x.e)).k = (s1.engine (x.n * 12 + x.e)).k + 1 := by
  unfold CCtx.done
  dsimp only
  rw [State.stepped_k]
  split <;> simp

@[simp] theorem CCtx.done_thr (i : Nat) : (x.done s1 j).thr i = s1.thr i := by
  unfold CCtx.done
  dsimp only
  split <;> simp

@[simp] theorem CCtx.done_banks : (x.done s1 j).banks = s1.banks := by
  unfold CCtx.done
  dsimp only
  split <;> simp

end

/-- R189, R193: a step whose effect leaves the other channels alone completes at the PC it is given. -/
theorem CCtx.done_completes {x : CCtx} {s s1 : State} (h : x.Leaves s s1) (j : Option Nat) :
    x.completes s (x.done s1 j) (j.getD (nextPc (s1.chan x.key))) := by
  refine ⟨?_, ?_, ?_, ?_⟩
  · rw [x.done_chan]
  · rw [x.done_chan]
    dsimp only
    split <;> simp
  · rw [x.done_k, h.engine]
  · intro i hi
    rw [x.done_chan_ne s1 j hi, h.chan i hi]
    exact ⟨rfl, rfl, rfl, rfl, rfl, rfl, rfl, rfl, rfl⟩

section
variable {s : State} {n : Fin 16} {e : Fin 12} {pins : BitVec 24} {mn : ClMn} {stalls : CCtx → State → Bool}
  {body : CCtx → State → State × Option Nat} (hr : s.cruns n e pins mn)
include hr

/-- R187, R193: the instruction that comes next stalls, and the step sets STALL and no more, or it takes effect and the step ends. -/
theorem clove_runs :
    let x := s.cctx n e pins
    clove mn stalls body n e pins s = if stalls x (x.fetched s) then (x.stall (x.fetched s)).stepped n e
      else x.done (body x (x.begun s)).1 (body x (x.begun s)).2 := by
  obtain ⟨hdue, hruns, hgood, hmn⟩ := hr
  have hacts : ¬ (!s.engineDue n e || !s.chRuns n e (s.cctx n e pins).c (s.cctx n e pins).ch) = true := by simp [hdue, hruns]
  have hread : ¬ s.clBad n e (s.cctx n e pins).ch.pc = true := by simp [hgood]
  have hword : ¬ (clMn (s.cctx n e pins).w != some mn) = true := by simp [hmn]
  exact (if_neg hacts).trans ((if_neg hread).trans (if_neg hword))

end

/-- An effect that goes on in sequence and keeps the channel's PC and run-time wrap completes at the PC in sequence. -/
theorem CCtx.done_onward {x : CCtx} {s s1 : State} (h : x.Leaves s s1)
    (hpc : (s1.chan x.key).pc = x.ch.pc ∧ (s1.chan x.key).rwb = x.ch.rwb ∧ (s1.chan x.key).rwe = x.ch.rwe) :
    x.completes s (x.done s1 none) x.seq := by
  obtain ⟨hpc, hb, he⟩ := hpc
  have hseq : nextPc (s1.chan x.key) = x.seq := by
    unfold nextPc CCtx.seq
    rw [hpc, hb, he]
  exact hseq ▸ CCtx.done_completes h none

/-! ## Events (R204) -/

theorem mem_pendAdd (v d : Nat) (l : List (Nat × Nat)) : (v, d) ∈ pendAdd v d l := by
  induction l with
  | nil => exact List.mem_singleton.mpr rfl
  | cons p r ih =>
    obtain ⟨v', d'⟩ := p
    unfold pendAdd
    split
    · next h => simp [h]
    · split
      · exact List.mem_cons_self
      · exact List.mem_cons_of_mem _ ih

theorem Thread.raise_pend (t : Thread) (v d : Nat) : (t.raise v d).pend = pendAdd v d t.pend := by
  unfold Thread.raise
  dsimp only
  rw [apply_ite Thread.pend]
  exact ite_self _

theorem State.raiseEv_pend (s : State) (g v d : Nat) : (v, d) ∈ ((s.raiseEv g v d).thr g).pend := by
  unfold State.raiseEv
  rw [State.setThr_thr_self, Thread.raise_pend]
  exact mem_pendAdd _ _ _

theorem CCtx.leaves_cloveEvent (x : CCtx) (s : State) (src : Nat) : x.Leaves s (s.cloveEvent x.n x.e x.c src) := by
  unfold State.cloveEvent
  dsimp only
  split
  · exact ⟨fun _ _ => rfl, fun _ => rfl, fun _ _ => rfl⟩
  · exact (x.leaves_setChan s _).trans ⟨fun _ _ => rfl, fun _ => rfl, fun _ _ => rfl⟩

/-- R204: a source that EVMASK enables makes the channel's event pending, and changes nothing else of the channel. -/
theorem State.cloveEvent_chan (s : State) (n e c src : Nat) : (s.cloveEvent n e c src).chan (chanKey n e c) =
    { s.chan (chanKey n e c) with evPend := s.bit (chnOff n e c) (16 + src) || (s.chan (chanKey n e c)).evPend } := by
  unfold State.cloveEvent State.bit
  dsimp only
  split
  · next h =>
    have hkept : ((s.reg (chnOff n e c)).getLsbD (16 + src) || (s.chan (chanKey n e c)).evPend) = (s.chan (chanKey n e c)).evPend := by
      revert h
      cases (s.reg (chnOff n e c)).getLsbD (16 + src) <;> simp
    rw [hkept]
  · next h =>
    simp only [Bool.or_eq_true, Bool.not_eq_true', not_or, Bool.not_eq_false] at h
    rw [h.1]
    exact State.setChan_chan_self _ _ _

/-- R204: an enabled source of a channel with no pending event raises CLOVE in the channel's thread. -/
theorem State.cloveEvent_pend (s : State) (n e c src : Nat) (hmask : s.bit (chnOff n e c) (16 + src) = true)
    (hpend : (s.chan (chanKey n e c)).evPend = false) :
    (0x12, e * 4 + c) ∈ ((s.cloveEvent n e c src).thr (n * 16 + s.fld (chnOff n e c) 20 4)).pend := by
  unfold State.bit at hmask
  unfold State.cloveEvent
  simp only [hmask, hpend, Bool.not_true, Bool.or_self, Bool.false_eq_true, if_false]
  exact State.raiseEv_pend _ _ _ _

/-- R204: a step from `s` to `w` raises the channel's event where EVMASK enables the source: it is pending in the channel, and comes to the
channel's thread unless it was pending before. -/
def CCtx.raises (x : CCtx) (src : Nat) (s w : State) : Prop :=
  s.bit (chnOff x.n x.e x.c) (16 + src) = true → (w.chan x.key).evPend = true ∧
    (x.ch.evPend = false → (0x12, x.e * 4 + x.c) ∈ (w.thr (x.n * 16 + s.fld (chnOff x.n x.e x.c) 20 4)).pend)

/-- R204: the end of a step that raises an event of its channel. -/
theorem CCtx.done_cloveEvent {x : CCtx} {s s1 : State} (h : x.Leaves s s1) (src : Nat)
    (hch : ∃ f, s1.chan x.key = { x.ch with flags := f, pins := x.pins }) :
    let w := x.done (s1.cloveEvent x.n x.e x.c src) none
    x.completes s w x.seq ∧
      (w.chan x.key).flags = ((s1.chan x.key).flags &&& ~~~2) ||| (if x.ch.dbgStep then 0x800 else 0) ∧
      x.raises src s w := by
  obtain ⟨f, hch⟩ := hch
  have hevent : (s1.cloveEvent x.n x.e x.c src).chan x.key =
      { s1.chan x.key with evPend := s1.bit (chnOff x.n x.e x.c) (16 + src) || (s1.chan x.key).evPend } := s1.cloveEvent_chan ..
  refine ⟨CCtx.done_onward (h.trans (x.leaves_cloveEvent s1 src)) ?_, ?_, fun hmask => ⟨?_, fun hpend => ?_⟩⟩
  · rw [hevent, hch]
    exact ⟨rfl, rfl, rfl⟩
  · rw [x.done_chan, hevent, hch]
  · rw [x.done_chan, hevent, h.chn_bit, hmask]
    rfl
  · rw [x.done_thr, ← h.chn_fld]
    refine s1.cloveEvent_pend _ _ _ _ ((h.chn_bit _).trans hmask) ?_
    exact (congrArg Chan.evPend hch).trans hpend

/-! ## jmp (R191, R192) -/

/-- R191: a word of jmp has one of the 14 conditions. -/
theorem cond_le_of_jmp {w : Word} (h : clMn w = some .jmp) : bits w 23 4 ≤ 13 := by
  by_contra hcond
  have hop : bits w 27 5 ≠ 8 := by
    intro hop
    have hres : clReserved w = true := by simp [clReserved, hop, Nat.lt_of_not_le hcond]
    simp [clMn, hres] at h
  have hbits : bits w 25 2 < 4 := Nat.mod_lt _ (by decide)
  unfold clMn at h
  split at h
  · cases h
  · split at h
    case h_6 | h_7 => split at h <;> cases h
    case h_8 =>
      revert h
      interval_cases bits w 25 2 <;> decide
    case h_9 => contradiction
    all_goals cases h

/-- R196: SHCNT is at a boundary where it is a multiple of 1, 8, 16 or 32 bits. -/
theorem atBoundary_eq {b : Nat} (hb : b < 4) (cnt : Nat) :
    atBoundary b cnt = (cnt % (if b = 0 then 1 else 2 ^ (b + 2)) == 0) := by
  unfold atBoundary
  interval_cases b <;> rfl

theorem setFlags_getLsbD (f m v : BitVec 16) (i : Nat) :
    (setFlags f m v).getLsbD i = if m.getLsbD i then v.getLsbD i else f.getLsbD i := by
  simp only [setFlags, BitVec.getLsbD_or, BitVec.getLsbD_and, BitVec.getLsbD_not]
  by_cases hi : i < 16
  · cases m.getLsbD i <;> simp [hi]
  · simp [BitVec.getLsbD_of_ge _ _ (Nat.le_of_not_lt hi)]

/-- R188, R199: OFULL as a step sees it. -/
theorem State.stepFlags_ofull (s : State) (n e c t : Nat) (ch : Chan) :
    (!(s.stepFlags n e c t ch).getLsbD 5) = decide (ch.outF.length < 8) := by
  have hfull : ∀ en empty full : Bool, (BitVec.ofNat 16 (b2n en + 16 * b2n empty + 32 * b2n full)).getLsbD 5 = full := by decide
  unfold State.stepFlags State.chFlags
  rw [setFlags_getLsbD, if_neg (by decide), setFlags_getLsbD, if_pos (by decide), hfull, Bool.eq_iff_iff, Bool.not_eq_true',
    ← Bool.not_eq_true, Nat.ble_eq, Nat.not_le, decide_eq_true_iff]

/-- R192: the channel with the count of the condition taken down. -/
def CCtx.counted (x : CCtx) (ch : Chan) : Chan := { ch with
  cntA := if bits x.w 23 4 = 3 then ch.cntA - 1 else ch.cntA
  cntB := if bits x.w 23 4 = 4 then ch.cntB - 1 else ch.cntB }

theorem jmpBody_of_cond {x : CCtx} {s : State} (h : x.cond s = true) :
    jmpBody x s = (s.setChan x.key (x.counted (s.chan x.key)), some (bits x.w 0 8)) := if_pos h

theorem jmpBody_of_not_cond {x : CCtx} {s : State} (h : x.cond s = false) : jmpBody x s = (s, none) := if_neg (by simp [h])

section
variable {s : State} {n : Fin 16} {e : Fin 12} {pins : BitVec 24}

/-- R192: jmp goes to its target where its condition holds, and counts then. -/
theorem cloveJmp_spec (hr : s.cruns n e pins .jmp) :
    let x := s.cctx n e pins
    let w := clove .jmp never jmpBody n e pins s
    x.completes s w (if x.cond s then bits x.w 0 8 else x.seq) ∧
      (w.chan x.key).cntA = (if x.cond s ∧ bits x.w 23 4 = 3 then x.ch.cntA - 1 else x.ch.cntA) ∧
      (w.chan x.key).cntB = (if x.cond s ∧ bits x.w 23 4 = 4 then x.ch.cntB - 1 else x.ch.cntB) := by
  intro x w
  have hw : w = x.done (jmpBody x (x.begun s)).1 (jmpBody x (x.begun s)).2 := clove_runs hr
  have hchan := x.begun_chan s
  have hcond : x.cond (x.begun s) = x.cond s := (x.leaves_begun s).cond
  cases htaken : x.cond s with
  | false =>
    rw [hw, jmpBody_of_not_cond (hcond.trans htaken)]
    refine ⟨CCtx.done_onward (x.leaves_begun s) (by rw [hchan]; exact ⟨rfl, rfl, rfl⟩), ?_⟩
    simp [CCtx.done_chan, hchan]
  | true =>
    rw [hw, jmpBody_of_cond (hcond.trans htaken)]
    refine ⟨CCtx.done_completes ((x.leaves_begun s).trans (x.leaves_setChan _ _)) (some _), ?_⟩
    simp [CCtx.done_chan, CCtx.counted, hchan]

/-! ## wait, nop, dly, irq and halt -/

/-- R193: a stall leaves the PC, sets STALL and uses up the step. -/
theorem CCtx.stall_spec (x : CCtx) (s : State) :
    let w := (x.stall (x.fetched s)).stepped x.n x.e
    (w.chan x.key).pc = x.ch.pc ∧ (w.chan x.key).flags.getLsbD 1 = true ∧
      (w.engine (x.n * 12 + x.e)).k = (s.engine (x.n * 12 + x.e)).k + 1 := by
  refine ⟨?_, ?_, ?_⟩
  · simp [CCtx.stall]
  · simp [CCtx.stall]
  · rw [State.stepped_k]
    exact congrArg (·.k + 1) ((x.leaves_fetched s).engine _)

/-- R193: wait goes on where its bit has its level, and stalls while it has not. -/
theorem cloveWait_spec (hr : s.cruns n e pins .wait) :
    let x := s.cctx n e pins
    let w := clove .wait (fun x s => x.bit s (bits x.w 14 9) != x.w.getLsbD 26) (onward fun _ s => s) n e pins s
    (x.bit s (bits x.w 14 9) = x.w.getLsbD 26 → x.completes s w x.seq) ∧
    (x.bit s (bits x.w 14 9) ≠ x.w.getLsbD 26 → (w.chan x.key).pc = x.ch.pc ∧ (w.chan x.key).flags.getLsbD 1 = true ∧
      (w.engine (n * 12 + e)).k = (s.engine (n * 12 + e)).k + 1) := by
  intro x w
  have hw : w = if x.bit (x.fetched s) (bits x.w 14 9) != x.w.getLsbD 26 then (x.stall (x.fetched s)).stepped n e
    else x.done (x.begun s) none := clove_runs hr
  rw [(x.leaves_fetched s).bit] at hw
  constructor
  · intro hlevel
    rw [hw, if_neg (by simp [hlevel])]
    exact CCtx.done_onward (x.leaves_begun s) (by rw [x.begun_chan]; exact ⟨rfl, rfl, rfl⟩)
  · intro hlevel
    rw [hw, if_pos (bne_iff_ne.mpr hlevel)]
    exact x.stall_spec s

theorem cloveNop_spec (hr : s.cruns n e pins .nop) :
    let x := s.cctx n e pins
    let w := clove .nop never (onward fun _ s => s) n e pins s
    x.completes s w x.seq ∧ w.banks = s.banks ∧ (w.chan x.key).sh = x.ch.sh ∧ (w.chan x.key).shcnt = x.ch.shcnt := by
  intro x w
  have hw : w = x.done (x.begun s) none := clove_runs hr
  have hchan := x.begun_chan s
  rw [hw]
  refine ⟨CCtx.done_onward (x.leaves_begun s) (by rw [hchan]; exact ⟨rfl, rfl, rfl⟩), ?_⟩
  simp [CCtx.done_chan, hchan, x.begun_banks]

/-- R204: an effect that moves neither ERR nor STALE raises no event. -/
theorem CCtx.put_of_flags {x : CCtx} {s : State} {ch : Chan} (h : ch.flags = (s.chan x.key).flags) : x.put s ch = s.setChan x.key ch := by
  unfold CCtx.put State.flagEvents
  simp [h]

/-- R190: dly n has the channel's next n own steps do nothing. -/
theorem cloveDly_spec (hr : s.cruns n e pins .dly) :
    let x := s.cctx n e pins
    let w := clove .dly never (onward (chanBody fun w ch => { ch with dly := bits w 0 16 })) n e pins s
    x.completes s w x.seq ∧ (w.chan x.key).dly = bits x.w 0 16 := by
  intro x w
  have hput : chanBody (fun w ch => { ch with dly := bits w 0 16 }) x (x.begun s) =
      (x.begun s).setChan x.key { (x.begun s).chan x.key with dly := bits x.w 0 16 } := CCtx.put_of_flags rfl
  have hw : w = x.done (chanBody (fun w ch => { ch with dly := bits w 0 16 }) x (x.begun s)) none := clove_runs hr
  have hchan := x.begun_chan s
  rw [hw, hput]
  refine ⟨CCtx.done_onward ((x.leaves_begun s).trans (x.leaves_setChan _ _)) ?_, ?_⟩
  · simp [hchan]
  · simp [CCtx.done_chan]

/-- R204: irq is a source of the channel's event. -/
theorem cloveIrq_spec (hr : s.cruns n e pins .irq) :
    let x := s.cctx n e pins
    let w := clove .irq never (onward fun x s => s.cloveEvent x.n x.e x.c 0) n e pins s
    x.completes s w x.seq ∧ x.raises 0 s w := by
  intro x w
  have hw : w = x.done ((x.begun s).cloveEvent x.n x.e x.c 0) none := clove_runs hr
  obtain ⟨hgo, -, hevent⟩ := CCtx.done_cloveEvent (x.leaves_begun s) 0 ⟨_, x.begun_chan s⟩
  rw [hw]
  exact ⟨hgo, hevent⟩

/-- R190, R204: halt sets HALT, and is a source of the channel's event. -/
theorem cloveHalt_spec (hr : s.cruns n e pins .halt) :
    let x := s.cctx n e pins
    let w := clove .halt never (onward fun x s =>
      let ch := s.chan x.key
      (s.setChan x.key { ch with flags := ch.flags ||| 0x800 }).cloveEvent x.n x.e x.c 1) n e pins s
    x.completes s w x.seq ∧ (w.chan x.key).flags.getLsbD 11 = true ∧ x.raises 1 s w := by
  intro x w
  let ch := (x.begun s).chan x.key
  have hw : w = x.done (((x.begun s).setChan x.key { ch with flags := ch.flags ||| 0x800 }).cloveEvent x.n x.e x.c 1) none := clove_runs hr
  have hch : ((x.begun s).setChan x.key { ch with flags := ch.flags ||| 0x800 }).chan x.key =
      { x.ch with flags := ch.flags ||| 0x800, pins := x.pins } := by
    rw [State.setChan_chan_self]
    exact congrArg (fun c : Chan => { c with flags := ch.flags ||| 0x800 }) (x.begun_chan s)
  obtain ⟨hgo, hflags, hevent⟩ := CCtx.done_cloveEvent ((x.leaves_begun s).trans (x.leaves_setChan _ _)) 1 ⟨_, hch⟩
  rw [hw]
  refine ⟨hgo, ?_, hevent⟩
  rw [hflags, State.setChan_chan_self]
  dsimp only
  split <;> simp

end

/-! ## A step without an instruction (R184, R190, R207) -/

/-- R190: the channel a step finds that executes nothing: dly counts down where nothing else holds the channel. -/
def CCtx.idled (x : CCtx) (s : State) : Chan := { x.ch with
  pins := if s.chnEn x.n x.e x.c then x.pins else x.ch.pins
  dly := if s.chnEn x.n x.e x.c && !x.ch.stopping && !x.ch.flags.getLsbD 11 && !x.ch.dbgHalt && !s.drainHeld x.n x.e x.c x.ch
    then x.ch.dly - 1 else x.ch.dly }

theorem CCtx.idled_dly {x : CCtx} {s : State} (hen : s.chnEn x.n x.e x.c = true) (hstop : x.ch.stopping = false)
    (hhalt : x.ch.flags.getLsbD 11 = false) (hdbg : x.ch.dbgHalt = false) (hdrain : s.drainHeld x.n x.e x.c x.ch = false) :
    (x.idled s).dly = x.ch.dly - 1 := by
  unfold CCtx.idled
  rw [hen, hstop, hhalt, hdbg, hdrain]
  rfl

/-- R441: CE_HALT of a channel that is not being disabled halts it at such a step. -/
def CCtx.idleStep (x : CCtx) (s : State) : State :=
  let ch := x.idled s
  if ch.dbgHalt && !ch.stopping then (s.setChan x.key { ch with flags := ch.flags ||| 0x800, dbgHalt := false }).dbgEnd 0
  else s.setChan x.key ch

@[simp] theorem CCtx.idleStep_engine (x : CCtx) (s : State) (i : Nat) : (x.idleStep s).engine i = s.engine i := by
  unfold CCtx.idleStep
  dsimp only
  split <;> simp

/-- A step that executes nothing leaves the channel its PC, its shifter and its FIFOs. -/
theorem CCtx.idleStep_chan (x : CCtx) (s : State) :
    ∃ f h, (x.idleStep s).chan x.key = { x.idled s with flags := f, dbgHalt := h } := by
  unfold CCtx.idleStep
  dsimp only
  split
  · exact ⟨_, _, by rw [State.dbgEnd_chan, State.setChan_chan_self]⟩
  · exact ⟨_, _, State.setChan_chan_self _ _ _⟩

@[simp] theorem State.noteDrain_chan (s : State) (t i : Nat) : (s.noteDrain t).chan i = s.chan i := by
  unfold State.noteDrain
  split <;> rfl

@[simp] theorem State.noteDrain_engine (s : State) (t i : Nat) : (s.noteDrain t).engine i = s.engine i := by
  unfold State.noteDrain
  split <;> rfl

@[simp] theorem State.endTxn_chan (s : State) (n e c t i : Nat) : (s.endTxn n e c t).chan i = s.chan i := (rfl)
@[simp] theorem State.endTxn_engine (s : State) (n e c t i : Nat) : (s.endTxn n e c t).engine i = s.engine i := (rfl)

/-- R207: a disable that takes effect empties the in FIFO and keeps the channel's other registers. -/
theorem State.chanOff_chan (s : State) (n e c t : Nat) : (s.chanOff n e c t).chan (chanKey n e c) =
    { s.chan (chanKey n e c) with inF := [], stopping := false, dbgHalt := false, dbgStep := false } := by
  unfold State.chanOff
  simp

theorem State.chanOff_engine (s : State) (n e c t i : Nat) : (s.chanOff n e c t).engine i = s.engine i := by
  unfold State.chanOff
  dsimp only
  rw [State.noteDrain_engine, State.endTxn_engine, State.setChan_engine]
  split <;> rfl

section
variable {s : State} {n : Fin 16} {e : Fin 12} {pins : BitVec 24} (hdue : s.engineDue n e = true)
  (hidle : s.chRuns n e (s.cctx n e pins).c (s.cctx n e pins).ch = false)
include hdue hidle

theorem cloveIdle_eq :
    let x := s.cctx n e pins
    cloveIdle n e pins s = (if x.ch.stopping then (x.idleStep s).chanOff x.n x.e x.c x.tick else x.idleStep s).stepped n e :=
  if_neg (by simp [hdue, hidle])

theorem cloveIdle_k :
    ((cloveIdle n e pins s).engine (n * 12 + e)).k = (s.engine (n * 12 + e)).k + 1 := by
  rw [cloveIdle_eq hdue hidle, State.stepped_k]
  split
  · rw [State.chanOff_engine, CCtx.idleStep_engine]
  · rw [CCtx.idleStep_engine]

/-- R184, R207: the channel is as `idled` says, but for its flags; a disable that waited for the step empties the in FIFO. -/
theorem cloveIdle_chan :
    let x := s.cctx n e pins
    ∃ f h, (cloveIdle n e pins s).chan x.key = if x.ch.stopping then
        { x.idled s with flags := f, inF := [], stopping := false, dbgHalt := false, dbgStep := false }
      else { x.idled s with flags := f, dbgHalt := h } := by
  intro x
  obtain ⟨f, h, hch⟩ := x.idleStep_chan s
  refine ⟨f, h, ?_⟩
  rw [cloveIdle_eq hdue hidle, State.stepped_chan]
  split
  · refine ((x.idleStep s).chanOff_chan x.n x.e x.c x.tick).trans ?_
    rw [← CCtx.key, hch]
  · exact hch

end

/-- Settles O43: each instruction of the family does at its step what its spec lemma says, and a step without one what `cloveIdle_chan`
says; the jmp condition of the model is the table of R192, condition by condition. -/
theorem cloveFlow : Obligations.CloveFlow := by
  unfold Obligations.CloveFlow
  intro s n e pins x cc f bit
  refine ⟨fun hr => ?_, fun hr => ?_, fun hr => ?_, fun hr => ?_, fun mn hmn hr => ?_, fun hdue hidle => ?_⟩
  · refine ⟨_, rfl, ?_⟩
    intro taken
    have htaken : taken = x.cond s := by
      obtain ⟨-, -, -, hmn⟩ := hr
      have hcond : bits x.w 23 4 ≤ 13 := cond_le_of_jmp hmn
      have hbound : s.fld (chnOff x.n x.e x.c) 28 2 < 4 := Nat.mod_lt _ (by decide)
      unfold CCtx.cond
      dsimp only [taken, cc]
      rw [atBoundary_eq hbound, State.stepFlags_ofull]
      revert hcond
      generalize bits x.w 23 4 = k
      intro hcond
      interval_cases k <;> rfl
    rw [htaken]
    exact cloveJmp_spec hr
  · obtain ⟨hgo, hstall⟩ := cloveWait_spec hr
    exact ⟨_, rfl, hgo, fun hlevel => hstall hlevel⟩
  · exact ⟨_, rfl, cloveNop_spec hr⟩
  · exact ⟨_, rfl, cloveDly_spec hr⟩
  · rcases hmn with rfl | rfl
    · obtain ⟨hgo, hhalt, hevent⟩ := cloveHalt_spec hr
      exact ⟨_, rfl, hgo, fun _ => hhalt, hevent⟩
    · obtain ⟨hgo, hevent⟩ := cloveIrq_spec hr
      exact ⟨_, rfl, hgo, nofun, hevent⟩
  · obtain ⟨f, h, hch⟩ := cloveIdle_chan hdue hidle
    refine ⟨_, rfl, ?_, ?_, cloveIdle_k hdue hidle, ?_, ?_⟩
    · rw [hch]; split <;> rfl
    · rw [hch]; split <;> rfl
    · intro hen hstop hhalt hdbg _ hdrain
      rw [hch, if_neg (Bool.eq_false_iff.mp hstop)]
      exact CCtx.idled_dly hen hstop hhalt hdbg hdrain
    · intro hstop
      rw [hch, if_pos hstop]
      exact ⟨rfl, rfl, rfl⟩

end Sys2Proof.Machine
